-- ==== Sys2Proof/Word.lean ====
section
/-! DEFINITION. The word types. -/

namespace Sys2Proof

/-- A byte. -/
abbrev Byte := BitVec 8
/-- A 64-bit word: a register, a tile-store word, an instruction word. -/
abbrev Word := BitVec 64

end Sys2Proof
end

