-- ==== Sys2Proof/Syntax.lean ====
section
/-! DEFINITION. The commands: one constructor per row of the table of operations and events, with the operands the chapters
give the operation. Operands that name a unit are bounded by their type; `p` is the host port an access arrives through
(R231), `d` the serial number of a fetched descriptor (State.descs), `k` a link, `t` a tile. -/

namespace Sys2Proof

/-- The fields of a tile instruction word below MAJOR and MINOR (R47). -/
structure TF where
  d : BitVec 5 := 0
  a : BitVec 5 := 0
  b : BitVec 5 := 0
  md : BitVec 5 := 0
  imm : BitVec 32 := 0
  deriving DecidableEq, Repr

/-- The fields of a flit (R155). `payload` holds the bytes of its LENGTH; `ann` says that its credit field announces a channel anew
(R153, R163), `trl` that its last 8 payload bytes are a trailer (R178); `corr` counts the symbols corrected in its codewords
(R166). -/
structure Flit where
  typ : BitVec 8
  vc : BitVec 2
  seq : BitVec 16
  ack : BitVec 16
  crVc : BitVec 2 := 0
  cr : BitVec 14 := 0
  tag : BitVec 32 := 0
  payload : List Byte := []
  ann : Bool := false
  trl : Bool := false
  corr : Nat := 0
  deriving DecidableEq, Repr

/-- A flit as the codewords of a link deliver it: its bytes (R155), with what the header has no field for. -/
structure Wire where
  bytes : List Byte
  ann : Bool := false
  trl : Bool := false
  corr : Nat := 0
  deriving DecidableEq, Repr

/-- How a message that has a row of its own arrives: the link, the first of its flits, the number of its trailer where it comes by a
detour (R178). -/
structure Via where
  k : Fin 128
  f : Flit
  trailer : Option Nat := none
  deriving DecidableEq, Repr

/-- What the training words of a lane carry, with the lane entry they are received on (R153). -/
structure TrainWord where
  lane : Nat
  rank : Nat
  srcLane : Nat
  wave : Nat
  plan : Word
  deriving DecidableEq, Repr

/-- A ready message of a start (`kind` 0), a resume (1) or a rollback (2) (R81, R91, R92). -/
structure Ready where
  rank : Nat
  tick : Nat
  imageId : Word
  crc : BitVec 32
  refused : Bool := false
  kind : Nat := 0
  target : Nat := 0
  start : Nat := 0
  epoch : Nat := 0
  deriving DecidableEq, Repr

/-- What one monitor reads in one sample (R187, R196): the process value, the raw reading as 1/1024 of full scale of the
present range, and whether light is seen. -/
structure Sample where
  loop : Nat
  pv : Int
  frac : Nat := 512
  light : Bool := true
  deriving DecidableEq, Repr

/-- The end of one start phase, as the hardware finds it: the time it took, the units whose calibration could not finish (R332), the
units whose held calibration passes its check word at a temperature near enough (R326), the flash slots that pass R358. -/
structure PhaseResult where
  ms : Nat := 0
  calFailed : BitVec 6 := 0
  calReuse : BitVec 6 := 0
  imageOk0 : Bool := true
  imageOk1 : Bool := true
  deriving DecidableEq, Repr

/-- A one-step Sync, as it is received (R215, R218): the departure stamp in units of 2^-16 ns. -/
structure SyncMsg where
  typ : Nat := 0
  version : Nat := 2
  len : Nat
  tagLen : Nat
  domain : Nat
  seqId : Nat
  origin : Nat
  deriving DecidableEq, Repr

/-- A peer-delay message, as it is received (R215, R218): the turnaround in units of 2^-16 ns. -/
structure PdelayMsg where
  typ : Nat
  version : Nat := 2
  len : Nat
  tagLen : Nat
  domain : Nat
  seqId : Nat
  turnaround : Nat := 0
  deriving DecidableEq, Repr

/-- The commands of the block. -/
inductive Instr where
  -- register accesses (R10, R168) and tile fabric (02)
  | registerWrite (p : Fin 4) (addr : Nat) (be : BitVec 8) (v : BitVec 64)
  | rolRead (p : Fin 4) (addr : Nat)
  | scrubWord (t : Fin 192) (w : Fin 524288)
  | supplyFault (c : Fin 16)
  | tileHang (t : Fin 192)
  | tileFaultARead (p : Fin 4)
  | stepCompletionJoin (die : Fin 2)
  | fbdClr (p : Fin 4)
  | fbdLastRead (p : Fin 4)
  | fbdMinRead (p : Fin 4)
  -- tile instruction set (03)
  | undefMajor (t : Fin 192) (w : BitVec 64)
  | pcPastEnd (t : Fin 192)
  | nop (t : Fin 192) (f : TF)
  | jmp (t : Fin 192) (f : TF)
  | beq (t : Fin 192) (f : TF)
  | bne (t : Fin 192) (f : TF)
  | blt (t : Fin 192) (f : TF)
  | bge (t : Fin 192) (f : TF)
  | loop (t : Fin 192) (f : TF)
  | waitall (t : Fin 192) (f : TF)
  | sopAdd (t : Fin 192) (f : TF)
  | sopSub (t : Fin 192) (f : TF)
  | sopMul (t : Fin 192) (f : TF)
  | sopMulh (t : Fin 192) (f : TF)
  | sopAnd (t : Fin 192) (f : TF)
  | sopOr (t : Fin 192) (f : TF)
  | sopXor (t : Fin 192) (f : TF)
  | sopShl (t : Fin 192) (f : TF)
  | sopShr (t : Fin 192) (f : TF)
  | sopSar (t : Fin 192) (f : TF)
  | sopMin (t : Fin 192) (f : TF)
  | sopMax (t : Fin 192) (f : TF)
  | sopSlt (t : Fin 192) (f : TF)
  | sopSltu (t : Fin 192) (f : TF)
  | rdsr (t : Fin 192) (f : TF)
  | wrsr (t : Fin 192) (f : TF)
  | sopiAdd (t : Fin 192) (f : TF)
  | sopiSub (t : Fin 192) (f : TF)
  | sopiMul (t : Fin 192) (f : TF)
  | sopiMulh (t : Fin 192) (f : TF)
  | sopiAnd (t : Fin 192) (f : TF)
  | sopiOr (t : Fin 192) (f : TF)
  | sopiXor (t : Fin 192) (f : TF)
  | sopiShl (t : Fin 192) (f : TF)
  | sopiShr (t : Fin 192) (f : TF)
  | sopiSar (t : Fin 192) (f : TF)
  | sopiMin (t : Fin 192) (f : TF)
  | sopiMax (t : Fin 192) (f : TF)
  | sopiSlt (t : Fin 192) (f : TF)
  | sopiSltu (t : Fin 192) (f : TF)
  | ldi (t : Fin 192) (f : TF)
  | ldhi (t : Fin 192) (f : TF)
  | ld64 (t : Fin 192) (f : TF)
  | st64 (t : Fin 192) (f : TF)
  | ld32 (t : Fin 192) (f : TF)
  | st32 (t : Fin 192) (f : TF)
  | movv (t : Fin 192) (f : TF)
  | vopAdd (t : Fin 192) (f : TF)
  | vopSub (t : Fin 192) (f : TF)
  | vopMul (t : Fin 192) (f : TF)
  | fma (t : Fin 192) (f : TF)
  | vopMin (t : Fin 192) (f : TF)
  | vopMax (t : Fin 192) (f : TF)
  | abs (t : Fin 192) (f : TF)
  | neg (t : Fin 192) (f : TF)
  | cmplt (t : Fin 192) (f : TF)
  | cmpeq (t : Fin 192) (f : TF)
  | sel (t : Fin 192) (f : TF)
  | vopAnd (t : Fin 192) (f : TF)
  | vopOr (t : Fin 192) (f : TF)
  | vopXor (t : Fin 192) (f : TF)
  | bcast (t : Fin 192) (f : TF)
  | vld (t : Fin 192) (f : TF)
  | vst (t : Fin 192) (f : TF)
  | vlds (t : Fin 192) (f : TF)
  | vsts (t : Fin 192) (f : TF)
  | rsum (t : Fin 192) (f : TF)
  | rmax (t : Fin 192) (f : TF)
  | rmin (t : Fin 192) (f : TF)
  | rdot (t : Fin 192) (f : TF)
  | vcvtFromStore (t : Fin 192) (f : TF)
  | vcvtBf16 (t : Fin 192) (f : TF)
  | vcvtFp16 (t : Fin 192) (f : TF)
  | vcvtE4m3 (t : Fin 192) (f : TF)
  | vcvtE5m2 (t : Fin 192) (f : TF)
  | vcvtMxRow (t : Fin 192) (f : TF)
  | vcvtIntegers (t : Fin 192) (f : TF)
  | vcvtInt32Fp32 (t : Fin 192) (f : TF)
  | exp2 (t : Fin 192) (f : TF)
  | log2 (t : Fin 192) (f : TF)
  | rcp (t : Fin 192) (f : TF)
  | rsqrt (t : Fin 192) (f : TF)
  | tanh (t : Fin 192) (f : TF)
  | sigmoid (t : Fin 192) (f : TF)
  | tmmMma (t : Fin 192) (f : TF)
  | tmmMmat (t : Fin 192) (f : TF)
  | xfence (t : Fin 192) (f : TF)
  | hbmRd (t : Fin 192) (f : TF)
  | hbmWr (t : Fin 192) (f : TF)
  | tsRd (t : Fin 192) (f : TF)
  | tsWr (t : Fin 192) (f : TF)
  | gthRd (t : Fin 192) (f : TF)
  /-- The XFER with serial number `id` of the tile ends. -/
  | xferDone (t : Fin 192) (id : Nat)
  | lfence (t : Fin 192) (f : TF)
  | lsend (t : Fin 192) (f : TF)
  | lsendDone (t : Fin 192) (id : Nat)
  | lrecv (t : Fin 192) (f : TF)
  | sfence (t : Fin 192) (f : TF)
  | ssignal (t : Fin 192) (f : TF)
  | ssignalApplied (t : Fin 192) (id : Nat)
  | swait (t : Fin 192) (f : TF)
  | hzwait (t : Fin 192) (f : TF)
  | hzload (t : Fin 192) (f : TF)
  | hzstream (t : Fin 192) (f : TF)
  | hzfbr (t : Fin 192) (f : TF)
  | stepEnd (t : Fin 192) (f : TF)
  | retire (t : Fin 192) (f : TF)
  -- Hjelzo engines (06)
  /-- Engine `e` grants the next claim, taken in rotating tile order. -/
  | hzGrant (e : Fin 2)
  | hzloadDone (e : Fin 2)
  /-- Engine `e` takes the next vector of the block whose turn it is of those whose next vector has arrived (R129); `codes` are the 132
  converter codes. -/
  | hzVector (e : Fin 2) (arrived : List Nat) (codes : List (BitVec 10))
  | auditWindow (e : Fin 2)
  | degLimitReached (e : Fin 2)
  | hzeCntClr (p : Fin 4) (e : Fin 2)
  | auditClr (p : Fin 4) (e : Fin 2)
  | auditStatRead (p : Fin 4) (e : Fin 2)
  -- schedules (04); `a` is how a flooded message arrived, `rank` its origin, `seq` its sequence there (R179)
  | schedLoad (d : Nat)
  | schedStart (d : Nat)
  | schedPreempt (d : Nat)
  | schedResume (d : Nat)
  | readyMessage (a : Via) (seq : Nat) (m : Ready)
  | step0Start
  | decisionPoint
  | holdMessage (a : Via) (rank : Nat) (seq : Nat) (boundary : Nat)
  | releaseMessage (a : Via) (rank : Nat) (seq : Nat) (boundary : Nat) (resume : Nat)
  | stepResume
  | stepBoundary
  | stepClr (p : Fin 4)
  | abortMessage (a : Via) (rank : Nat) (seq : Nat) (berm : Nat)
  | bermReport (a : Via) (rank : Nat) (seq : Nat) (latest : Nat) (mirrored : Option Nat) (start : Nat) (epoch : Nat)
  | rollbackSettle
  | rollbackReady
  | bermStepStart
  | preemptMessage (a : Via) (rank : Nat) (seq : Nat) (step : Nat) (cancel : Bool)
  -- gather (05)
  | gthAssignWrite (p : Fin 4) (n : Fin 16) (v : BitVec 64)
  | gthSetupWrite (p : Fin 4) (addr : Nat) (v : BitVec 64)
  | gthBatchTake (n : Fin 16)
  /-- `a`: how an answer of another package arrived. -/
  | rowFetchDone (a : Option Via) (n : Fin 16) (entry : Nat) (remote : List Byte)
  | lookupRequest (a : Via) (rank : Nat) (tag : Nat) (sched : Bool) (polder : Fin 8) (table : Nat) (row : Nat)
  | lookupLost (n : Fin 16) (entry : Nat)
  | trackerStale (n : Fin 16) (entry : Nat)
  | contribution (a : Option Via) (n : Fin 16) (seq : Nat) (rank : Nat) (row : Nat) (grad : List Byte)
  | endMarker (a : Option Via) (n : Fin 16) (seq : Nat) (rank : Nat)
  | gthBatchDone (n : Fin 16)
  | cacheInv (p : Fin 4)
  | cacheAge
  | cachePartWrite (p : Fin 4) (pol : Fin 8) (v : BitVec 32)
  -- lanes and links (07, 08)
  | lanePlanCommit (d : Nat)
  | lanePlanArm (d : Nat)
  | lanePlanCheck (d : Nat)
  | recablePulse
  | recableCommit
  | elementSettled (k : Fin 128)
  /-- An attempt at training link `k` ends: the lane entries whose receivers locked below the limit of the error ratio, and the
  training words they carry, on which the identity check is made. -/
  | linkUp (k : Fin 128) (good : List Nat) (words : List TrainWord)
  | laneDownReq (p : Fin 4) (l : Fin 512)
  | laneUpReq (p : Fin 4) (l : Fin 512)
  | laneParked (l : Fin 512)
  | flitTransmit (k : Fin 128)
  /-- A flit fails its CRC, or touches `codewords` codewords that could not be corrected. -/
  | badFlit (k : Fin 128) (codewords : Nat)
  | data (k : Fin 128) (w : Wire)
  | credit (k : Fin 128) (w : Wire)
  | nak (k : Fin 128) (w : Wire)
  | idle (k : Fin 128) (w : Wire)
  | resync (k : Fin 128) (w : Wire)
  | retryTimeout (k : Fin 128)
  /-- A lane is lost; cause as in R301: 1 its error rate passes the training limit, 2 loop failed, 3 light lost. -/
  | laneLost (l : Fin 512) (cause : Fin 8)
  | violationLimit (k : Fin 128)
  | creditReannounce (k : Fin 128) (sched : Bool)
  | apr (x : Fin 128)
  | aprRestore (x : Fin 128)
  | linkRetrain (p : Fin 4) (k : Fin 128)
  | shapeWrite (p : Fin 4) (be : BitVec 8) (v : BitVec 64)
  /-- A flooded link-state message: the link `j` of `rank` to `peer` is up or not. -/
  | linkStateMessage (a : Via) (rank : Nat) (seq : Nat) (j : Nat) (peer : Nat) (up : Bool)
  -- switch control (09)
  | loopSample (samples : List Sample) (ain : BitVec 12)
  | loopFailed (i : Fin 782)
  | loopParked (i : Fin 782)
  | lightHoldExit (i : Fin 782)
  | loopAuto (p : Fin 4) (i : Fin 782)
  | loopManual (p : Fin 4) (i : Fin 782)
  | loopHold (p : Fin 4) (i : Fin 782)
  | loopRestart (p : Fin 4) (i : Fin 782)
  | coefWrite (p : Fin 4) (i : Fin 782) (v : BitVec 64)
  | scuGiveup (u : Fin 2) (cause : BitVec 8)
  | scuReloaded (u : Fin 2)
  | seawallClaim (u : Fin 2)
  | standbyTracking
  | scuSwitch (p : Fin 4)
  | scuTakeoverFail
  -- time (10)
  /-- `pol`: none for the global copy, else the polder copy the write goes through (R213). -/
  | set (p : Fin 4) (pol : Option (Fin 8)) (n : Fin 8)
  | reacquire (p : Fin 4) (pol : Option (Fin 8)) (n : Fin 8)
  | tbSrcWrite (p : Fin 4) (pol : Option (Fin 8)) (n : Fin 8) (src : BitVec 2)
  /-- Domain 0–7 of a base, or 8 for domain 200. -/
  | syncSend (dom : Fin 9)
  | pdelaySend (k : Fin 128)
  | syncMessage (a : Via) (m : SyncMsg)
  | pdelayReq (a : Via) (m : PdelayMsg)
  | pdelayResp (a : Via) (m : PdelayMsg)
  | timeHoldover (n : Fin 8)
  | ppsEdge
  | ppsOutput
  | timeCompare (m : Fin 8)
  | tbNsRead (p : Fin 4) (pol : Option (Fin 8)) (n : Fin 8)
  | refclkLost
  | refclkReturn
  -- polders and ports (11)
  | polderOpen (p : Fin 4) (n : Fin 8)
  | polderClose (p : Fin 4) (n : Fin 8)
  | polderZeroed (n : Fin 8)
  | portReset (q : Fin 4)
  | portResetEnd (q : Fin 4)
  | portTrained (q : Fin 4) (gen : Fin 7) (width : Fin 17)
  /-- A host access through BAR2: a read of `len` bytes, or a write of `wr`. -/
  | bar2Access (p : Fin 4) (off : Nat) (len : Nat) (wr : Option (List Byte))
  -- rings (12)
  | sluice (p : Fin 4) (addr : Nat) (size : Nat) (v : BitVec 64)
  | enable (p : Fin 4) (pol : Fin 8)
  | disable (p : Fin 4) (pol : Fin 8)
  | ringGrant
  | descriptorFetched (r : Fin 8192)
  | descriptorIssue (r : Fin 8192)
  | descriptorComplete (d : Nat)
  | nopDescriptor (d : Nat)
  | copy (d : Nat)
  | fill (d : Nat)
  | copyPiece (d : Nat)
  | cancel (d : Nat)
  | syncAdd (d : Nat)
  | syncWrite (d : Nat)
  | gather (d : Nat)
  | scatterAdd (d : Nat)
  | prefetch (d : Nat)
  | domainReport (d : Nat)
  | domainOn (d : Nat)
  | domainOff (d : Nat)
  /-- `failed`: the units whose procedure could not finish (R332). -/
  | calRun (d : Nat) (failed : BitVec 6)
  | calSave (d : Nat)
  | calRestore (d : Nat) (failed : BitVec 6)
  | settingsRead (d : Nat)
  | settingsWrite (d : Nat)
  | laserRearm (d : Nat)
  | fwChunk (d : Nat)
  | fwActivate (d : Nat)
  | fwCommit (d : Nat)
  | fwRevert (d : Nat)
  | pauseEnd
  | dump (d : Nat)
  | counterSnapshot (d : Nat)
  -- memory (13)
  | map (d : Nat)
  | unmap (d : Nat)
  | embank (d : Nat)
  | release (d : Nat)
  | faultReplyRetry (d : Nat)
  | faultReplyAbort (d : Nat)
  | faultTimeout (pol : Fin 8) (slot : Nat)
  /-- A poisoned or timed-out host read of descriptor `d`, or of the descriptors of ring `r`. -/
  | hostReadError (d : Option Nat) (r : Fin 8192) (addr : Nat)
  /-- The patrol scrubber reads the 64-byte unit at `pa`; `bad` symbols are wrong in the worse of its two words of 32 bytes. -/
  | hbmPatrol (pa : Nat) (bad : Nat)
  | quotaARead (p : Fin 4) (pol : Fin 8)
  | remoteAccessRequest (a : Via) (rank : Nat) (tag : Nat) (pol : Fin 8) (va : Nat) (len : Nat) (wr : Option (List Byte))
  | remoteAccessTimeout (tag : Nat)
  -- sync objects and events (14)
  /-- `sched`: an SSIGNAL, on the scheduled channel, which carries its sender's epoch (R295, R298). -/
  | remoteAdd (a : Via) (rank : Nat) (tag : Nat) (pol : Fin 8) (obj : Nat) (v : BitVec 64) (sched : Bool) (epoch : BitVec 8)
  /-- `denied`: the receiver does not own the object (R296). -/
  | remoteAddAck (a : Via) (tag : Nat) (denied : Bool)
  | remoteAddTimeout (tag : Nat)
  | watchWrite (p : Fin 4) (pol : Fin 8) (w : Fin 128) (thresh : Bool) (v : BitVec 64)
  | eventEdge (src : Fin 4096) (detail : BitVec 128)
  | eventDelivery
  | eventDone (p : Fin 4) (pol : Fin 8) (j : Fin 16) (v : BitVec 32)
  | stackedEoi (p : Fin 4) (pol : Fin 8) (j : Fin 16) (v : BitVec 32)
  | eventHeadWrite (p : Fin 4) (pol : Fin 8) (j : Fin 16) (head : BitVec 16)
  | pendWrite (p : Fin 4) (pol : Fin 8) (w : Fin 8) (v : BitVec 64)
  | eventHold (p : Fin 4) (pol : Fin 8) (on : Bool)
  | holdExpired (pol : Fin 8)
  | evcModeWrite (p : Fin 4) (pol : Fin 8) (stacked : Bool)
  | targetDisable (p : Fin 4) (pol : Fin 8) (j : Fin 16)
  -- power, start-up, calibration, settings, laser safety (15)
  /-- The rails of R371 in table order: 0 VDD_TILE … 6 the 3.3 V auxiliary; `back`: the rail is in range again when the turn-off
  ends. -/
  | railFault (r : Fin 7) (back : Bool)
  | domainOnDone (d : Fin 36)
  /-- For an optical or Hjelzo domain: its calibration could not finish; what it holds can be reused (R326). -/
  | domainBringupDone (d : Fin 36) (calFailed : Bool) (calReuse : Bool)
  | domainOffDone (d : Fin 36)
  | weirUpdate (watts : Nat) (tj : Nat) (die0 : Nat) (die1 : Nat)
  | powerLimit
  | idleEnter
  | idleExit
  | powerOn
  | resetWarm (p : Fin 4)
  | resetCold (p : Fin 4)
  | resetSafe (p : Fin 4)
  /-- The pin goes low, or is released after some µs. -/
  | resetN (us : Option Nat)
  | startPhaseDone (r : PhaseResult)
  | calWaitExpired
  | startFail (cause : Fin 8)
  | startWatchdog
  /-- `b`: false for channel A, true for channel B. -/
  | laserOff (b : Bool)
  | laserGlitch (b : Bool)
  | laserSafeReturn (b : Bool)
  | laserStable
  | laserDiscrepancy
  | discMsWrite (p : Fin 4) (v : BitVec 8)
  | backupAlarm (cause : Fin 5)
  | bkLogClr (p : Fin 4)
  | thermalTrip
  -- counters, dumps, test multiplexers (17)
  | counterIncrement (t : Fin 192) (event : Fin 8) (n : Nat)
  | counterCfgWrite (p : Fin 4) (c : Fin 1024) (v : BitVec 64)
  | tmuxKey (p : Fin 4) (v : BitVec 16)
  | tmuxKeyTimeout
  | tmuxLock (p : Fin 4)
  -- pins (18)
  | smbusRead (code : BitVec 8)
  /-- The measured junction temperatures, in the order of code 0x04 (R384). -/
  | smbusShadowRefresh (temps : List (BitVec 8))
  | extest
  | idcode
  | samplePreload (preload : Option (BitVec 56))
  | clamp
  | highz
  | bypass
  | mainPowerLoss
  | backupPowerLoss
  | calibrationAge
  | hzLaserOkChange (e : Fin 2) (ok : Bool)
  | polderOpened (n : Fin 8)
  /-- Training of one lane of a link that is up ends: the training word its receiver reads, none where it does not lock below the limit
  of the error ratio. -/
  | laneTrained (l : Fin 512) (word : Option TrainWord)
  | busMasterEnable (q : Fin 4) (on : Bool)
  | smbusWrite (code : BitVec 8)
  deriving DecidableEq, Repr

end Sys2Proof
end

