-- ==== Sys2Proof/Decode.lean ====
section
/-! DEFINITION. Words and commands. The table of operations and events gives bits for none of its rows, so no word spells a
command for the host's `decodeTableWord`. The instruction words of the tiles have an encoding of their own (R47, R51–R53),
which `decodeTile` reads and `encodeTile` writes. -/

namespace Sys2Proof

/-- The command a word spells by the table's bits: no row of the table has any. -/
def decodeTableWord (_nbits _w : Nat) : Option Instr := none

/-- The fields of an instruction word below MAJOR and MINOR (R47). -/
def TF.ofWord (w : Word) : TF :=
  { d := w.extractLsb' 47 5, a := w.extractLsb' 42 5, b := w.extractLsb' 37 5, md := w.extractLsb' 32 5,
    imm := w.extractLsb' 0 32 }

/-- IMM sign-extended to 64 bits. -/
def TF.simm (f : TF) : Word := f.imm.signExtend 64
/-- A field [lo, lo + w) of IMM. -/
def TF.immf (f : TF) (lo w : Nat) : Nat := f.imm.toNat / 2 ^ lo % 2 ^ w
/-- A bit of MOD. -/
def TF.modBit (f : TF) (b : Nat) : Bool := f.md.toNat / 2 ^ b % 2 == 1

/-- CTL (MAJOR 0x01) by MINOR; a MINOR the major does not define is minor 0 (R53). -/
def decCtl (t : Fin 192) (f : TF) : Nat → Instr
  | 1 => .jmp t f
  | 2 => .beq t f
  | 3 => .bne t f
  | 4 => .blt t f
  | 5 => .bge t f
  | 6 => .loop t f
  | 7 => .waitall t f
  | _ => .nop t f

/-- SOP (MAJOR 0x02) by MINOR; a MINOR the major does not define is minor 0 (R53). -/
def decSop (t : Fin 192) (f : TF) : Nat → Instr
  | 1 => .sopSub t f
  | 2 => .sopMul t f
  | 3 => .sopMulh t f
  | 4 => .sopAnd t f
  | 5 => .sopOr t f
  | 6 => .sopXor t f
  | 7 => .sopShl t f
  | 8 => .sopShr t f
  | 9 => .sopSar t f
  | 10 => .sopMin t f
  | 11 => .sopMax t f
  | 12 => .sopSlt t f
  | 13 => .sopSltu t f
  | 14 => .rdsr t f
  | 15 => .wrsr t f
  | _ => .sopAdd t f

/-- SOPI (MAJOR 0x03) by MINOR; a MINOR the major does not define is minor 0 (R53). -/
def decSopi (t : Fin 192) (f : TF) : Nat → Instr
  | 1 => .sopiSub t f
  | 2 => .sopiMul t f
  | 3 => .sopiMulh t f
  | 4 => .sopiAnd t f
  | 5 => .sopiOr t f
  | 6 => .sopiXor t f
  | 7 => .sopiShl t f
  | 8 => .sopiShr t f
  | 9 => .sopiSar t f
  | 10 => .sopiMin t f
  | 11 => .sopiMax t f
  | 12 => .sopiSlt t f
  | 13 => .sopiSltu t f
  | 14 => .ldi t f
  | 15 => .ldhi t f
  | _ => .sopiAdd t f

/-- SMEM (MAJOR 0x04) by MINOR; a MINOR the major does not define is minor 0 (R53). -/
def decSmem (t : Fin 192) (f : TF) : Nat → Instr
  | 1 => .st64 t f
  | 2 => .ld32 t f
  | 3 => .st32 t f
  | _ => .ld64 t f

/-- VOP (MAJOR 0x05) by MINOR; a MINOR the major does not define is minor 0 (R53). -/
def decVop (t : Fin 192) (f : TF) : Nat → Instr
  | 1 => .vopAdd t f
  | 2 => .vopSub t f
  | 3 => .vopMul t f
  | 4 => .fma t f
  | 5 => .vopMin t f
  | 6 => .vopMax t f
  | 7 => .abs t f
  | 8 => .neg t f
  | 9 => .cmplt t f
  | 10 => .cmpeq t f
  | 11 => .sel t f
  | 12 => .vopAnd t f
  | 13 => .vopOr t f
  | 14 => .vopXor t f
  | 15 => .bcast t f
  | _ => .movv t f

/-- VMEM (MAJOR 0x06) by MINOR; a MINOR the major does not define is minor 0 (R53). -/
def decVmem (t : Fin 192) (f : TF) : Nat → Instr
  | 1 => .vst t f
  | 2 => .vlds t f
  | 3 => .vsts t f
  | _ => .vld t f

/-- VRED (MAJOR 0x07) by MINOR; a MINOR the major does not define is minor 0 (R53). -/
def decVred (t : Fin 192) (f : TF) : Nat → Instr
  | 1 => .rmax t f
  | 2 => .rmin t f
  | 3 => .rdot t f
  | _ => .rsum t f

/-- VCVT (MAJOR 0x08) by MINOR; a MINOR the major does not define is minor 0 (R53). -/
def decVcvt (t : Fin 192) (f : TF) : Nat → Instr
  | 1 => .vcvtBf16 t f
  | 2 => .vcvtFp16 t f
  | 3 => .vcvtE4m3 t f
  | 4 => .vcvtE5m2 t f
  | 5 => .vcvtMxRow t f
  | 6 => .vcvtIntegers t f
  | 7 => .vcvtInt32Fp32 t f
  | _ => .vcvtFromStore t f

/-- VFN (MAJOR 0x09) by MINOR; a MINOR the major does not define is minor 0 (R53). -/
def decVfn (t : Fin 192) (f : TF) : Nat → Instr
  | 1 => .log2 t f
  | 2 => .rcp t f
  | 3 => .rsqrt t f
  | 4 => .tanh t f
  | 5 => .sigmoid t f
  | _ => .exp2 t f

/-- TMM (MAJOR 0x0A) by MINOR; a MINOR the major does not define is minor 0 (R53). -/
def decTmm (t : Fin 192) (f : TF) : Nat → Instr
  | 1 => .tmmMmat t f
  | _ => .tmmMma t f

/-- XFER (MAJOR 0x0B) by MINOR; a MINOR the major does not define is minor 0 (R53). -/
def decXfer (t : Fin 192) (f : TF) : Nat → Instr
  | 1 => .hbmRd t f
  | 2 => .hbmWr t f
  | 3 => .tsRd t f
  | 4 => .tsWr t f
  | 5 => .gthRd t f
  | _ => .xfence t f

/-- LNK (MAJOR 0x0C) by MINOR; a MINOR the major does not define is minor 0 (R53). -/
def decLnk (t : Fin 192) (f : TF) : Nat → Instr
  | 1 => .lsend t f
  | 2 => .lrecv t f
  | _ => .lfence t f

/-- SYN (MAJOR 0x0D) by MINOR; a MINOR the major does not define is minor 0 (R53). -/
def decSyn (t : Fin 192) (f : TF) : Nat → Instr
  | 1 => .ssignal t f
  | 2 => .swait t f
  | _ => .sfence t f

/-- HZ (MAJOR 0x0E) by MINOR; a MINOR the major does not define is minor 0 (R53). -/
def decHz (t : Fin 192) (f : TF) : Nat → Instr
  | 1 => .hzload t f
  | 2 => .hzstream t f
  | 3 => .hzfbr t f
  | _ => .hzwait t f

/-- STEP (MAJOR 0x0F) by MINOR; a MINOR the major does not define is minor 0 (R53). -/
def decStep (t : Fin 192) (f : TF) : Nat → Instr
  | 1 => .retire t f
  | _ => .stepEnd t f

/-- The command that an instruction word is, on a tile of a package with (`hz`) or without Hjelzo engines (R51–R53). -/
def decodeTile (hz : Bool) (t : Fin 192) (w : Word) : Instr :=
  let f := TF.ofWord w
  let minor := (w.extractLsb' 52 6).toNat
  match (w.extractLsb' 58 6).toNat with
  | 1 => decCtl t f minor
  | 2 => decSop t f minor
  | 3 => decSopi t f minor
  | 4 => decSmem t f minor
  | 5 => decVop t f minor
  | 6 => decVmem t f minor
  | 7 => decVred t f minor
  | 8 => decVcvt t f minor
  | 9 => decVfn t f minor
  | 10 => decTmm t f minor
  | 11 => decXfer t f minor
  | 12 => decLnk t f minor
  | 13 => decSyn t f minor
  | 14 => if hz then decHz t f minor else .undefMajor t w
  | 15 => decStep t f minor
  | _ => .undefMajor t w

/-- The instruction word with these fields (R47). -/
def tileWord (major minor : BitVec 6) (f : TF) : Word := major ++ minor ++ f.d ++ f.a ++ f.b ++ f.md ++ f.imm

/-- The instruction word of a tile instruction; none for a command of another kind. -/
def encodeTile : Instr → Option Word
  | .nop _ f => some (tileWord 1 0 f)
  | .jmp _ f => some (tileWord 1 1 f)
  | .beq _ f => some (tileWord 1 2 f)
  | .bne _ f => some (tileWord 1 3 f)
  | .blt _ f => some (tileWord 1 4 f)
  | .bge _ f => some (tileWord 1 5 f)
  | .loop _ f => some (tileWord 1 6 f)
  | .waitall _ f => some (tileWord 1 7 f)
  | .sopAdd _ f => some (tileWord 2 0 f)
  | .sopSub _ f => some (tileWord 2 1 f)
  | .sopMul _ f => some (tileWord 2 2 f)
  | .sopMulh _ f => some (tileWord 2 3 f)
  | .sopAnd _ f => some (tileWord 2 4 f)
  | .sopOr _ f => some (tileWord 2 5 f)
  | .sopXor _ f => some (tileWord 2 6 f)
  | .sopShl _ f => some (tileWord 2 7 f)
  | .sopShr _ f => some (tileWord 2 8 f)
  | .sopSar _ f => some (tileWord 2 9 f)
  | .sopMin _ f => some (tileWord 2 10 f)
  | .sopMax _ f => some (tileWord 2 11 f)
  | .sopSlt _ f => some (tileWord 2 12 f)
  | .sopSltu _ f => some (tileWord 2 13 f)
  | .rdsr _ f => some (tileWord 2 14 f)
  | .wrsr _ f => some (tileWord 2 15 f)
  | .sopiAdd _ f => some (tileWord 3 0 f)
  | .sopiSub _ f => some (tileWord 3 1 f)
  | .sopiMul _ f => some (tileWord 3 2 f)
  | .sopiMulh _ f => some (tileWord 3 3 f)
  | .sopiAnd _ f => some (tileWord 3 4 f)
  | .sopiOr _ f => some (tileWord 3 5 f)
  | .sopiXor _ f => some (tileWord 3 6 f)
  | .sopiShl _ f => some (tileWord 3 7 f)
  | .sopiShr _ f => some (tileWord 3 8 f)
  | .sopiSar _ f => some (tileWord 3 9 f)
  | .sopiMin _ f => some (tileWord 3 10 f)
  | .sopiMax _ f => some (tileWord 3 11 f)
  | .sopiSlt _ f => some (tileWord 3 12 f)
  | .sopiSltu _ f => some (tileWord 3 13 f)
  | .ldi _ f => some (tileWord 3 14 f)
  | .ldhi _ f => some (tileWord 3 15 f)
  | .ld64 _ f => some (tileWord 4 0 f)
  | .st64 _ f => some (tileWord 4 1 f)
  | .ld32 _ f => some (tileWord 4 2 f)
  | .st32 _ f => some (tileWord 4 3 f)
  | .movv _ f => some (tileWord 5 0 f)
  | .vopAdd _ f => some (tileWord 5 1 f)
  | .vopSub _ f => some (tileWord 5 2 f)
  | .vopMul _ f => some (tileWord 5 3 f)
  | .fma _ f => some (tileWord 5 4 f)
  | .vopMin _ f => some (tileWord 5 5 f)
  | .vopMax _ f => some (tileWord 5 6 f)
  | .abs _ f => some (tileWord 5 7 f)
  | .neg _ f => some (tileWord 5 8 f)
  | .cmplt _ f => some (tileWord 5 9 f)
  | .cmpeq _ f => some (tileWord 5 10 f)
  | .sel _ f => some (tileWord 5 11 f)
  | .vopAnd _ f => some (tileWord 5 12 f)
  | .vopOr _ f => some (tileWord 5 13 f)
  | .vopXor _ f => some (tileWord 5 14 f)
  | .bcast _ f => some (tileWord 5 15 f)
  | .vld _ f => some (tileWord 6 0 f)
  | .vst _ f => some (tileWord 6 1 f)
  | .vlds _ f => some (tileWord 6 2 f)
  | .vsts _ f => some (tileWord 6 3 f)
  | .rsum _ f => some (tileWord 7 0 f)
  | .rmax _ f => some (tileWord 7 1 f)
  | .rmin _ f => some (tileWord 7 2 f)
  | .rdot _ f => some (tileWord 7 3 f)
  | .vcvtFromStore _ f => some (tileWord 8 0 f)
  | .vcvtBf16 _ f => some (tileWord 8 1 f)
  | .vcvtFp16 _ f => some (tileWord 8 2 f)
  | .vcvtE4m3 _ f => some (tileWord 8 3 f)
  | .vcvtE5m2 _ f => some (tileWord 8 4 f)
  | .vcvtMxRow _ f => some (tileWord 8 5 f)
  | .vcvtIntegers _ f => some (tileWord 8 6 f)
  | .vcvtInt32Fp32 _ f => some (tileWord 8 7 f)
  | .exp2 _ f => some (tileWord 9 0 f)
  | .log2 _ f => some (tileWord 9 1 f)
  | .rcp _ f => some (tileWord 9 2 f)
  | .rsqrt _ f => some (tileWord 9 3 f)
  | .tanh _ f => some (tileWord 9 4 f)
  | .sigmoid _ f => some (tileWord 9 5 f)
  | .tmmMma _ f => some (tileWord 10 0 f)
  | .tmmMmat _ f => some (tileWord 10 1 f)
  | .xfence _ f => some (tileWord 11 0 f)
  | .hbmRd _ f => some (tileWord 11 1 f)
  | .hbmWr _ f => some (tileWord 11 2 f)
  | .tsRd _ f => some (tileWord 11 3 f)
  | .tsWr _ f => some (tileWord 11 4 f)
  | .gthRd _ f => some (tileWord 11 5 f)
  | .lfence _ f => some (tileWord 12 0 f)
  | .lsend _ f => some (tileWord 12 1 f)
  | .lrecv _ f => some (tileWord 12 2 f)
  | .sfence _ f => some (tileWord 13 0 f)
  | .ssignal _ f => some (tileWord 13 1 f)
  | .swait _ f => some (tileWord 13 2 f)
  | .hzwait _ f => some (tileWord 14 0 f)
  | .hzload _ f => some (tileWord 14 1 f)
  | .hzstream _ f => some (tileWord 14 2 f)
  | .hzfbr _ f => some (tileWord 14 3 f)
  | .stepEnd _ f => some (tileWord 15 0 f)
  | .retire _ f => some (tileWord 15 1 f)
  | .undefMajor _ w => some w
  | _ => none

end Sys2Proof
end

