-- ==== Sys2Proof/Config.lean ====
section
/-! DEFINITION. What an implementation fixes: the variants (R12, R13, R16, R234) and the values the manual leaves open. The
open values are opaque: nothing in Lean can evaluate them or prove a value of them. -/

namespace Sys2Proof

/-- The three variants of the LHN-1 (spec/00_scope.md, "Variants"). -/
inductive Variant where
  | lhn1A | lhn1D | lhn1H
  deriving DecidableEq, Repr

namespace Variant

/-- Hjelzo engines fitted. -/
def hz : Variant → Bool
  | .lhn1A => true
  | _ => false

/-- Optical engines fitted. -/
def engines : Variant → Nat
  | .lhn1H => 2
  | _ => 4

/-- HBM stacks fitted. -/
def stackCount : Variant → Nat
  | .lhn1H => 4
  | _ => 8

/-- HBM capacity in GiB (R234). -/
def hbmGib (v : Variant) : Nat := 36 * v.stackCount

/-- Switch control loops fitted (R12). -/
def loops : Variant → Nat
  | .lhn1A => 782
  | .lhn1D => 518
  | .lhn1H => 260

/-- Package envelope in watts (spec/00_scope.md). -/
def envelope : Variant → Nat
  | .lhn1A => 1200
  | .lhn1D => 1060
  | .lhn1H => 700

/-- The number the VARIANT field reports (R234). -/
def code : Variant → Nat
  | .lhn1A => 1
  | .lhn1D => 2
  | .lhn1H => 3

/-- Power domains present (R13). -/
def hasDomain (v : Variant) (d : Nat) : Bool :=
  if d = 22 ∨ d = 23 then v.hz
  else if 28 ≤ d ∧ d ≤ 31 then decide (v ≠ .lhn1H)
  else if d = 34 ∨ d = 35 then decide (v ≠ .lhn1H)
  else decide (d < 36)

/-- Control loops present (R12, R186). -/
def hasLoop (v : Variant) (i : Nat) : Bool :=
  if 512 ≤ i ∧ i ≤ 775 then v.hz
  else if v = .lhn1H then
    decide (i < 128) || (decide (256 ≤ i) && decide (i < 384)) || i == 776 || i == 777 || i == 780 || i == 781
  else decide (i < 782)

/-- Lanes of a fitted optical engine: transmit 0–255, receive 256–511 (R142). -/
def hasLane (v : Variant) (l : Nat) : Bool := decide (l < 512) && decide (l % 256 / 64 < v.engines)

/-- Fixed token demand of a domain, in tokens of 0.5 W (R316). -/
def demand (v : Variant) (d : Nat) : Nat :=
  if !v.hasDomain d then 0
  else if d = 0 then 4
  else if d = 1 then 216
  else if d ≤ 3 then 8
  else if d ≤ 5 then 32
  else if d ≤ 21 then (if v = .lhn1H then 37 else 56)
  else if d ≤ 23 then 140
  else if d ≤ 31 then 54
  else 100

end Variant

namespace Config

/-- A 64-bit value the manual does not fix, one for each number drawn from State.free (log 3, DESIGN CHOICE). -/
opaque freeWord : Nat → Word

/-- A byte the manual does not fix, for a draw and a position in it (log 3, DESIGN CHOICE). -/
opaque freeByte : Nat → Nat → Byte

/-- The set-point calibration run `gen` gives loop `i` for exit choice `k` (R332: the coefficients are opaque). -/
opaque calSetpoint (gen i k : Nat) : Int

/-- The flags that an operation records where no rule decides it: a function of the operation and its operand bits alone, so that the
same instruction on the same operands records the same (R36; log 23, DEDUCED). `op` is the operation's number, `xs` its operands. -/
opaque openFlags (op : Nat) (xs : List Nat) : BitVec 4

/-- What ABS makes of an INT32 lane of −2^31, by MOD[2] (log 25, DESIGN CHOICE). -/
opaque absOfMin (sat : Bool) : BitVec 32

/-- The FP32 lane of an MX element whose value under its scale lies beyond FP32, by element width, scale and element bits (log 26,
DESIGN CHOICE). -/
opaque mxBeyond (w scale x : Nat) : BitVec 32

/-- What HZFBR reports of tag `tag` on a tile that has streamed no block under it (log 28, DESIGN CHOICE). -/
opaque hzNoBlock (tag : Nat) : Word

/-- The gain that calibration gives row `row` of engine `e` in correction set `gen`, in units of 2^-20 (R127, R332: the values are
opaque). -/
opaque hzGain (gen e row : Nat) : Int

/-- The offset that calibration gives row `row` of engine `e` in correction set `gen`, in units of 2^-24 LSB8 (R127, R332). -/
opaque hzOffset (gen e row : Nat) : Int

/-- The length in 8-byte units less one, the bytes and the TAG of the flit of a message of link management or step control, by the
message's numbers (R155: the manual gives MGMT no layout; log 223, DESIGN CHOICE). -/
opaque mgmtUnits (xs : List Nat) : Fin 32
opaque mgmtByte (xs : List Nat) (i : Nat) : Byte
opaque mgmtTag (xs : List Nat) : BitVec 32

/-- Byte `i` of the port identity in a time message of link `k`, and the TAG of a time message by its type and length (R215: the manual
gives neither; log 224, DESIGN CHOICE). -/
opaque portIdentity (k i : Nat) : Byte
opaque timeTag (typ len : Nat) : BitVec 32

/-- The stack that holds a device-physical address (R301: the manual gives no layout of the stacks). -/
opaque hbmStack (pa : Nat) : BitVec 3

/-- Byte `i` of the opaque body of the calibration file saved from run `gen` (R335). -/
opaque calBody (gen i : Nat) : Byte

end Config

end Sys2Proof
end

