-- ==== Sys2Proof/Machine/Regs.lean ====
section
/-! DEFINITION. The register map: every register the chapters' field tables give, with its place in the register window
(R230) and, for every field, its bits, access, reset value and range (R46, R93, R123, R141, R168, R185, R209, R227, R234,
R243, R247, R291, R313, R347, R360, R370). Reserved and growth fields read 0 and take no write (R8), so they have no row. -/

namespace Sys2Proof.Machine

/-- Access codes of the conventions table. `own`: software writes the field through a row of the table of its own. -/
inductive Access where
  | rw | ro | wo | rol | own
  deriving DecidableEq, Repr

/-- The "Range and clamp" entry of a field (R10). `special`: the clamp depends on the state or the index. -/
inductive Clamp where
  | any
  | range (lo hi : Nat)
  | above (hi d : Nat)
  | stops (max : Nat)
  | special
  deriving DecidableEq, Repr

/-- Which block of the window a register lies in (R230); `ring`: reached through RNG_SEL (R245); `engine`: in the control
block of the engine's owner (R122). -/
inductive Scope where
  | glob | polder | ring | engine
  deriving DecidableEq, Repr

/-- Every register, under the name the spec gives it. -/
inductive RegName where
  | GLB_FBD_CTRL | GLB_FBD_LAST | GLB_FBD_LAST_STEP | GLB_FBD_MIN | GLB_FBD_MIN_STEP | GLB_FBD_ALARM_CNT
  | GLB_TILE_HANG | GLB_TILE_FAULT_A | GLB_TILE_FAULT_B | GLB_TILE_FAULT_CNT | GLB_TSTORE_ECC | GLB_TSTORE_SCRUB
  | GLB_FBD_CLUSTER | GLB_STEP_NOW | GLB_STEP_STATE | GLB_STEP_BERM | GLB_STEP_CNT | GLB_STEP_HELD
  | GLB_STEP_CTRL | GLB_STEP_OFFSET | GTH_ASSIGN | GTH_CACHE_CTRL | GTH_CACHE_PART | GTH_TRK
  | GTH_TDIR_BASE | GTH_TDIR_CFG | GTH_QUEUE_BASE | GTH_QUEUE_CFG | GTH_CONSUMED | GTH_SORT_BASE
  | GTH_SORT_BYTES | GTH_JRNL_BASE | GTH_JRNL_BYTES | HZE_STATUS | HZE_SEEP | HZE_CNT
  | HZE_AUDIT_CTRL | HZE_AUDIT_STAT | HZE_AUDIT_SUMSQ | LSW_STATUS | LSW_PLAN_ID | LSW_LANE
  | LNK_STATE | LNK_ERR | LNK_VIOL | LNK_CREDIT | LNK_VIOL_CFG | LSW_SHAPE
  | LSW_TOPO | LSW_ROUTE_STAT | SCU_STATUS | SCU_CTRL | SCU_AIN | SCU_BANK
  | SCU_RAMP | SCU_LOOP_CTRL | SCU_LOOP_COEF | SCU_LOOP_STAT | TIM_CFG | TIM_MTICK
  | TIM_MTICK_STAT | TIM_TB_CFG | TIM_TB_SERVO | TIM_TB_CTRL | TIM_TB_STATUS | TIM_TB_SEC
  | TIM_TB_NS | TIM_TB_SET_SEC | TIM_TB_SET_NS | TIM_CMP | TIM_PORT | GLB_ID
  | GLB_ARCH | GLB_CAP_UNIT | GLB_CAP_DOMAIN | GLB_CAP_SIZE | GLB_CAP_HOST | GLB_CAP_LOOP
  | GLB_PORT | GLB_PLD_CFG | GLB_PLD_STAT | PLD_INFO | PLD_BAR2 | PLD_STATUS
  | RNG_SEL | RNG_SQ_BASE | RNG_CQ_BASE | RNG_CFG | RNG_CTRL | RNG_STATE
  | RNG_STAT | RNG_PLD_CFG | MMU_PT_BASE | MMU_PT_CFG | MMU_FQ_BASE | MMU_FQ_CFG
  | MMU_QUOTA_A | MMU_QUOTA_B | MMU_STAT | MMU_HBM_ERR | MMU_HBM_SPARE | MMU_HBM_SCRUB
  | SYN_SEL | SYN_VALUE | SYN_STAT | EVC_CTRL | EVC_MASK | EVC_PEND
  | EVC_ACTIVE | EVC_PRIO | EVC_TGT_BASE | EVC_TGT_CFG | EVC_TGT_PTR | EVC_TGT_DONE
  | SYN_WATCH | SYN_THRESH | PWR_START | PWR_RESET | PWR_TOKEN | PWR_WEIR
  | PWR_IDLE | PWR_LASER | CFG_SETTINGS | CFG_CAL | PWR_BK_STAT | PWR_BK_ALARM
  | PWR_DOMAIN | PWR_BK_LOG | FWU_STATUS | FWU_XFER | FWU_FUSE | FWU_BITMAP
  | DBG_CNT_CFG | DBG_DUMP | DBG_TMUX_KEY | DBG_TMUX_CTRL | DBG_TMUX_SEL
  deriving DecidableEq, Repr

/-- One field of a register. -/
structure Fld where
  reg : RegName
  lo : Nat
  w : Nat
  acc : Access
  rst : Nat
  clamp : Clamp
  deriving DecidableEq, Repr

/-- Where a register lies: base offset in its block, then the strides and counts of its indices. -/
structure Place where
  scope : Scope
  width : Nat
  base : Nat
  s1 : Nat := 0
  n1 : Nat := 1
  s2 : Nat := 0
  n2 : Nat := 1
  deriving DecidableEq, Repr

/-! Fields of spec/02_tile_fabric.md. -/
def GLB_FBD_CTRL.ALARM_FRAC : Fld := ⟨.GLB_FBD_CTRL, 0, 10, .rw, 52, .range 0 512⟩
def GLB_FBD_CTRL.ALARM_EN : Fld := ⟨.GLB_FBD_CTRL, 16, 1, .rw, 1, .any⟩
def GLB_FBD_CTRL.CLR : Fld := ⟨.GLB_FBD_CTRL, 24, 1, .own, 0, .any⟩
def GLB_FBD_LAST.FREEBOARD : Fld := ⟨.GLB_FBD_LAST, 0, 32, .ro, 2147483647, .any⟩
def GLB_FBD_LAST.CLUSTER : Fld := ⟨.GLB_FBD_LAST, 32, 4, .ro, 0, .any⟩
def GLB_FBD_LAST_STEP.STEP : Fld := ⟨.GLB_FBD_LAST_STEP, 0, 64, .ro, 0, .any⟩
def GLB_FBD_MIN.FREEBOARD : Fld := ⟨.GLB_FBD_MIN, 0, 32, .ro, 2147483647, .any⟩
def GLB_FBD_MIN.CLUSTER : Fld := ⟨.GLB_FBD_MIN, 32, 4, .ro, 0, .any⟩
def GLB_FBD_MIN_STEP.STEP : Fld := ⟨.GLB_FBD_MIN_STEP, 0, 64, .ro, 0, .any⟩
def GLB_FBD_ALARM_CNT.COUNT : Fld := ⟨.GLB_FBD_ALARM_CNT, 0, 32, .ro, 0, .stops 4294967295⟩
def GLB_TILE_HANG.LIMIT_MS : Fld := ⟨.GLB_TILE_HANG, 0, 14, .rw, 100, .range 1 10000⟩
def GLB_TILE_FAULT_A.CODE : Fld := ⟨.GLB_TILE_FAULT_A, 0, 8, .rol, 0, .any⟩
def GLB_TILE_FAULT_A.TILE : Fld := ⟨.GLB_TILE_FAULT_A, 8, 8, .rol, 0, .any⟩
def GLB_TILE_FAULT_A.PC : Fld := ⟨.GLB_TILE_FAULT_A, 24, 15, .rol, 0, .any⟩
def GLB_TILE_FAULT_B.STEP : Fld := ⟨.GLB_TILE_FAULT_B, 0, 64, .ro, 0, .any⟩
def GLB_TILE_FAULT_CNT.COUNT : Fld := ⟨.GLB_TILE_FAULT_CNT, 0, 32, .rol, 0, .stops 4294967295⟩
def GLB_TSTORE_ECC.CE : Fld := ⟨.GLB_TSTORE_ECC, 0, 32, .ro, 0, .stops 4294967295⟩
def GLB_TSTORE_ECC.UE_LATENT : Fld := ⟨.GLB_TSTORE_ECC, 32, 16, .ro, 0, .stops 65535⟩
def GLB_TSTORE_SCRUB.EN : Fld := ⟨.GLB_TSTORE_SCRUB, 0, 1, .rw, 1, .any⟩
def GLB_TSTORE_SCRUB.PASSES : Fld := ⟨.GLB_TSTORE_SCRUB, 16, 16, .ro, 0, .special⟩
def GLB_FBD_CLUSTER.FREEBOARD : Fld := ⟨.GLB_FBD_CLUSTER, 0, 32, .ro, 2147483647, .any⟩
/-! Fields of spec/04_schedules.md. -/
def GLB_STEP_NOW.STEP : Fld := ⟨.GLB_STEP_NOW, 0, 64, .ro, 0, .any⟩
def GLB_STEP_STATE.STATE : Fld := ⟨.GLB_STEP_STATE, 0, 4, .ro, 0, .any⟩
def GLB_STEP_STATE.HOLDING : Fld := ⟨.GLB_STEP_STATE, 4, 1, .ro, 0, .any⟩
def GLB_STEP_STATE.HELD : Fld := ⟨.GLB_STEP_STATE, 5, 1, .ro, 0, .any⟩
def GLB_STEP_STATE.EPOCH : Fld := ⟨.GLB_STEP_STATE, 6, 8, .ro, 0, .any⟩
def GLB_STEP_STATE.HOLDERS : Fld := ⟨.GLB_STEP_STATE, 16, 16, .ro, 0, .stops 65535⟩
def GLB_STEP_BERM.STEP : Fld := ⟨.GLB_STEP_BERM, 0, 64, .ro, 0, .any⟩
def GLB_STEP_CNT.OVERTOP : Fld := ⟨.GLB_STEP_CNT, 0, 32, .ro, 0, .stops 4294967295⟩
def GLB_STEP_CNT.LATE_HOLD : Fld := ⟨.GLB_STEP_CNT, 32, 16, .ro, 0, .stops 65535⟩
def GLB_STEP_CNT.ROLLBACK : Fld := ⟨.GLB_STEP_CNT, 48, 16, .ro, 0, .stops 65535⟩
def GLB_STEP_HELD.TICKS : Fld := ⟨.GLB_STEP_HELD, 0, 64, .ro, 0, .any⟩
def GLB_STEP_CTRL.CLR : Fld := ⟨.GLB_STEP_CTRL, 0, 1, .own, 0, .any⟩
def GLB_STEP_CTRL.OVT_EVT_EN : Fld := ⟨.GLB_STEP_CTRL, 1, 1, .rw, 1, .any⟩
def GLB_STEP_OFFSET.OFFSET : Fld := ⟨.GLB_STEP_OFFSET, 0, 64, .ro, 0, .any⟩
/-! Fields of spec/05_embedding.md. -/
def GTH_ASSIGN.OWNER : Fld := ⟨.GTH_ASSIGN, 0, 3, .own, 0, .any⟩
def GTH_ASSIGN.EN : Fld := ⟨.GTH_ASSIGN, 3, 1, .own, 0, .any⟩
def GTH_ASSIGN.BUSY : Fld := ⟨.GTH_ASSIGN, 4, 1, .ro, 0, .any⟩
def GTH_CACHE_CTRL.EN : Fld := ⟨.GTH_CACHE_CTRL, 0, 1, .rw, 1, .any⟩
def GTH_CACHE_CTRL.INV : Fld := ⟨.GTH_CACHE_CTRL, 1, 1, .own, 0, .any⟩
def GTH_CACHE_PART.WAYS : Fld := ⟨.GTH_CACHE_PART, 0, 5, .own, 2, .range 0 16⟩
def GTH_CACHE_PART.EFFECTIVE : Fld := ⟨.GTH_CACHE_PART, 8, 5, .ro, 2, .any⟩
def GTH_TRK.FREE : Fld := ⟨.GTH_TRK, 0, 16, .ro, 32768, .any⟩
def GTH_TRK.HELD : Fld := ⟨.GTH_TRK, 16, 16, .ro, 0, .any⟩
def GTH_TDIR_BASE.ADDR : Fld := ⟨.GTH_TDIR_BASE, 6, 58, .own, 0, .any⟩
def GTH_TDIR_CFG.COUNT : Fld := ⟨.GTH_TDIR_CFG, 0, 17, .own, 1, .range 1 65536⟩
def GTH_TDIR_CFG.LOST_MS : Fld := ⟨.GTH_TDIR_CFG, 32, 14, .own, 10, .range 1 10000⟩
def GTH_QUEUE_BASE.ADDR : Fld := ⟨.GTH_QUEUE_BASE, 6, 58, .own, 0, .any⟩
def GTH_QUEUE_CFG.ENTRIES : Fld := ⟨.GTH_QUEUE_CFG, 0, 16, .own, 1, .range 1 32768⟩
def GTH_QUEUE_CFG.DOORBELL : Fld := ⟨.GTH_QUEUE_CFG, 16, 14, .own, 0, .any⟩
def GTH_QUEUE_CFG.MODE : Fld := ⟨.GTH_QUEUE_CFG, 30, 1, .own, 0, .any⟩
def GTH_QUEUE_CFG.SORT_OVF : Fld := ⟨.GTH_QUEUE_CFG, 32, 1, .rol, 0, .any⟩
def GTH_QUEUE_CFG.JRNL_OVF : Fld := ⟨.GTH_QUEUE_CFG, 33, 1, .rol, 0, .any⟩
def GTH_QUEUE_CFG.NAN_ROWS : Fld := ⟨.GTH_QUEUE_CFG, 34, 8, .rol, 0, .stops 255⟩
def GTH_QUEUE_CFG.FROZEN_SKIP : Fld := ⟨.GTH_QUEUE_CFG, 42, 8, .rol, 0, .stops 255⟩
def GTH_QUEUE_CFG.REMOTE_SKIP : Fld := ⟨.GTH_QUEUE_CFG, 50, 14, .rol, 0, .stops 16383⟩
def GTH_CONSUMED.COUNT : Fld := ⟨.GTH_CONSUMED, 0, 64, .ro, 0, .any⟩
def GTH_SORT_BASE.ADDR : Fld := ⟨.GTH_SORT_BASE, 6, 58, .own, 0, .any⟩
def GTH_SORT_BYTES.BYTES : Fld := ⟨.GTH_SORT_BYTES, 0, 48, .own, 0, .special⟩
def GTH_JRNL_BASE.ADDR : Fld := ⟨.GTH_JRNL_BASE, 6, 58, .own, 0, .any⟩
def GTH_JRNL_BYTES.BYTES : Fld := ⟨.GTH_JRNL_BYTES, 0, 48, .own, 0, .special⟩
/-! Fields of spec/06_hjelzo.md. -/
def HZE_STATUS.READY : Fld := ⟨.HZE_STATUS, 0, 1, .ro, 0, .any⟩
def HZE_STATUS.DOMAIN_ON : Fld := ⟨.HZE_STATUS, 1, 1, .ro, 0, .any⟩
def HZE_STATUS.LASER_OK : Fld := ⟨.HZE_STATUS, 2, 1, .ro, 0, .any⟩
def HZE_STATUS.LOOPS_OK : Fld := ⟨.HZE_STATUS, 3, 1, .ro, 0, .any⟩
def HZE_STATUS.CAL_PASS : Fld := ⟨.HZE_STATUS, 4, 1, .ro, 0, .any⟩
def HZE_STATUS.CAL_OLD : Fld := ⟨.HZE_STATUS, 5, 1, .ro, 0, .any⟩
def HZE_STATUS.CAL_AGE_H : Fld := ⟨.HZE_STATUS, 16, 16, .ro, 0, .stops 65535⟩
def HZE_SEEP.THRESH : Fld := ⟨.HZE_SEEP, 0, 12, .rw, 424, .range 128 4095⟩
def HZE_SEEP.DEG_EVT_EN : Fld := ⟨.HZE_SEEP, 16, 1, .rw, 1, .any⟩
def HZE_SEEP.CLR : Fld := ⟨.HZE_SEEP, 17, 1, .own, 0, .any⟩
def HZE_SEEP.DEG_LIMIT : Fld := ⟨.HZE_SEEP, 20, 12, .rw, 64, .range 1 4095⟩
def HZE_CNT.FLAGGED : Fld := ⟨.HZE_CNT, 0, 32, .ro, 0, .stops 4294967295⟩
def HZE_CNT.OVERRANGE : Fld := ⟨.HZE_CNT, 32, 16, .ro, 0, .stops 65535⟩
def HZE_CNT.NOT_READY : Fld := ⟨.HZE_CNT, 48, 16, .ro, 0, .stops 65535⟩
def HZE_AUDIT_CTRL.EN : Fld := ⟨.HZE_AUDIT_CTRL, 0, 1, .rw, 0, .any⟩
def HZE_AUDIT_CTRL.LOG2 : Fld := ⟨.HZE_AUDIT_CTRL, 1, 5, .rw, 16, .range 10 20⟩
def HZE_AUDIT_CTRL.CLR : Fld := ⟨.HZE_AUDIT_CTRL, 8, 1, .own, 0, .any⟩
def HZE_AUDIT_CTRL.LIMIT : Fld := ⟨.HZE_AUDIT_CTRL, 16, 16, .rw, 86, .any⟩
def HZE_AUDIT_STAT.N : Fld := ⟨.HZE_AUDIT_STAT, 0, 32, .ro, 0, .stops 4294967295⟩
def HZE_AUDIT_STAT.MAXERR : Fld := ⟨.HZE_AUDIT_STAT, 32, 16, .ro, 0, .stops 65535⟩
def HZE_AUDIT_SUMSQ.SUMSQ : Fld := ⟨.HZE_AUDIT_SUMSQ, 0, 64, .ro, 0, .stops 18446744073709551615⟩
/-! Fields of spec/07_optical_links.md. -/
def LSW_STATUS.STATE : Fld := ⟨.LSW_STATUS, 0, 2, .ro, 0, .any⟩
def LSW_STATUS.LAST_CODE : Fld := ⟨.LSW_STATUS, 8, 8, .ro, 0, .any⟩
def LSW_STATUS.LANES_UP : Fld := ⟨.LSW_STATUS, 16, 9, .ro, 0, .any⟩
def LSW_PLAN_ID.ID : Fld := ⟨.LSW_PLAN_ID, 0, 64, .ro, 0, .any⟩
def LSW_LANE.EN_REQ : Fld := ⟨.LSW_LANE, 0, 1, .own, 1, .any⟩
def LSW_LANE.BUSY : Fld := ⟨.LSW_LANE, 1, 1, .ro, 0, .any⟩
def LSW_LANE.FAILED : Fld := ⟨.LSW_LANE, 2, 1, .ro, 0, .any⟩
def LSW_LANE.APR : Fld := ⟨.LSW_LANE, 3, 1, .ro, 0, .any⟩
def LSW_LANE.STATE : Fld := ⟨.LSW_LANE, 4, 3, .ro, 0, .any⟩
def LSW_LANE.EXIT : Fld := ⟨.LSW_LANE, 8, 7, .ro, 0, .any⟩
def LSW_LANE.LINK : Fld := ⟨.LSW_LANE, 16, 7, .ro, 0, .any⟩
def LNK_STATE.STATE : Fld := ⟨.LNK_STATE, 0, 3, .ro, 0, .any⟩
def LNK_STATE.RETRAIN : Fld := ⟨.LNK_STATE, 3, 1, .own, 0, .any⟩
def LNK_STATE.LANES_TX : Fld := ⟨.LNK_STATE, 4, 7, .ro, 0, .any⟩
def LNK_STATE.LANES_RX : Fld := ⟨.LNK_STATE, 11, 7, .ro, 0, .any⟩
def LNK_STATE.PEER_RANK : Fld := ⟨.LNK_STATE, 32, 15, .ro, 0, .any⟩
def LNK_ERR.CORR_SYM : Fld := ⟨.LNK_ERR, 0, 32, .rol, 0, .stops 4294967295⟩
def LNK_ERR.UNCORR : Fld := ⟨.LNK_ERR, 32, 12, .rol, 0, .stops 4095⟩
def LNK_ERR.RETRY : Fld := ⟨.LNK_ERR, 44, 12, .rol, 0, .stops 4095⟩
def LNK_ERR.SCHED_STALL : Fld := ⟨.LNK_ERR, 56, 8, .rol, 0, .stops 255⟩
def LNK_VIOL.MALFORMED : Fld := ⟨.LNK_VIOL, 0, 8, .rol, 0, .stops 255⟩
def LNK_VIOL.CREDIT_OVF : Fld := ⟨.LNK_VIOL, 8, 8, .rol, 0, .stops 255⟩
def LNK_VIOL.OOS_RETRY : Fld := ⟨.LNK_VIOL, 16, 8, .rol, 0, .stops 255⟩
def LNK_VIOL.UNKNOWN_TYPE : Fld := ⟨.LNK_VIOL, 24, 8, .rol, 0, .stops 255⟩
def LNK_VIOL.TIME_MSG : Fld := ⟨.LNK_VIOL, 32, 8, .rol, 0, .stops 255⟩
def LNK_VIOL.RETRAINS : Fld := ⟨.LNK_VIOL, 40, 8, .rol, 0, .stops 255⟩
def LNK_VIOL.MISWIRE : Fld := ⟨.LNK_VIOL, 48, 8, .rol, 0, .stops 255⟩
def LNK_CREDIT.AVAIL_SCHED : Fld := ⟨.LNK_CREDIT, 0, 16, .ro, 0, .any⟩
def LNK_CREDIT.HELD_SCHED : Fld := ⟨.LNK_CREDIT, 16, 16, .ro, 0, .any⟩
def LNK_CREDIT.AVAIL_UNSCHED : Fld := ⟨.LNK_CREDIT, 32, 16, .ro, 0, .any⟩
def LNK_CREDIT.HELD_UNSCHED : Fld := ⟨.LNK_CREDIT, 48, 16, .ro, 0, .any⟩
def LNK_VIOL_CFG.LIMIT : Fld := ⟨.LNK_VIOL_CFG, 0, 8, .rw, 16, .range 1 255⟩
def LNK_VIOL_CFG.WINDOW_MS : Fld := ⟨.LNK_VIOL_CFG, 16, 10, .rw, 100, .range 1 1000⟩
/-! Fields of spec/08_topology.md. -/
def LSW_SHAPE.SHAPE : Fld := ⟨.LSW_SHAPE, 0, 1, .own, 0, .any⟩
def LSW_SHAPE.GROUP_SIZE : Fld := ⟨.LSW_SHAPE, 8, 7, .own, 1, .special⟩
def LSW_SHAPE.GROUPS : Fld := ⟨.LSW_SHAPE, 16, 10, .own, 1, .special⟩
def LSW_SHAPE.TORUS_X : Fld := ⟨.LSW_SHAPE, 32, 5, .own, 0, .special⟩
def LSW_SHAPE.TORUS_Y : Fld := ⟨.LSW_SHAPE, 37, 5, .own, 0, .special⟩
def LSW_SHAPE.TORUS_Z : Fld := ⟨.LSW_SHAPE, 42, 5, .own, 0, .special⟩
def LSW_TOPO.RANK : Fld := ⟨.LSW_TOPO, 0, 15, .ro, 0, .any⟩
def LSW_TOPO.SPARE : Fld := ⟨.LSW_TOPO, 15, 1, .ro, 0, .any⟩
def LSW_TOPO.GROUP : Fld := ⟨.LSW_TOPO, 16, 9, .ro, 0, .any⟩
def LSW_TOPO.MEMBER : Fld := ⟨.LSW_TOPO, 32, 6, .ro, 0, .any⟩
def LSW_TOPO.COPIES : Fld := ⟨.LSW_TOPO, 40, 10, .ro, 0, .any⟩
def LSW_ROUTE_STAT.DETOURED : Fld := ⟨.LSW_ROUTE_STAT, 0, 32, .rol, 0, .stops 4294967295⟩
def LSW_ROUTE_STAT.UNREACHABLE : Fld := ⟨.LSW_ROUTE_STAT, 32, 16, .rol, 0, .stops 65535⟩
/-! Fields of spec/09_switch_control.md. -/
def SCU_STATUS.ACTIVE : Fld := ⟨.SCU_STATUS, 0, 1, .ro, 0, .any⟩
def SCU_STATUS.NONE : Fld := ⟨.SCU_STATUS, 1, 1, .ro, 0, .any⟩
def SCU_STATUS.A_HEALTHY : Fld := ⟨.SCU_STATUS, 2, 1, .ro, 0, .any⟩
def SCU_STATUS.B_HEALTHY : Fld := ⟨.SCU_STATUS, 3, 1, .ro, 0, .any⟩
def SCU_STATUS.STANDBY_READY : Fld := ⟨.SCU_STATUS, 4, 1, .ro, 0, .any⟩
def SCU_STATUS.SWITCH_REFUSED : Fld := ⟨.SCU_STATUS, 5, 1, .rol, 0, .any⟩
def SCU_STATUS.TAKEOVERS : Fld := ⟨.SCU_STATUS, 8, 8, .rol, 0, .stops 255⟩
def SCU_STATUS.GIVEUP_CAUSE : Fld := ⟨.SCU_STATUS, 16, 8, .ro, 0, .any⟩
def SCU_STATUS.LOOPS_FAILED : Fld := ⟨.SCU_STATUS, 32, 10, .ro, 0, .any⟩
def SCU_CTRL.PREF : Fld := ⟨.SCU_CTRL, 0, 1, .rw, 0, .any⟩
def SCU_CTRL.SWITCH : Fld := ⟨.SCU_CTRL, 1, 1, .own, 0, .any⟩
def SCU_CTRL.RECABLE_PROFILE : Fld := ⟨.SCU_CTRL, 2, 3, .rw, 0, .any⟩
def SCU_AIN.CODE : Fld := ⟨.SCU_AIN, 0, 12, .ro, 0, .any⟩
def SCU_AIN.GAIN : Fld := ⟨.SCU_AIN, 16, 8, .rw, 0, .any⟩
def SCU_BANK.REQ : Fld := ⟨.SCU_BANK, 0, 17, .ro, 0, .any⟩
def SCU_BANK.SAT : Fld := ⟨.SCU_BANK, 17, 1, .ro, 0, .any⟩
def SCU_BANK.SAT_CNT : Fld := ⟨.SCU_BANK, 32, 16, .rol, 0, .stops 65535⟩
def SCU_RAMP.FRACTION : Fld := ⟨.SCU_RAMP, 0, 16, .rw, 0, .range 0 32768⟩
def SCU_RAMP.OFFSET : Fld := ⟨.SCU_RAMP, 16, 12, .rw, 0, .any⟩
def SCU_LOOP_CTRL.MODE : Fld := ⟨.SCU_LOOP_CTRL, 0, 2, .own, 0, .range 0 2⟩
def SCU_LOOP_CTRL.SPSRC : Fld := ⟨.SCU_LOOP_CTRL, 2, 2, .rw, 0, .special⟩
def SCU_LOOP_CTRL.RAMP_SEL : Fld := ⟨.SCU_LOOP_CTRL, 4, 3, .rw, 0, .any⟩
def SCU_LOOP_CTRL.RESTART : Fld := ⟨.SCU_LOOP_CTRL, 7, 1, .own, 0, .any⟩
def SCU_LOOP_CTRL.BUSY : Fld := ⟨.SCU_LOOP_CTRL, 8, 1, .ro, 0, .any⟩
def SCU_LOOP_CTRL.SETPOINT : Fld := ⟨.SCU_LOOP_CTRL, 16, 16, .rw, 0, .special⟩
def SCU_LOOP_CTRL.MANUAL_OUT : Fld := ⟨.SCU_LOOP_CTRL, 32, 16, .rw, 0, .special⟩
def SCU_LOOP_COEF.KP : Fld := ⟨.SCU_LOOP_COEF, 0, 16, .own, 0, .special⟩
def SCU_LOOP_COEF.KI : Fld := ⟨.SCU_LOOP_COEF, 16, 16, .own, 0, .any⟩
def SCU_LOOP_COEF.FE_LIM : Fld := ⟨.SCU_LOOP_COEF, 32, 15, .own, 0, .range 1 32767⟩
def SCU_LOOP_COEF.FE_SAMPLES : Fld := ⟨.SCU_LOOP_COEF, 48, 14, .own, 200, .range 10 10000⟩
def SCU_LOOP_STAT.PV : Fld := ⟨.SCU_LOOP_STAT, 0, 16, .ro, 0, .any⟩
def SCU_LOOP_STAT.OUTPUT : Fld := ⟨.SCU_LOOP_STAT, 16, 16, .ro, 0, .any⟩
def SCU_LOOP_STAT.STATE : Fld := ⟨.SCU_LOOP_STAT, 32, 3, .ro, 0, .any⟩
def SCU_LOOP_STAT.RANGE : Fld := ⟨.SCU_LOOP_STAT, 35, 2, .ro, 0, .any⟩
def SCU_LOOP_STAT.FE_COUNT : Fld := ⟨.SCU_LOOP_STAT, 38, 14, .ro, 0, .any⟩
def SCU_LOOP_STAT.RANGE_CHG : Fld := ⟨.SCU_LOOP_STAT, 52, 12, .rol, 0, .stops 4095⟩
/-! Fields of spec/10_time.md. -/
def TIM_CFG.PPS_DIR : Fld := ⟨.TIM_CFG, 0, 1, .rw, 0, .any⟩
def TIM_CFG.PPS_BASE : Fld := ⟨.TIM_CFG, 1, 3, .rw, 0, .any⟩
def TIM_MTICK.TICKS : Fld := ⟨.TIM_MTICK, 0, 64, .ro, 0, .any⟩
def TIM_MTICK_STAT.OFFSET : Fld := ⟨.TIM_MTICK_STAT, 0, 32, .ro, 0, .any⟩
def TIM_MTICK_STAT.PARENT : Fld := ⟨.TIM_MTICK_STAT, 32, 7, .ro, 0, .any⟩
def TIM_MTICK_STAT.ALIGNED : Fld := ⟨.TIM_MTICK_STAT, 39, 1, .ro, 0, .any⟩
def TIM_MTICK_STAT.ROOT : Fld := ⟨.TIM_MTICK_STAT, 40, 15, .ro, 0, .any⟩
def TIM_MTICK_STAT.ALIGN_EVT : Fld := ⟨.TIM_MTICK_STAT, 56, 8, .rol, 0, .stops 255⟩
def TIM_TB_CFG.OWNER : Fld := ⟨.TIM_TB_CFG, 0, 3, .rw, 0, .special⟩
def TIM_TB_CFG.SRC : Fld := ⟨.TIM_TB_CFG, 8, 2, .own, 0, .above 2 0⟩
def TIM_TB_CFG.LOG_INTERVAL : Fld := ⟨.TIM_TB_CFG, 10, 3, .rw, 4, .any⟩
def TIM_TB_CFG.ROOT_RANK : Fld := ⟨.TIM_TB_CFG, 16, 15, .rw, 0, .any⟩
def TIM_TB_SERVO.KP : Fld := ⟨.TIM_TB_SERVO, 0, 16, .rw, 64, .any⟩
def TIM_TB_SERVO.KI : Fld := ⟨.TIM_TB_SERVO, 16, 16, .rw, 4, .any⟩
def TIM_TB_SERVO.JUMP_NS : Fld := ⟨.TIM_TB_SERVO, 32, 30, .rw, 1000, .range 100 1000000000⟩
def TIM_TB_CTRL.SET : Fld := ⟨.TIM_TB_CTRL, 0, 1, .own, 0, .any⟩
def TIM_TB_CTRL.REACQUIRE : Fld := ⟨.TIM_TB_CTRL, 1, 1, .own, 0, .any⟩
def TIM_TB_CTRL.LAST_OFFSET : Fld := ⟨.TIM_TB_CTRL, 32, 32, .ro, 0, .any⟩
def TIM_TB_STATUS.STATE : Fld := ⟨.TIM_TB_STATUS, 0, 3, .ro, 0, .any⟩
def TIM_TB_STATUS.VALID : Fld := ⟨.TIM_TB_STATUS, 3, 1, .ro, 0, .any⟩
def TIM_TB_STATUS.SET_IGNORED : Fld := ⟨.TIM_TB_STATUS, 4, 1, .rol, 0, .any⟩
def TIM_TB_STATUS.REFUSED : Fld := ⟨.TIM_TB_STATUS, 8, 8, .rol, 0, .stops 255⟩
def TIM_TB_STATUS.FREQ_ADJ : Fld := ⟨.TIM_TB_STATUS, 32, 32, .ro, 0, .any⟩
def TIM_TB_SEC.SEC : Fld := ⟨.TIM_TB_SEC, 0, 48, .ro, 0, .any⟩
def TIM_TB_NS.NS : Fld := ⟨.TIM_TB_NS, 0, 32, .ro, 0, .range 0 999999999⟩
def TIM_TB_NS.FRAC : Fld := ⟨.TIM_TB_NS, 32, 16, .ro, 0, .any⟩
def TIM_TB_SET_SEC.SEC : Fld := ⟨.TIM_TB_SET_SEC, 0, 48, .rw, 0, .any⟩
def TIM_TB_SET_NS.NS : Fld := ⟨.TIM_TB_SET_NS, 0, 32, .rw, 0, .range 0 999999999⟩
def TIM_TB_SET_NS.FRAC : Fld := ⟨.TIM_TB_SET_NS, 32, 16, .rw, 0, .any⟩
def TIM_CMP.TARGET : Fld := ⟨.TIM_CMP, 0, 32, .rw, 0, .any⟩
def TIM_CMP.BASE : Fld := ⟨.TIM_CMP, 32, 3, .rw, 0, .any⟩
def TIM_CMP.ARM : Fld := ⟨.TIM_CMP, 35, 1, .rw, 0, .any⟩
def TIM_CMP.FIRED : Fld := ⟨.TIM_CMP, 36, 1, .rol, 0, .any⟩
def TIM_PORT.ASYM : Fld := ⟨.TIM_PORT, 0, 16, .rw, 0, .any⟩
def TIM_PORT.TIME_EN : Fld := ⟨.TIM_PORT, 16, 1, .rw, 1, .any⟩
/-! Fields of spec/11_polders_hosts.md. -/
def GLB_ID.VENDOR : Fld := ⟨.GLB_ID, 0, 16, .ro, 8062, .any⟩
def GLB_ID.DEVICE : Fld := ⟨.GLB_ID, 16, 16, .ro, 19505, .any⟩
def GLB_ID.VARIANT : Fld := ⟨.GLB_ID, 32, 4, .ro, 0, .any⟩
def GLB_ID.STEP_MAJOR : Fld := ⟨.GLB_ID, 36, 4, .ro, 0, .any⟩
def GLB_ID.STEP_MINOR : Fld := ⟨.GLB_ID, 40, 4, .ro, 0, .any⟩
def GLB_ARCH.LEVELS : Fld := ⟨.GLB_ARCH, 0, 8, .ro, 2, .any⟩
def GLB_CAP_UNIT.HZ : Fld := ⟨.GLB_CAP_UNIT, 0, 2, .ro, 0, .any⟩
def GLB_CAP_UNIT.OE : Fld := ⟨.GLB_CAP_UNIT, 2, 4, .ro, 0, .any⟩
def GLB_CAP_UNIT.HBM : Fld := ⟨.GLB_CAP_UNIT, 6, 8, .ro, 0, .any⟩
def GLB_CAP_DOMAIN.DOMAIN : Fld := ⟨.GLB_CAP_DOMAIN, 0, 36, .ro, 0, .any⟩
def GLB_CAP_SIZE.TILES : Fld := ⟨.GLB_CAP_SIZE, 0, 9, .ro, 192, .any⟩
def GLB_CAP_SIZE.LANES : Fld := ⟨.GLB_CAP_SIZE, 9, 9, .ro, 0, .any⟩
def GLB_CAP_SIZE.LOOPS : Fld := ⟨.GLB_CAP_SIZE, 18, 10, .ro, 0, .any⟩
def GLB_CAP_SIZE.HBM_GIB : Fld := ⟨.GLB_CAP_SIZE, 28, 9, .ro, 0, .any⟩
def GLB_CAP_HOST.POLDERS : Fld := ⟨.GLB_CAP_HOST, 0, 4, .ro, 8, .any⟩
def GLB_CAP_HOST.RINGS : Fld := ⟨.GLB_CAP_HOST, 8, 14, .ro, 8192, .any⟩
def GLB_CAP_HOST.SYNC : Fld := ⟨.GLB_CAP_HOST, 24, 15, .ro, 16384, .any⟩
def GLB_CAP_HOST.EVENTS : Fld := ⟨.GLB_CAP_HOST, 40, 13, .ro, 4096, .any⟩
def GLB_CAP_HOST.GATHER : Fld := ⟨.GLB_CAP_HOST, 54, 5, .ro, 16, .any⟩
def GLB_CAP_LOOP.PRESENT : Fld := ⟨.GLB_CAP_LOOP, 0, 64, .ro, 0, .any⟩
def GLB_PORT.LINK_UP : Fld := ⟨.GLB_PORT, 0, 1, .ro, 0, .any⟩
def GLB_PORT.RATE : Fld := ⟨.GLB_PORT, 1, 3, .ro, 0, .any⟩
def GLB_PORT.WIDTH : Fld := ⟨.GLB_PORT, 4, 5, .ro, 0, .any⟩
def GLB_PORT.BONDED : Fld := ⟨.GLB_PORT, 9, 1, .ro, 0, .any⟩
def GLB_PORT.BUSY : Fld := ⟨.GLB_PORT, 10, 1, .ro, 0, .any⟩
def GLB_PORT.POLDERS : Fld := ⟨.GLB_PORT, 16, 8, .ro, 0, .any⟩
def GLB_PORT.DROPPED : Fld := ⟨.GLB_PORT, 32, 16, .rol, 0, .stops 65535⟩
def GLB_PORT.RESETS : Fld := ⟨.GLB_PORT, 48, 16, .rol, 0, .stops 65535⟩
def GLB_PLD_CFG.PORT : Fld := ⟨.GLB_PLD_CFG, 0, 2, .rw, 0, .special⟩
def GLB_PLD_CFG.ARCH_REQ : Fld := ⟨.GLB_PLD_CFG, 4, 4, .rw, 1, .special⟩
def GLB_PLD_CFG.RINGS_REQ : Fld := ⟨.GLB_PLD_CFG, 8, 8, .rw, 0, .range 0 128⟩
def GLB_PLD_CFG.SYNC_REQ : Fld := ⟨.GLB_PLD_CFG, 16, 9, .rw, 0, .range 0 256⟩
def GLB_PLD_CFG.HBM_REQ : Fld := ⟨.GLB_PLD_CFG, 32, 10, .rw, 0, .special⟩
def GLB_PLD_STAT.CMD : Fld := ⟨.GLB_PLD_STAT, 0, 2, .own, 0, .special⟩
def GLB_PLD_STAT.STATE : Fld := ⟨.GLB_PLD_STAT, 2, 2, .ro, 0, .any⟩
def GLB_PLD_STAT.BUSY : Fld := ⟨.GLB_PLD_STAT, 4, 1, .ro, 0, .any⟩
def GLB_PLD_STAT.QUEUED : Fld := ⟨.GLB_PLD_STAT, 5, 2, .ro, 0, .any⟩
def GLB_PLD_STAT.RING_BASE : Fld := ⟨.GLB_PLD_STAT, 8, 7, .ro, 0, .any⟩
def GLB_PLD_STAT.RING_PAGES : Fld := ⟨.GLB_PLD_STAT, 15, 8, .ro, 0, .any⟩
def GLB_PLD_STAT.SYNC_BASE : Fld := ⟨.GLB_PLD_STAT, 23, 8, .ro, 0, .any⟩
def GLB_PLD_STAT.SYNC_BLOCKS : Fld := ⟨.GLB_PLD_STAT, 31, 9, .ro, 0, .any⟩
def GLB_PLD_STAT.HBM_GIB : Fld := ⟨.GLB_PLD_STAT, 40, 9, .ro, 0, .any⟩
def GLB_PLD_STAT.ARCH : Fld := ⟨.GLB_PLD_STAT, 49, 4, .ro, 0, .any⟩
def GLB_PLD_STAT.ZERO_GIB : Fld := ⟨.GLB_PLD_STAT, 53, 9, .ro, 0, .any⟩
def PLD_INFO.POLDER : Fld := ⟨.PLD_INFO, 0, 3, .ro, 0, .any⟩
def PLD_BAR2.BASE : Fld := ⟨.PLD_BAR2, 21, 43, .rw, 0, .any⟩
def PLD_STATUS.BAR2_MISS : Fld := ⟨.PLD_STATUS, 0, 16, .rol, 0, .stops 65535⟩
/-! Fields of spec/12_rings.md. -/
def RNG_SEL.RING : Fld := ⟨.RNG_SEL, 0, 13, .rw, 0, .special⟩
def RNG_SQ_BASE.ADDR : Fld := ⟨.RNG_SQ_BASE, 6, 58, .rw, 0, .any⟩
def RNG_CQ_BASE.ADDR : Fld := ⟨.RNG_CQ_BASE, 5, 59, .rw, 0, .any⟩
def RNG_CFG.SQ_LOG2 : Fld := ⟨.RNG_CFG, 0, 4, .rw, 6, .range 6 15⟩
def RNG_CFG.PRIO : Fld := ⟨.RNG_CFG, 4, 2, .rw, 3, .special⟩
def RNG_CTRL.ENABLE : Fld := ⟨.RNG_CTRL, 0, 1, .own, 0, .any⟩
def RNG_CTRL.DISABLE : Fld := ⟨.RNG_CTRL, 1, 1, .own, 0, .any⟩
def RNG_CTRL.ENABLED : Fld := ⟨.RNG_CTRL, 2, 1, .ro, 0, .any⟩
def RNG_CTRL.BUSY : Fld := ⟨.RNG_CTRL, 3, 1, .ro, 0, .any⟩
def RNG_CTRL.QUEUED : Fld := ⟨.RNG_CTRL, 4, 1, .ro, 0, .any⟩
def RNG_CTRL.RING_FAULT : Fld := ⟨.RNG_CTRL, 5, 1, .ro, 0, .any⟩
def RNG_STATE.HEAD : Fld := ⟨.RNG_STATE, 0, 16, .ro, 0, .any⟩
def RNG_STATE.TAIL : Fld := ⟨.RNG_STATE, 16, 16, .ro, 0, .any⟩
def RNG_STATE.CQ_HEAD : Fld := ⟨.RNG_STATE, 32, 16, .ro, 0, .any⟩
def RNG_STATE.CQ_TAIL : Fld := ⟨.RNG_STATE, 48, 16, .ro, 0, .any⟩
def RNG_STAT.INFLIGHT : Fld := ⟨.RNG_STAT, 0, 16, .ro, 0, .any⟩
def RNG_STAT.SUSPENDED : Fld := ⟨.RNG_STAT, 16, 16, .ro, 0, .any⟩
def RNG_STAT.COMPLETED : Fld := ⟨.RNG_STAT, 32, 32, .rol, 0, .stops 4294967295⟩
def RNG_PLD_CFG.PRIO_MIN : Fld := ⟨.RNG_PLD_CFG, 0, 2, .rw, 0, .any⟩
/-! Fields of spec/13_memory.md. -/
def MMU_PT_BASE.ADDR : Fld := ⟨.MMU_PT_BASE, 12, 52, .rw, 0, .any⟩
def MMU_PT_CFG.LOC : Fld := ⟨.MMU_PT_CFG, 0, 1, .rw, 0, .any⟩
def MMU_PT_CFG.PAGES : Fld := ⟨.MMU_PT_CFG, 8, 24, .rw, 16, .range 16 16777215⟩
def MMU_PT_CFG.USED_PT : Fld := ⟨.MMU_PT_CFG, 32, 32, .ro, 0, .any⟩
def MMU_FQ_BASE.ADDR : Fld := ⟨.MMU_FQ_BASE, 12, 52, .rw, 0, .any⟩
def MMU_FQ_CFG.LOG2 : Fld := ⟨.MMU_FQ_CFG, 0, 4, .rw, 6, .range 6 12⟩
def MMU_FQ_CFG.EN : Fld := ⟨.MMU_FQ_CFG, 4, 1, .rw, 0, .any⟩
def MMU_FQ_CFG.TIMEOUT_MS : Fld := ⟨.MMU_FQ_CFG, 16, 16, .rw, 0, .any⟩
def MMU_QUOTA_A.USED : Fld := ⟨.MMU_QUOTA_A, 0, 32, .ro, 0, .any⟩
def MMU_QUOTA_A.FREE : Fld := ⟨.MMU_QUOTA_A, 32, 32, .ro, 0, .any⟩
def MMU_QUOTA_B.PENDING : Fld := ⟨.MMU_QUOTA_B, 0, 32, .ro, 0, .any⟩
def MMU_QUOTA_B.GRANTED_GIB : Fld := ⟨.MMU_QUOTA_B, 32, 9, .ro, 0, .any⟩
def MMU_STAT.FAULTS_OUT : Fld := ⟨.MMU_STAT, 0, 13, .ro, 0, .any⟩
def MMU_STAT.FQ_WAIT : Fld := ⟨.MMU_STAT, 16, 16, .rol, 0, .stops 65535⟩
def MMU_STAT.EMBANKED_K : Fld := ⟨.MMU_STAT, 32, 16, .ro, 0, .any⟩
def MMU_STAT.FAULTS : Fld := ⟨.MMU_STAT, 48, 16, .rol, 0, .stops 65535⟩
def MMU_HBM_ERR.CE : Fld := ⟨.MMU_HBM_ERR, 0, 32, .ro, 0, .stops 4294967295⟩
def MMU_HBM_ERR.UE : Fld := ⟨.MMU_HBM_ERR, 32, 16, .ro, 0, .stops 65535⟩
def MMU_HBM_SPARE.RETIRED : Fld := ⟨.MMU_HBM_SPARE, 0, 32, .ro, 0, .any⟩
def MMU_HBM_SPARE.STUCK : Fld := ⟨.MMU_HBM_SPARE, 32, 16, .ro, 0, .stops 65535⟩
def MMU_HBM_SCRUB.EN : Fld := ⟨.MMU_HBM_SCRUB, 0, 1, .rw, 1, .any⟩
def MMU_HBM_SCRUB.PERIOD_H : Fld := ⟨.MMU_HBM_SCRUB, 8, 8, .rw, 24, .range 1 168⟩
/-! Fields of spec/14_sync_events.md. -/
def SYN_SEL.OBJ : Fld := ⟨.SYN_SEL, 0, 14, .rw, 0, .special⟩
def SYN_VALUE.VALUE : Fld := ⟨.SYN_VALUE, 0, 64, .ro, 0, .any⟩
def SYN_STAT.INFLIGHT : Fld := ⟨.SYN_STAT, 0, 16, .ro, 0, .any⟩
def SYN_STAT.RESTORING : Fld := ⟨.SYN_STAT, 16, 1, .ro, 0, .any⟩
def SYN_STAT.REMOTE_IN : Fld := ⟨.SYN_STAT, 32, 16, .rol, 0, .stops 65535⟩
def SYN_STAT.EPOCH_DROP : Fld := ⟨.SYN_STAT, 48, 16, .rol, 0, .stops 65535⟩
def EVC_CTRL.SPLIT : Fld := ⟨.EVC_CTRL, 0, 3, .rw, 4, .any⟩
def EVC_CTRL.MODE : Fld := ⟨.EVC_CTRL, 3, 1, .own, 0, .any⟩
def EVC_CTRL.HOLD : Fld := ⟨.EVC_CTRL, 4, 1, .own, 0, .any⟩
def EVC_CTRL.HOLD_EXPIRED : Fld := ⟨.EVC_CTRL, 5, 1, .rol, 0, .any⟩
def EVC_MASK.MASK : Fld := ⟨.EVC_MASK, 0, 64, .rw, 18446744073709551615, .any⟩
def EVC_PEND.PEND : Fld := ⟨.EVC_PEND, 0, 64, .own, 0, .any⟩
def EVC_ACTIVE.ACTIVE : Fld := ⟨.EVC_ACTIVE, 0, 64, .ro, 0, .any⟩
def EVC_PRIO.PRIO0 : Fld := ⟨.EVC_PRIO, 0, 8, .rw, 128, .any⟩
def EVC_PRIO.PRIO1 : Fld := ⟨.EVC_PRIO, 8, 8, .rw, 128, .any⟩
def EVC_PRIO.PRIO2 : Fld := ⟨.EVC_PRIO, 16, 8, .rw, 128, .any⟩
def EVC_PRIO.PRIO3 : Fld := ⟨.EVC_PRIO, 24, 8, .rw, 128, .any⟩
def EVC_PRIO.PRIO4 : Fld := ⟨.EVC_PRIO, 32, 8, .rw, 128, .any⟩
def EVC_PRIO.PRIO5 : Fld := ⟨.EVC_PRIO, 40, 8, .rw, 128, .any⟩
def EVC_PRIO.PRIO6 : Fld := ⟨.EVC_PRIO, 48, 8, .rw, 128, .any⟩
def EVC_PRIO.PRIO7 : Fld := ⟨.EVC_PRIO, 56, 8, .rw, 128, .any⟩
def EVC_TGT_BASE.ADDR : Fld := ⟨.EVC_TGT_BASE, 12, 52, .rw, 0, .any⟩
def EVC_TGT_CFG.EN : Fld := ⟨.EVC_TGT_CFG, 0, 1, .rw, 0, .any⟩
def EVC_TGT_CFG.LOG2 : Fld := ⟨.EVC_TGT_CFG, 1, 4, .rw, 4, .range 4 12⟩
def EVC_TGT_CFG.RUNPRIO : Fld := ⟨.EVC_TGT_CFG, 16, 9, .rw, 256, .range 0 256⟩
def EVC_TGT_CFG.DEPTH : Fld := ⟨.EVC_TGT_CFG, 28, 5, .ro, 0, .any⟩
def EVC_TGT_CFG.STACK_FAULTS : Fld := ⟨.EVC_TGT_CFG, 48, 16, .rol, 0, .stops 65535⟩
def EVC_TGT_PTR.TAIL : Fld := ⟨.EVC_TGT_PTR, 0, 16, .ro, 0, .any⟩
def EVC_TGT_PTR.HEAD : Fld := ⟨.EVC_TGT_PTR, 16, 16, .own, 0, .special⟩
def EVC_TGT_PTR.SPILL : Fld := ⟨.EVC_TGT_PTR, 32, 32, .ro, 0, .stops 4294967295⟩
def EVC_TGT_DONE.SOURCE : Fld := ⟨.EVC_TGT_DONE, 0, 12, .own, 0, .any⟩
def EVC_TGT_DONE.RUNPRIO : Fld := ⟨.EVC_TGT_DONE, 16, 9, .own, 0, .range 0 256⟩
def EVC_TGT_DONE.SET_PRIO : Fld := ⟨.EVC_TGT_DONE, 25, 1, .own, 0, .any⟩
def SYN_WATCH.OBJ : Fld := ⟨.SYN_WATCH, 0, 14, .own, 0, .special⟩
def SYN_WATCH.EN : Fld := ⟨.SYN_WATCH, 15, 1, .own, 0, .any⟩
def SYN_THRESH.THRESHOLD : Fld := ⟨.SYN_THRESH, 0, 64, .own, 0, .any⟩
/-! Fields of spec/15_startup.md. -/
def PWR_START.KIND : Fld := ⟨.PWR_START, 0, 1, .ro, 0, .any⟩
def PWR_START.RESTORED : Fld := ⟨.PWR_START, 1, 1, .ro, 0, .any⟩
def PWR_START.SAFE : Fld := ⟨.PWR_START, 2, 1, .ro, 0, .any⟩
def PWR_START.READY : Fld := ⟨.PWR_START, 3, 1, .ro, 0, .any⟩
def PWR_START.PHASE : Fld := ⟨.PWR_START, 4, 4, .ro, 0, .any⟩
def PWR_START.FORCE_COLD : Fld := ⟨.PWR_START, 8, 1, .ro, 0, .any⟩
def PWR_START.FAILS : Fld := ⟨.PWR_START, 9, 2, .ro, 0, .stops 3⟩
def PWR_START.FAIL_CAUSE : Fld := ⟨.PWR_START, 16, 8, .ro, 0, .any⟩
def PWR_START.FAIL_PHASE : Fld := ⟨.PWR_START, 24, 4, .ro, 0, .any⟩
def PWR_START.START_MS : Fld := ⟨.PWR_START, 32, 32, .ro, 0, .any⟩
def PWR_RESET.KIND : Fld := ⟨.PWR_RESET, 0, 2, .own, 0, .any⟩
def PWR_TOKEN.TOTAL : Fld := ⟨.PWR_TOKEN, 0, 12, .ro, 0, .any⟩
def PWR_TOKEN.HELD : Fld := ⟨.PWR_TOKEN, 12, 12, .ro, 0, .any⟩
def PWR_TOKEN.PENDING : Fld := ⟨.PWR_TOKEN, 24, 12, .ro, 0, .any⟩
def PWR_TOKEN.FREE : Fld := ⟨.PWR_TOKEN, 36, 13, .ro, 0, .any⟩
def PWR_TOKEN.SHORT : Fld := ⟨.PWR_TOKEN, 49, 1, .rol, 0, .any⟩
def PWR_WEIR.VSET_MV : Fld := ⟨.PWR_WEIR, 0, 10, .rw, 0, .range 650 850⟩
def PWR_WEIR.ENVELOPE_W : Fld := ⟨.PWR_WEIR, 16, 11, .rw, 0, .special⟩
def PWR_WEIR.TJ_LIMIT : Fld := ⟨.PWR_WEIR, 32, 7, .rw, 0, .range 85 105⟩
def PWR_WEIR.VNOW_MV : Fld := ⟨.PWR_WEIR, 40, 10, .ro, 0, .any⟩
def PWR_WEIR.AT_FLOOR : Fld := ⟨.PWR_WEIR, 50, 1, .ro, 0, .any⟩
def PWR_WEIR.P_W : Fld := ⟨.PWR_WEIR, 52, 11, .ro, 0, .any⟩
def PWR_IDLE.DELAY_US : Fld := ⟨.PWR_IDLE, 0, 16, .rw, 0, .any⟩
def PWR_IDLE.IDLE : Fld := ⟨.PWR_IDLE, 16, 1, .ro, 0, .any⟩
def PWR_LASER.A_SAFE : Fld := ⟨.PWR_LASER, 0, 1, .ro, 0, .any⟩
def PWR_LASER.B_SAFE : Fld := ⟨.PWR_LASER, 1, 1, .ro, 0, .any⟩
def PWR_LASER.ARMED : Fld := ⟨.PWR_LASER, 2, 1, .ro, 0, .any⟩
def PWR_LASER.STABLE : Fld := ⟨.PWR_LASER, 3, 1, .ro, 0, .any⟩
def PWR_LASER.DISC_FAULT : Fld := ⟨.PWR_LASER, 4, 1, .ro, 0, .any⟩
def PWR_LASER.A_CYCLED : Fld := ⟨.PWR_LASER, 5, 1, .ro, 0, .any⟩
def PWR_LASER.B_CYCLED : Fld := ⟨.PWR_LASER, 6, 1, .ro, 0, .any⟩
def PWR_LASER.DISC_MS : Fld := ⟨.PWR_LASER, 8, 8, .own, 0, .range 2 200⟩
def PWR_LASER.SHUTDOWNS : Fld := ⟨.PWR_LASER, 16, 16, .rol, 0, .stops 65535⟩
def PWR_LASER.GLITCHES : Fld := ⟨.PWR_LASER, 32, 16, .rol, 0, .stops 65535⟩
def CFG_SETTINGS.DEFAULTED : Fld := ⟨.CFG_SETTINGS, 0, 1, .ro, 0, .any⟩
def CFG_SETTINGS.CAUSE : Fld := ⟨.CFG_SETTINGS, 1, 2, .ro, 0, .any⟩
def CFG_SETTINGS.A_OK : Fld := ⟨.CFG_SETTINGS, 3, 1, .ro, 0, .any⟩
def CFG_SETTINGS.B_OK : Fld := ⟨.CFG_SETTINGS, 4, 1, .ro, 0, .any⟩
def CFG_SETTINGS.IN_USE : Fld := ⟨.CFG_SETTINGS, 5, 1, .ro, 0, .any⟩
def CFG_SETTINGS.GENERATION : Fld := ⟨.CFG_SETTINGS, 32, 32, .ro, 0, .any⟩
def CFG_CAL.PASS : Fld := ⟨.CFG_CAL, 0, 6, .ro, 0, .any⟩
def CFG_CAL.FAIL : Fld := ⟨.CFG_CAL, 8, 6, .ro, 0, .any⟩
def CFG_CAL.SOURCE : Fld := ⟨.CFG_CAL, 16, 2, .ro, 0, .any⟩
def CFG_CAL.AGE_H : Fld := ⟨.CFG_CAL, 32, 16, .ro, 0, .stops 65535⟩
def PWR_BK_STAT.VALID : Fld := ⟨.PWR_BK_STAT, 0, 1, .ro, 0, .any⟩
def PWR_BK_STAT.VBAT_LOW : Fld := ⟨.PWR_BK_STAT, 1, 1, .ro, 0, .any⟩
def PWR_BK_STAT.TEMP_BAD : Fld := ⟨.PWR_BK_STAT, 2, 1, .ro, 0, .any⟩
def PWR_BK_STAT.ENTRIES : Fld := ⟨.PWR_BK_STAT, 3, 7, .ro, 0, .any⟩
def PWR_BK_STAT.LOST : Fld := ⟨.PWR_BK_STAT, 16, 16, .rol, 0, .stops 65535⟩
def PWR_BK_STAT.CLR : Fld := ⟨.PWR_BK_STAT, 32, 1, .own, 0, .any⟩
def PWR_BK_ALARM.SEC : Fld := ⟨.PWR_BK_ALARM, 0, 48, .rw, 0, .any⟩
def PWR_BK_ALARM.EN : Fld := ⟨.PWR_BK_ALARM, 48, 1, .rw, 0, .any⟩
def PWR_DOMAIN.STATE : Fld := ⟨.PWR_DOMAIN, 0, 3, .ro, 0, .any⟩
def PWR_DOMAIN.BUSY : Fld := ⟨.PWR_DOMAIN, 3, 1, .ro, 0, .any⟩
def PWR_DOMAIN.QUEUED : Fld := ⟨.PWR_DOMAIN, 4, 1, .ro, 0, .any⟩
def PWR_DOMAIN.HELD_BACK : Fld := ⟨.PWR_DOMAIN, 5, 1, .ro, 0, .any⟩
def PWR_DOMAIN.DEMAND : Fld := ⟨.PWR_DOMAIN, 8, 12, .ro, 0, .any⟩
def PWR_BK_LOG.SEC : Fld := ⟨.PWR_BK_LOG, 0, 48, .ro, 0, .any⟩
def PWR_BK_LOG.CAUSE : Fld := ⟨.PWR_BK_LOG, 48, 4, .ro, 0, .any⟩
/-! Fields of spec/16_firmware.md. -/
def FWU_STATUS.ACTIVE_SLOT : Fld := ⟨.FWU_STATUS, 0, 1, .ro, 0, .any⟩
def FWU_STATUS.PROVISIONAL : Fld := ⟨.FWU_STATUS, 1, 1, .ro, 0, .any⟩
def FWU_STATUS.PAUSED : Fld := ⟨.FWU_STATUS, 2, 1, .ro, 0, .any⟩
def FWU_STATUS.ROM_LOADER : Fld := ⟨.FWU_STATUS, 3, 1, .ro, 0, .any⟩
def FWU_STATUS.SLOT0 : Fld := ⟨.FWU_STATUS, 8, 3, .ro, 0, .any⟩
def FWU_STATUS.SLOT1 : Fld := ⟨.FWU_STATUS, 11, 3, .ro, 0, .any⟩
def FWU_STATUS.LAST_CODE : Fld := ⟨.FWU_STATUS, 16, 8, .ro, 0, .any⟩
def FWU_STATUS.RUN_SV : Fld := ⟨.FWU_STATUS, 32, 32, .ro, 0, .any⟩
def FWU_XFER.CHUNKS : Fld := ⟨.FWU_XFER, 0, 10, .ro, 0, .any⟩
def FWU_XFER.DONE : Fld := ⟨.FWU_XFER, 10, 10, .ro, 0, .any⟩
def FWU_XFER.OPEN : Fld := ⟨.FWU_XFER, 20, 1, .ro, 0, .any⟩
def FWU_XFER.DIGEST_ID : Fld := ⟨.FWU_XFER, 32, 32, .ro, 0, .any⟩
def FWU_FUSE.MIN_SV : Fld := ⟨.FWU_FUSE, 0, 32, .ro, 0, .any⟩
def FWU_FUSE.USED : Fld := ⟨.FWU_FUSE, 32, 8, .ro, 0, .any⟩
def FWU_FUSE.REVOKED : Fld := ⟨.FWU_FUSE, 40, 4, .ro, 0, .any⟩
def FWU_BITMAP.CHUNK : Fld := ⟨.FWU_BITMAP, 0, 64, .ro, 0, .any⟩
/-! Fields of spec/17_debug.md. -/
def DBG_CNT_CFG.TILE : Fld := ⟨.DBG_CNT_CFG, 0, 8, .own, 255, .special⟩
def DBG_CNT_CFG.EN : Fld := ⟨.DBG_CNT_CFG, 8, 1, .own, 0, .any⟩
def DBG_CNT_CFG.EVENT : Fld := ⟨.DBG_CNT_CFG, 9, 4, .own, 0, .above 7 0⟩
def DBG_CNT_CFG.OWNER : Fld := ⟨.DBG_CNT_CFG, 13, 3, .own, 0, .any⟩
def DBG_CNT_CFG.STEP : Fld := ⟨.DBG_CNT_CFG, 16, 16, .own, 0, .any⟩
def DBG_CNT_CFG.ANY_STEP : Fld := ⟨.DBG_CNT_CFG, 32, 1, .own, 1, .any⟩
def DBG_CNT_CFG.PC_LO : Fld := ⟨.DBG_CNT_CFG, 33, 15, .own, 0, .any⟩
def DBG_CNT_CFG.PC_HI : Fld := ⟨.DBG_CNT_CFG, 48, 15, .own, 32767, .special⟩
def DBG_DUMP.RESET_REQ : Fld := ⟨.DBG_DUMP, 0, 1, .ro, 0, .any⟩
def DBG_DUMP.IN_PROGRESS : Fld := ⟨.DBG_DUMP, 1, 1, .ro, 0, .any⟩
def DBG_DUMP.LOCKED : Fld := ⟨.DBG_DUMP, 8, 9, .ro, 0, .any⟩
def DBG_DUMP.DUMPS : Fld := ⟨.DBG_DUMP, 32, 16, .rol, 0, .stops 65535⟩
def DBG_TMUX_KEY.KEY : Fld := ⟨.DBG_TMUX_KEY, 0, 16, .own, 0, .any⟩
def DBG_TMUX_CTRL.UNLOCKED : Fld := ⟨.DBG_TMUX_CTRL, 0, 1, .ro, 0, .any⟩
def DBG_TMUX_CTRL.LOCK : Fld := ⟨.DBG_TMUX_CTRL, 1, 1, .own, 0, .any⟩
def DBG_TMUX_SEL.SIGNAL : Fld := ⟨.DBG_TMUX_SEL, 0, 12, .rw, 0, .special⟩

/-- The fields of each register, in the order of its table. -/
def RegName.fields : RegName → List Fld
  | .GLB_FBD_CTRL => [GLB_FBD_CTRL.ALARM_FRAC, GLB_FBD_CTRL.ALARM_EN, GLB_FBD_CTRL.CLR]
  | .GLB_FBD_LAST => [GLB_FBD_LAST.FREEBOARD, GLB_FBD_LAST.CLUSTER]
  | .GLB_FBD_LAST_STEP => [GLB_FBD_LAST_STEP.STEP]
  | .GLB_FBD_MIN => [GLB_FBD_MIN.FREEBOARD, GLB_FBD_MIN.CLUSTER]
  | .GLB_FBD_MIN_STEP => [GLB_FBD_MIN_STEP.STEP]
  | .GLB_FBD_ALARM_CNT => [GLB_FBD_ALARM_CNT.COUNT]
  | .GLB_TILE_HANG => [GLB_TILE_HANG.LIMIT_MS]
  | .GLB_TILE_FAULT_A => [GLB_TILE_FAULT_A.CODE, GLB_TILE_FAULT_A.TILE, GLB_TILE_FAULT_A.PC]
  | .GLB_TILE_FAULT_B => [GLB_TILE_FAULT_B.STEP]
  | .GLB_TILE_FAULT_CNT => [GLB_TILE_FAULT_CNT.COUNT]
  | .GLB_TSTORE_ECC => [GLB_TSTORE_ECC.CE, GLB_TSTORE_ECC.UE_LATENT]
  | .GLB_TSTORE_SCRUB => [GLB_TSTORE_SCRUB.EN, GLB_TSTORE_SCRUB.PASSES]
  | .GLB_FBD_CLUSTER => [GLB_FBD_CLUSTER.FREEBOARD]
  | .GLB_STEP_NOW => [GLB_STEP_NOW.STEP]
  | .GLB_STEP_STATE => [GLB_STEP_STATE.STATE, GLB_STEP_STATE.HOLDING, GLB_STEP_STATE.HELD, GLB_STEP_STATE.EPOCH, GLB_STEP_STATE.HOLDERS]
  | .GLB_STEP_BERM => [GLB_STEP_BERM.STEP]
  | .GLB_STEP_CNT => [GLB_STEP_CNT.OVERTOP, GLB_STEP_CNT.LATE_HOLD, GLB_STEP_CNT.ROLLBACK]
  | .GLB_STEP_HELD => [GLB_STEP_HELD.TICKS]
  | .GLB_STEP_CTRL => [GLB_STEP_CTRL.CLR, GLB_STEP_CTRL.OVT_EVT_EN]
  | .GLB_STEP_OFFSET => [GLB_STEP_OFFSET.OFFSET]
  | .GTH_ASSIGN => [GTH_ASSIGN.OWNER, GTH_ASSIGN.EN, GTH_ASSIGN.BUSY]
  | .GTH_CACHE_CTRL => [GTH_CACHE_CTRL.EN, GTH_CACHE_CTRL.INV]
  | .GTH_CACHE_PART => [GTH_CACHE_PART.WAYS, GTH_CACHE_PART.EFFECTIVE]
  | .GTH_TRK => [GTH_TRK.FREE, GTH_TRK.HELD]
  | .GTH_TDIR_BASE => [GTH_TDIR_BASE.ADDR]
  | .GTH_TDIR_CFG => [GTH_TDIR_CFG.COUNT, GTH_TDIR_CFG.LOST_MS]
  | .GTH_QUEUE_BASE => [GTH_QUEUE_BASE.ADDR]
  | .GTH_QUEUE_CFG => [GTH_QUEUE_CFG.ENTRIES, GTH_QUEUE_CFG.DOORBELL, GTH_QUEUE_CFG.MODE, GTH_QUEUE_CFG.SORT_OVF, GTH_QUEUE_CFG.JRNL_OVF, GTH_QUEUE_CFG.NAN_ROWS, GTH_QUEUE_CFG.FROZEN_SKIP, GTH_QUEUE_CFG.REMOTE_SKIP]
  | .GTH_CONSUMED => [GTH_CONSUMED.COUNT]
  | .GTH_SORT_BASE => [GTH_SORT_BASE.ADDR]
  | .GTH_SORT_BYTES => [GTH_SORT_BYTES.BYTES]
  | .GTH_JRNL_BASE => [GTH_JRNL_BASE.ADDR]
  | .GTH_JRNL_BYTES => [GTH_JRNL_BYTES.BYTES]
  | .HZE_STATUS => [HZE_STATUS.READY, HZE_STATUS.DOMAIN_ON, HZE_STATUS.LASER_OK, HZE_STATUS.LOOPS_OK, HZE_STATUS.CAL_PASS, HZE_STATUS.CAL_OLD, HZE_STATUS.CAL_AGE_H]
  | .HZE_SEEP => [HZE_SEEP.THRESH, HZE_SEEP.DEG_EVT_EN, HZE_SEEP.CLR, HZE_SEEP.DEG_LIMIT]
  | .HZE_CNT => [HZE_CNT.FLAGGED, HZE_CNT.OVERRANGE, HZE_CNT.NOT_READY]
  | .HZE_AUDIT_CTRL => [HZE_AUDIT_CTRL.EN, HZE_AUDIT_CTRL.LOG2, HZE_AUDIT_CTRL.CLR, HZE_AUDIT_CTRL.LIMIT]
  | .HZE_AUDIT_STAT => [HZE_AUDIT_STAT.N, HZE_AUDIT_STAT.MAXERR]
  | .HZE_AUDIT_SUMSQ => [HZE_AUDIT_SUMSQ.SUMSQ]
  | .LSW_STATUS => [LSW_STATUS.STATE, LSW_STATUS.LAST_CODE, LSW_STATUS.LANES_UP]
  | .LSW_PLAN_ID => [LSW_PLAN_ID.ID]
  | .LSW_LANE => [LSW_LANE.EN_REQ, LSW_LANE.BUSY, LSW_LANE.FAILED, LSW_LANE.APR, LSW_LANE.STATE, LSW_LANE.EXIT, LSW_LANE.LINK]
  | .LNK_STATE => [LNK_STATE.STATE, LNK_STATE.RETRAIN, LNK_STATE.LANES_TX, LNK_STATE.LANES_RX, LNK_STATE.PEER_RANK]
  | .LNK_ERR => [LNK_ERR.CORR_SYM, LNK_ERR.UNCORR, LNK_ERR.RETRY, LNK_ERR.SCHED_STALL]
  | .LNK_VIOL => [LNK_VIOL.MALFORMED, LNK_VIOL.CREDIT_OVF, LNK_VIOL.OOS_RETRY, LNK_VIOL.UNKNOWN_TYPE, LNK_VIOL.TIME_MSG, LNK_VIOL.RETRAINS, LNK_VIOL.MISWIRE]
  | .LNK_CREDIT => [LNK_CREDIT.AVAIL_SCHED, LNK_CREDIT.HELD_SCHED, LNK_CREDIT.AVAIL_UNSCHED, LNK_CREDIT.HELD_UNSCHED]
  | .LNK_VIOL_CFG => [LNK_VIOL_CFG.LIMIT, LNK_VIOL_CFG.WINDOW_MS]
  | .LSW_SHAPE => [LSW_SHAPE.SHAPE, LSW_SHAPE.GROUP_SIZE, LSW_SHAPE.GROUPS, LSW_SHAPE.TORUS_X, LSW_SHAPE.TORUS_Y, LSW_SHAPE.TORUS_Z]
  | .LSW_TOPO => [LSW_TOPO.RANK, LSW_TOPO.SPARE, LSW_TOPO.GROUP, LSW_TOPO.MEMBER, LSW_TOPO.COPIES]
  | .LSW_ROUTE_STAT => [LSW_ROUTE_STAT.DETOURED, LSW_ROUTE_STAT.UNREACHABLE]
  | .SCU_STATUS => [SCU_STATUS.ACTIVE, SCU_STATUS.NONE, SCU_STATUS.A_HEALTHY, SCU_STATUS.B_HEALTHY, SCU_STATUS.STANDBY_READY, SCU_STATUS.SWITCH_REFUSED, SCU_STATUS.TAKEOVERS, SCU_STATUS.GIVEUP_CAUSE, SCU_STATUS.LOOPS_FAILED]
  | .SCU_CTRL => [SCU_CTRL.PREF, SCU_CTRL.SWITCH, SCU_CTRL.RECABLE_PROFILE]
  | .SCU_AIN => [SCU_AIN.CODE, SCU_AIN.GAIN]
  | .SCU_BANK => [SCU_BANK.REQ, SCU_BANK.SAT, SCU_BANK.SAT_CNT]
  | .SCU_RAMP => [SCU_RAMP.FRACTION, SCU_RAMP.OFFSET]
  | .SCU_LOOP_CTRL => [SCU_LOOP_CTRL.MODE, SCU_LOOP_CTRL.SPSRC, SCU_LOOP_CTRL.RAMP_SEL, SCU_LOOP_CTRL.RESTART, SCU_LOOP_CTRL.BUSY, SCU_LOOP_CTRL.SETPOINT, SCU_LOOP_CTRL.MANUAL_OUT]
  | .SCU_LOOP_COEF => [SCU_LOOP_COEF.KP, SCU_LOOP_COEF.KI, SCU_LOOP_COEF.FE_LIM, SCU_LOOP_COEF.FE_SAMPLES]
  | .SCU_LOOP_STAT => [SCU_LOOP_STAT.PV, SCU_LOOP_STAT.OUTPUT, SCU_LOOP_STAT.STATE, SCU_LOOP_STAT.RANGE, SCU_LOOP_STAT.FE_COUNT, SCU_LOOP_STAT.RANGE_CHG]
  | .TIM_CFG => [TIM_CFG.PPS_DIR, TIM_CFG.PPS_BASE]
  | .TIM_MTICK => [TIM_MTICK.TICKS]
  | .TIM_MTICK_STAT => [TIM_MTICK_STAT.OFFSET, TIM_MTICK_STAT.PARENT, TIM_MTICK_STAT.ALIGNED, TIM_MTICK_STAT.ROOT, TIM_MTICK_STAT.ALIGN_EVT]
  | .TIM_TB_CFG => [TIM_TB_CFG.OWNER, TIM_TB_CFG.SRC, TIM_TB_CFG.LOG_INTERVAL, TIM_TB_CFG.ROOT_RANK]
  | .TIM_TB_SERVO => [TIM_TB_SERVO.KP, TIM_TB_SERVO.KI, TIM_TB_SERVO.JUMP_NS]
  | .TIM_TB_CTRL => [TIM_TB_CTRL.SET, TIM_TB_CTRL.REACQUIRE, TIM_TB_CTRL.LAST_OFFSET]
  | .TIM_TB_STATUS => [TIM_TB_STATUS.STATE, TIM_TB_STATUS.VALID, TIM_TB_STATUS.SET_IGNORED, TIM_TB_STATUS.REFUSED, TIM_TB_STATUS.FREQ_ADJ]
  | .TIM_TB_SEC => [TIM_TB_SEC.SEC]
  | .TIM_TB_NS => [TIM_TB_NS.NS, TIM_TB_NS.FRAC]
  | .TIM_TB_SET_SEC => [TIM_TB_SET_SEC.SEC]
  | .TIM_TB_SET_NS => [TIM_TB_SET_NS.NS, TIM_TB_SET_NS.FRAC]
  | .TIM_CMP => [TIM_CMP.TARGET, TIM_CMP.BASE, TIM_CMP.ARM, TIM_CMP.FIRED]
  | .TIM_PORT => [TIM_PORT.ASYM, TIM_PORT.TIME_EN]
  | .GLB_ID => [GLB_ID.VENDOR, GLB_ID.DEVICE, GLB_ID.VARIANT, GLB_ID.STEP_MAJOR, GLB_ID.STEP_MINOR]
  | .GLB_ARCH => [GLB_ARCH.LEVELS]
  | .GLB_CAP_UNIT => [GLB_CAP_UNIT.HZ, GLB_CAP_UNIT.OE, GLB_CAP_UNIT.HBM]
  | .GLB_CAP_DOMAIN => [GLB_CAP_DOMAIN.DOMAIN]
  | .GLB_CAP_SIZE => [GLB_CAP_SIZE.TILES, GLB_CAP_SIZE.LANES, GLB_CAP_SIZE.LOOPS, GLB_CAP_SIZE.HBM_GIB]
  | .GLB_CAP_HOST => [GLB_CAP_HOST.POLDERS, GLB_CAP_HOST.RINGS, GLB_CAP_HOST.SYNC, GLB_CAP_HOST.EVENTS, GLB_CAP_HOST.GATHER]
  | .GLB_CAP_LOOP => [GLB_CAP_LOOP.PRESENT]
  | .GLB_PORT => [GLB_PORT.LINK_UP, GLB_PORT.RATE, GLB_PORT.WIDTH, GLB_PORT.BONDED, GLB_PORT.BUSY, GLB_PORT.POLDERS, GLB_PORT.DROPPED, GLB_PORT.RESETS]
  | .GLB_PLD_CFG => [GLB_PLD_CFG.PORT, GLB_PLD_CFG.ARCH_REQ, GLB_PLD_CFG.RINGS_REQ, GLB_PLD_CFG.SYNC_REQ, GLB_PLD_CFG.HBM_REQ]
  | .GLB_PLD_STAT => [GLB_PLD_STAT.CMD, GLB_PLD_STAT.STATE, GLB_PLD_STAT.BUSY, GLB_PLD_STAT.QUEUED, GLB_PLD_STAT.RING_BASE, GLB_PLD_STAT.RING_PAGES, GLB_PLD_STAT.SYNC_BASE, GLB_PLD_STAT.SYNC_BLOCKS, GLB_PLD_STAT.HBM_GIB, GLB_PLD_STAT.ARCH, GLB_PLD_STAT.ZERO_GIB]
  | .PLD_INFO => [PLD_INFO.POLDER]
  | .PLD_BAR2 => [PLD_BAR2.BASE]
  | .PLD_STATUS => [PLD_STATUS.BAR2_MISS]
  | .RNG_SEL => [RNG_SEL.RING]
  | .RNG_SQ_BASE => [RNG_SQ_BASE.ADDR]
  | .RNG_CQ_BASE => [RNG_CQ_BASE.ADDR]
  | .RNG_CFG => [RNG_CFG.SQ_LOG2, RNG_CFG.PRIO]
  | .RNG_CTRL => [RNG_CTRL.ENABLE, RNG_CTRL.DISABLE, RNG_CTRL.ENABLED, RNG_CTRL.BUSY, RNG_CTRL.QUEUED, RNG_CTRL.RING_FAULT]
  | .RNG_STATE => [RNG_STATE.HEAD, RNG_STATE.TAIL, RNG_STATE.CQ_HEAD, RNG_STATE.CQ_TAIL]
  | .RNG_STAT => [RNG_STAT.INFLIGHT, RNG_STAT.SUSPENDED, RNG_STAT.COMPLETED]
  | .RNG_PLD_CFG => [RNG_PLD_CFG.PRIO_MIN]
  | .MMU_PT_BASE => [MMU_PT_BASE.ADDR]
  | .MMU_PT_CFG => [MMU_PT_CFG.LOC, MMU_PT_CFG.PAGES, MMU_PT_CFG.USED_PT]
  | .MMU_FQ_BASE => [MMU_FQ_BASE.ADDR]
  | .MMU_FQ_CFG => [MMU_FQ_CFG.LOG2, MMU_FQ_CFG.EN, MMU_FQ_CFG.TIMEOUT_MS]
  | .MMU_QUOTA_A => [MMU_QUOTA_A.USED, MMU_QUOTA_A.FREE]
  | .MMU_QUOTA_B => [MMU_QUOTA_B.PENDING, MMU_QUOTA_B.GRANTED_GIB]
  | .MMU_STAT => [MMU_STAT.FAULTS_OUT, MMU_STAT.FQ_WAIT, MMU_STAT.EMBANKED_K, MMU_STAT.FAULTS]
  | .MMU_HBM_ERR => [MMU_HBM_ERR.CE, MMU_HBM_ERR.UE]
  | .MMU_HBM_SPARE => [MMU_HBM_SPARE.RETIRED, MMU_HBM_SPARE.STUCK]
  | .MMU_HBM_SCRUB => [MMU_HBM_SCRUB.EN, MMU_HBM_SCRUB.PERIOD_H]
  | .SYN_SEL => [SYN_SEL.OBJ]
  | .SYN_VALUE => [SYN_VALUE.VALUE]
  | .SYN_STAT => [SYN_STAT.INFLIGHT, SYN_STAT.RESTORING, SYN_STAT.REMOTE_IN, SYN_STAT.EPOCH_DROP]
  | .EVC_CTRL => [EVC_CTRL.SPLIT, EVC_CTRL.MODE, EVC_CTRL.HOLD, EVC_CTRL.HOLD_EXPIRED]
  | .EVC_MASK => [EVC_MASK.MASK]
  | .EVC_PEND => [EVC_PEND.PEND]
  | .EVC_ACTIVE => [EVC_ACTIVE.ACTIVE]
  | .EVC_PRIO => [EVC_PRIO.PRIO0, EVC_PRIO.PRIO1, EVC_PRIO.PRIO2, EVC_PRIO.PRIO3, EVC_PRIO.PRIO4, EVC_PRIO.PRIO5, EVC_PRIO.PRIO6, EVC_PRIO.PRIO7]
  | .EVC_TGT_BASE => [EVC_TGT_BASE.ADDR]
  | .EVC_TGT_CFG => [EVC_TGT_CFG.EN, EVC_TGT_CFG.LOG2, EVC_TGT_CFG.RUNPRIO, EVC_TGT_CFG.DEPTH, EVC_TGT_CFG.STACK_FAULTS]
  | .EVC_TGT_PTR => [EVC_TGT_PTR.TAIL, EVC_TGT_PTR.HEAD, EVC_TGT_PTR.SPILL]
  | .EVC_TGT_DONE => [EVC_TGT_DONE.SOURCE, EVC_TGT_DONE.RUNPRIO, EVC_TGT_DONE.SET_PRIO]
  | .SYN_WATCH => [SYN_WATCH.OBJ, SYN_WATCH.EN]
  | .SYN_THRESH => [SYN_THRESH.THRESHOLD]
  | .PWR_START => [PWR_START.KIND, PWR_START.RESTORED, PWR_START.SAFE, PWR_START.READY, PWR_START.PHASE, PWR_START.FORCE_COLD, PWR_START.FAILS, PWR_START.FAIL_CAUSE, PWR_START.FAIL_PHASE, PWR_START.START_MS]
  | .PWR_RESET => [PWR_RESET.KIND]
  | .PWR_TOKEN => [PWR_TOKEN.TOTAL, PWR_TOKEN.HELD, PWR_TOKEN.PENDING, PWR_TOKEN.FREE, PWR_TOKEN.SHORT]
  | .PWR_WEIR => [PWR_WEIR.VSET_MV, PWR_WEIR.ENVELOPE_W, PWR_WEIR.TJ_LIMIT, PWR_WEIR.VNOW_MV, PWR_WEIR.AT_FLOOR, PWR_WEIR.P_W]
  | .PWR_IDLE => [PWR_IDLE.DELAY_US, PWR_IDLE.IDLE]
  | .PWR_LASER => [PWR_LASER.A_SAFE, PWR_LASER.B_SAFE, PWR_LASER.ARMED, PWR_LASER.STABLE, PWR_LASER.DISC_FAULT, PWR_LASER.A_CYCLED, PWR_LASER.B_CYCLED, PWR_LASER.DISC_MS, PWR_LASER.SHUTDOWNS, PWR_LASER.GLITCHES]
  | .CFG_SETTINGS => [CFG_SETTINGS.DEFAULTED, CFG_SETTINGS.CAUSE, CFG_SETTINGS.A_OK, CFG_SETTINGS.B_OK, CFG_SETTINGS.IN_USE, CFG_SETTINGS.GENERATION]
  | .CFG_CAL => [CFG_CAL.PASS, CFG_CAL.FAIL, CFG_CAL.SOURCE, CFG_CAL.AGE_H]
  | .PWR_BK_STAT => [PWR_BK_STAT.VALID, PWR_BK_STAT.VBAT_LOW, PWR_BK_STAT.TEMP_BAD, PWR_BK_STAT.ENTRIES, PWR_BK_STAT.LOST, PWR_BK_STAT.CLR]
  | .PWR_BK_ALARM => [PWR_BK_ALARM.SEC, PWR_BK_ALARM.EN]
  | .PWR_DOMAIN => [PWR_DOMAIN.STATE, PWR_DOMAIN.BUSY, PWR_DOMAIN.QUEUED, PWR_DOMAIN.HELD_BACK, PWR_DOMAIN.DEMAND]
  | .PWR_BK_LOG => [PWR_BK_LOG.SEC, PWR_BK_LOG.CAUSE]
  | .FWU_STATUS => [FWU_STATUS.ACTIVE_SLOT, FWU_STATUS.PROVISIONAL, FWU_STATUS.PAUSED, FWU_STATUS.ROM_LOADER, FWU_STATUS.SLOT0, FWU_STATUS.SLOT1, FWU_STATUS.LAST_CODE, FWU_STATUS.RUN_SV]
  | .FWU_XFER => [FWU_XFER.CHUNKS, FWU_XFER.DONE, FWU_XFER.OPEN, FWU_XFER.DIGEST_ID]
  | .FWU_FUSE => [FWU_FUSE.MIN_SV, FWU_FUSE.USED, FWU_FUSE.REVOKED]
  | .FWU_BITMAP => [FWU_BITMAP.CHUNK]
  | .DBG_CNT_CFG => [DBG_CNT_CFG.TILE, DBG_CNT_CFG.EN, DBG_CNT_CFG.EVENT, DBG_CNT_CFG.OWNER, DBG_CNT_CFG.STEP, DBG_CNT_CFG.ANY_STEP, DBG_CNT_CFG.PC_LO, DBG_CNT_CFG.PC_HI]
  | .DBG_DUMP => [DBG_DUMP.RESET_REQ, DBG_DUMP.IN_PROGRESS, DBG_DUMP.LOCKED, DBG_DUMP.DUMPS]
  | .DBG_TMUX_KEY => [DBG_TMUX_KEY.KEY]
  | .DBG_TMUX_CTRL => [DBG_TMUX_CTRL.UNLOCKED, DBG_TMUX_CTRL.LOCK]
  | .DBG_TMUX_SEL => [DBG_TMUX_SEL.SIGNAL]

/-- The place of each register in the window. -/
def RegName.place : RegName → Place
  | .GLB_FBD_CTRL => { scope := .glob, width := 32, base := 0x30000 }
  | .GLB_FBD_LAST => { scope := .glob, width := 64, base := 0x30008 }
  | .GLB_FBD_LAST_STEP => { scope := .glob, width := 64, base := 0x30010 }
  | .GLB_FBD_MIN => { scope := .glob, width := 64, base := 0x30018 }
  | .GLB_FBD_MIN_STEP => { scope := .glob, width := 64, base := 0x30020 }
  | .GLB_FBD_ALARM_CNT => { scope := .glob, width := 32, base := 0x30028 }
  | .GLB_TILE_HANG => { scope := .glob, width := 32, base := 0x30030 }
  | .GLB_TILE_FAULT_A => { scope := .glob, width := 64, base := 0x30040 }
  | .GLB_TILE_FAULT_B => { scope := .glob, width := 64, base := 0x30048 }
  | .GLB_TILE_FAULT_CNT => { scope := .glob, width := 32, base := 0x30050 }
  | .GLB_TSTORE_ECC => { scope := .glob, width := 64, base := 0x30058 }
  | .GLB_TSTORE_SCRUB => { scope := .glob, width := 32, base := 0x30060 }
  | .GLB_FBD_CLUSTER => { scope := .glob, width := 64, base := 0x30100, s1 := 8, n1 := 16 }
  | .GLB_STEP_NOW => { scope := .glob, width := 64, base := 0x31000 }
  | .GLB_STEP_STATE => { scope := .glob, width := 32, base := 0x31008 }
  | .GLB_STEP_BERM => { scope := .glob, width := 64, base := 0x31010 }
  | .GLB_STEP_CNT => { scope := .glob, width := 64, base := 0x31018 }
  | .GLB_STEP_HELD => { scope := .glob, width := 64, base := 0x31020 }
  | .GLB_STEP_CTRL => { scope := .glob, width := 32, base := 0x31028 }
  | .GLB_STEP_OFFSET => { scope := .glob, width := 64, base := 0x31030 }
  | .GTH_ASSIGN => { scope := .glob, width := 64, base := 0x32000, s1 := 8, n1 := 16 }
  | .GTH_CACHE_CTRL => { scope := .glob, width := 32, base := 0x32080 }
  | .GTH_CACHE_PART => { scope := .glob, width := 32, base := 0x32100, s1 := 8, n1 := 8 }
  | .GTH_TRK => { scope := .glob, width := 64, base := 0x32200, s1 := 8, n1 := 16 }
  | .GTH_TDIR_BASE => { scope := .polder, width := 64, base := 0x3f00 }
  | .GTH_TDIR_CFG => { scope := .polder, width := 64, base := 0x3f08 }
  | .GTH_QUEUE_BASE => { scope := .engine, width := 64, base := 0x4000, s1 := 64, n1 := 16 }
  | .GTH_QUEUE_CFG => { scope := .engine, width := 64, base := 0x4008, s1 := 64, n1 := 16 }
  | .GTH_CONSUMED => { scope := .engine, width := 64, base := 0x4010, s1 := 64, n1 := 16 }
  | .GTH_SORT_BASE => { scope := .engine, width := 64, base := 0x4018, s1 := 64, n1 := 16 }
  | .GTH_SORT_BYTES => { scope := .engine, width := 64, base := 0x4020, s1 := 64, n1 := 16 }
  | .GTH_JRNL_BASE => { scope := .engine, width := 64, base := 0x4028, s1 := 64, n1 := 16 }
  | .GTH_JRNL_BYTES => { scope := .engine, width := 64, base := 0x4030, s1 := 64, n1 := 16 }
  | .HZE_STATUS => { scope := .glob, width := 32, base := 0x33000, s1 := 256, n1 := 2 }
  | .HZE_SEEP => { scope := .glob, width := 32, base := 0x33008, s1 := 256, n1 := 2 }
  | .HZE_CNT => { scope := .glob, width := 64, base := 0x33010, s1 := 256, n1 := 2 }
  | .HZE_AUDIT_CTRL => { scope := .glob, width := 32, base := 0x33018, s1 := 256, n1 := 2 }
  | .HZE_AUDIT_STAT => { scope := .glob, width := 64, base := 0x33020, s1 := 256, n1 := 2 }
  | .HZE_AUDIT_SUMSQ => { scope := .glob, width := 64, base := 0x33028, s1 := 256, n1 := 2 }
  | .LSW_STATUS => { scope := .glob, width := 32, base := 0x34000 }
  | .LSW_PLAN_ID => { scope := .glob, width := 64, base := 0x34008 }
  | .LSW_LANE => { scope := .glob, width := 32, base := 0x34100, s1 := 8, n1 := 512 }
  | .LNK_STATE => { scope := .glob, width := 64, base := 0x35400, s1 := 32, n1 := 128 }
  | .LNK_ERR => { scope := .glob, width := 64, base := 0x35408, s1 := 32, n1 := 128 }
  | .LNK_VIOL => { scope := .glob, width := 64, base := 0x35410, s1 := 32, n1 := 128 }
  | .LNK_CREDIT => { scope := .glob, width := 64, base := 0x35418, s1 := 32, n1 := 128 }
  | .LNK_VIOL_CFG => { scope := .glob, width := 32, base := 0x36800 }
  | .LSW_SHAPE => { scope := .glob, width := 64, base := 0x34010 }
  | .LSW_TOPO => { scope := .glob, width := 64, base := 0x34018 }
  | .LSW_ROUTE_STAT => { scope := .glob, width := 64, base := 0x34020 }
  | .SCU_STATUS => { scope := .glob, width := 64, base := 0x37000 }
  | .SCU_CTRL => { scope := .glob, width := 32, base := 0x37008 }
  | .SCU_AIN => { scope := .glob, width := 32, base := 0x37010 }
  | .SCU_BANK => { scope := .glob, width := 64, base := 0x37100, s1 := 8, n1 := 97 }
  | .SCU_RAMP => { scope := .glob, width := 32, base := 0x37800, s1 := 128, n1 := 8, s2 := 8, n2 := 16 }
  | .SCU_LOOP_CTRL => { scope := .glob, width := 64, base := 0x38000, s1 := 32, n1 := 782 }
  | .SCU_LOOP_COEF => { scope := .glob, width := 64, base := 0x38008, s1 := 32, n1 := 782 }
  | .SCU_LOOP_STAT => { scope := .glob, width := 64, base := 0x38010, s1 := 32, n1 := 782 }
  | .TIM_CFG => { scope := .glob, width := 32, base := 0x3f000 }
  | .TIM_MTICK => { scope := .glob, width := 64, base := 0x3f008 }
  | .TIM_MTICK_STAT => { scope := .glob, width := 64, base := 0x3f010 }
  | .TIM_TB_CFG => { scope := .glob, width := 64, base := 0x3f100, s1 := 64, n1 := 8 }
  | .TIM_TB_SERVO => { scope := .glob, width := 64, base := 0x3f108, s1 := 64, n1 := 8 }
  | .TIM_TB_CTRL => { scope := .glob, width := 64, base := 0x3f110, s1 := 64, n1 := 8 }
  | .TIM_TB_STATUS => { scope := .glob, width := 64, base := 0x3f118, s1 := 64, n1 := 8 }
  | .TIM_TB_SEC => { scope := .glob, width := 64, base := 0x3f120, s1 := 64, n1 := 8 }
  | .TIM_TB_NS => { scope := .glob, width := 64, base := 0x3f128, s1 := 64, n1 := 8 }
  | .TIM_TB_SET_SEC => { scope := .glob, width := 64, base := 0x3f130, s1 := 64, n1 := 8 }
  | .TIM_TB_SET_NS => { scope := .glob, width := 64, base := 0x3f138, s1 := 64, n1 := 8 }
  | .TIM_CMP => { scope := .glob, width := 64, base := 0x3f400, s1 := 8, n1 := 8 }
  | .TIM_PORT => { scope := .glob, width := 32, base := 0x3f800, s1 := 8, n1 := 128 }
  | .GLB_ID => { scope := .glob, width := 64, base := 0x0 }
  | .GLB_ARCH => { scope := .glob, width := 32, base := 0x8 }
  | .GLB_CAP_UNIT => { scope := .glob, width := 64, base := 0x10 }
  | .GLB_CAP_DOMAIN => { scope := .glob, width := 64, base := 0x18 }
  | .GLB_CAP_SIZE => { scope := .glob, width := 64, base := 0x20 }
  | .GLB_CAP_HOST => { scope := .glob, width := 64, base := 0x28 }
  | .GLB_CAP_LOOP => { scope := .glob, width := 64, base := 0x100, s1 := 8, n1 := 13 }
  | .GLB_PORT => { scope := .glob, width := 64, base := 0x1000, s1 := 8, n1 := 4 }
  | .GLB_PLD_CFG => { scope := .glob, width := 64, base := 0x1100, s1 := 16, n1 := 8 }
  | .GLB_PLD_STAT => { scope := .glob, width := 64, base := 0x1108, s1 := 16, n1 := 8 }
  | .PLD_INFO => { scope := .polder, width := 32, base := 0x0 }
  | .PLD_BAR2 => { scope := .polder, width := 64, base := 0x8 }
  | .PLD_STATUS => { scope := .polder, width := 32, base := 0x10 }
  | .RNG_SEL => { scope := .polder, width := 32, base := 0x1000 }
  | .RNG_SQ_BASE => { scope := .ring, width := 64, base := 0x1008 }
  | .RNG_CQ_BASE => { scope := .ring, width := 64, base := 0x1010 }
  | .RNG_CFG => { scope := .ring, width := 32, base := 0x1018 }
  | .RNG_CTRL => { scope := .ring, width := 32, base := 0x1020 }
  | .RNG_STATE => { scope := .ring, width := 64, base := 0x1028 }
  | .RNG_STAT => { scope := .ring, width := 64, base := 0x1030 }
  | .RNG_PLD_CFG => { scope := .glob, width := 32, base := 0x20000, s1 := 8, n1 := 8 }
  | .MMU_PT_BASE => { scope := .polder, width := 64, base := 0x6000 }
  | .MMU_PT_CFG => { scope := .polder, width := 64, base := 0x6008 }
  | .MMU_FQ_BASE => { scope := .polder, width := 64, base := 0x6010 }
  | .MMU_FQ_CFG => { scope := .polder, width := 32, base := 0x6018 }
  | .MMU_QUOTA_A => { scope := .polder, width := 64, base := 0x6020 }
  | .MMU_QUOTA_B => { scope := .polder, width := 64, base := 0x6028 }
  | .MMU_STAT => { scope := .polder, width := 64, base := 0x6030 }
  | .MMU_HBM_ERR => { scope := .glob, width := 64, base := 0x21000 }
  | .MMU_HBM_SPARE => { scope := .glob, width := 64, base := 0x21008 }
  | .MMU_HBM_SCRUB => { scope := .glob, width := 32, base := 0x21010 }
  | .SYN_SEL => { scope := .polder, width := 32, base := 0x3000 }
  | .SYN_VALUE => { scope := .polder, width := 64, base := 0x3008 }
  | .SYN_STAT => { scope := .polder, width := 64, base := 0x3010 }
  | .EVC_CTRL => { scope := .polder, width := 32, base := 0x3018 }
  | .EVC_MASK => { scope := .polder, width := 64, base := 0x3040, s1 := 8, n1 := 8 }
  | .EVC_PEND => { scope := .polder, width := 64, base := 0x3080, s1 := 8, n1 := 8 }
  | .EVC_ACTIVE => { scope := .polder, width := 64, base := 0x30c0, s1 := 8, n1 := 8 }
  | .EVC_PRIO => { scope := .polder, width := 64, base := 0x3100, s1 := 8, n1 := 64 }
  | .EVC_TGT_BASE => { scope := .polder, width := 64, base := 0x3300, s1 := 32, n1 := 16 }
  | .EVC_TGT_CFG => { scope := .polder, width := 64, base := 0x3308, s1 := 32, n1 := 16 }
  | .EVC_TGT_PTR => { scope := .polder, width := 64, base := 0x3310, s1 := 32, n1 := 16 }
  | .EVC_TGT_DONE => { scope := .polder, width := 32, base := 0x3318, s1 := 32, n1 := 16 }
  | .SYN_WATCH => { scope := .polder, width := 64, base := 0x3600, s1 := 16, n1 := 128 }
  | .SYN_THRESH => { scope := .polder, width := 64, base := 0x3608, s1 := 16, n1 := 128 }
  | .PWR_START => { scope := .glob, width := 64, base := 0x10000 }
  | .PWR_RESET => { scope := .glob, width := 32, base := 0x10008 }
  | .PWR_TOKEN => { scope := .glob, width := 64, base := 0x10010 }
  | .PWR_WEIR => { scope := .glob, width := 64, base := 0x10018 }
  | .PWR_IDLE => { scope := .glob, width := 32, base := 0x10020 }
  | .PWR_LASER => { scope := .glob, width := 64, base := 0x10028 }
  | .CFG_SETTINGS => { scope := .glob, width := 64, base := 0x10030 }
  | .CFG_CAL => { scope := .glob, width := 64, base := 0x10038 }
  | .PWR_BK_STAT => { scope := .glob, width := 64, base := 0x10040 }
  | .PWR_BK_ALARM => { scope := .glob, width := 64, base := 0x10048 }
  | .PWR_DOMAIN => { scope := .glob, width := 32, base := 0x10100, s1 := 8, n1 := 36 }
  | .PWR_BK_LOG => { scope := .glob, width := 64, base := 0x10400, s1 := 8, n1 := 64 }
  | .FWU_STATUS => { scope := .glob, width := 64, base := 0x11000 }
  | .FWU_XFER => { scope := .glob, width := 64, base := 0x11008 }
  | .FWU_FUSE => { scope := .glob, width := 64, base := 0x11010 }
  | .FWU_BITMAP => { scope := .glob, width := 64, base := 0x11100, s1 := 8, n1 := 12 }
  | .DBG_CNT_CFG => { scope := .glob, width := 64, base := 0x40000, s1 := 8, n1 := 1024 }
  | .DBG_DUMP => { scope := .glob, width := 64, base := 0x42000 }
  | .DBG_TMUX_KEY => { scope := .glob, width := 32, base := 0x42008 }
  | .DBG_TMUX_CTRL => { scope := .glob, width := 32, base := 0x42010 }
  | .DBG_TMUX_SEL => { scope := .glob, width := 32, base := 0x42100, s1 := 8, n1 := 8 }

/-- Registers, part 0 of the list below. -/
def RegName.part0 : List RegName :=
  [.GLB_FBD_CTRL, .GLB_FBD_LAST, .GLB_FBD_LAST_STEP, .GLB_FBD_MIN, .GLB_FBD_MIN_STEP, .GLB_FBD_ALARM_CNT, .GLB_TILE_HANG, .GLB_TILE_FAULT_A, .GLB_TILE_FAULT_B, .GLB_TILE_FAULT_CNT, .GLB_TSTORE_ECC, .GLB_TSTORE_SCRUB, .GLB_FBD_CLUSTER, .GLB_STEP_NOW, .GLB_STEP_STATE, .GLB_STEP_BERM, .GLB_STEP_CNT, .GLB_STEP_HELD, .GLB_STEP_CTRL, .GLB_STEP_OFFSET, .GTH_ASSIGN, .GTH_CACHE_CTRL, .GTH_CACHE_PART]

/-- Registers, part 1 of the list below. -/
def RegName.part1 : List RegName :=
  [.GTH_TRK, .GTH_TDIR_BASE, .GTH_TDIR_CFG, .GTH_QUEUE_BASE, .GTH_QUEUE_CFG, .GTH_CONSUMED, .GTH_SORT_BASE, .GTH_SORT_BYTES, .GTH_JRNL_BASE, .GTH_JRNL_BYTES, .HZE_STATUS, .HZE_SEEP, .HZE_CNT, .HZE_AUDIT_CTRL, .HZE_AUDIT_STAT, .HZE_AUDIT_SUMSQ, .LSW_STATUS, .LSW_PLAN_ID, .LSW_LANE, .LNK_STATE, .LNK_ERR, .LNK_VIOL, .LNK_CREDIT]

/-- Registers, part 2 of the list below. -/
def RegName.part2 : List RegName :=
  [.LNK_VIOL_CFG, .LSW_SHAPE, .LSW_TOPO, .LSW_ROUTE_STAT, .SCU_STATUS, .SCU_CTRL, .SCU_AIN, .SCU_BANK, .SCU_RAMP, .SCU_LOOP_CTRL, .SCU_LOOP_COEF, .SCU_LOOP_STAT, .TIM_CFG, .TIM_MTICK, .TIM_MTICK_STAT, .TIM_TB_CFG, .TIM_TB_SERVO, .TIM_TB_CTRL, .TIM_TB_STATUS, .TIM_TB_SEC, .TIM_TB_NS, .TIM_TB_SET_SEC, .TIM_TB_SET_NS]

/-- Registers, part 3 of the list below. -/
def RegName.part3 : List RegName :=
  [.TIM_CMP, .TIM_PORT, .GLB_ID, .GLB_ARCH, .GLB_CAP_UNIT, .GLB_CAP_DOMAIN, .GLB_CAP_SIZE, .GLB_CAP_HOST, .GLB_CAP_LOOP, .GLB_PORT, .GLB_PLD_CFG, .GLB_PLD_STAT, .PLD_INFO, .PLD_BAR2, .PLD_STATUS, .RNG_SEL, .RNG_SQ_BASE, .RNG_CQ_BASE, .RNG_CFG, .RNG_CTRL, .RNG_STATE, .RNG_STAT, .RNG_PLD_CFG]

/-- Registers, part 4 of the list below. -/
def RegName.part4 : List RegName :=
  [.MMU_PT_BASE, .MMU_PT_CFG, .MMU_FQ_BASE, .MMU_FQ_CFG, .MMU_QUOTA_A, .MMU_QUOTA_B, .MMU_STAT, .MMU_HBM_ERR, .MMU_HBM_SPARE, .MMU_HBM_SCRUB, .SYN_SEL, .SYN_VALUE, .SYN_STAT, .EVC_CTRL, .EVC_MASK, .EVC_PEND, .EVC_ACTIVE, .EVC_PRIO, .EVC_TGT_BASE, .EVC_TGT_CFG, .EVC_TGT_PTR, .EVC_TGT_DONE, .SYN_WATCH]

/-- Registers, part 5 of the list below. -/
def RegName.part5 : List RegName :=
  [.SYN_THRESH, .PWR_START, .PWR_RESET, .PWR_TOKEN, .PWR_WEIR, .PWR_IDLE, .PWR_LASER, .CFG_SETTINGS, .CFG_CAL, .PWR_BK_STAT, .PWR_BK_ALARM, .PWR_DOMAIN, .PWR_BK_LOG, .FWU_STATUS, .FWU_XFER, .FWU_FUSE, .FWU_BITMAP, .DBG_CNT_CFG, .DBG_DUMP, .DBG_TMUX_KEY, .DBG_TMUX_CTRL, .DBG_TMUX_SEL]

/-- All registers, in the order of the chapters. -/
def RegName.all : List RegName :=
  List.flatten [part0, part1, part2, part3, part4, part5]

end Sys2Proof.Machine
end

