-- ==== Sys2Proof/Machine/Sparse.lean ====
section
/-! DEFINITION. Sparse data by key: a list of (key, value) pairs in one canonical form, keys strictly rising and no pair
whose value is what an unlisted key reads as. Memory is the case of bytes (Host.Cell), registers the case of words. -/

namespace Sys2Proof.Machine

/-- Sparse data by key. -/
abbrev SMap (α : Type) := List (Nat × α)

namespace SMap

variable {α : Type}

/-- The value at key `k`; an unlisted key reads as `d`. -/
def get (d : α) : SMap α → Nat → α
  | [], _ => d
  | (k', x) :: m, k => if k' = k then x else get d m k

/-- (k, x) put in front of the first pair with a larger key. -/
def ins (k : Nat) (x : α) : SMap α → SMap α
  | [] => [(k, x)]
  | (k', y) :: m => if k' < k then (k', y) :: ins k x m else (k, x) :: (k', y) :: m

/-- The pairs with other keys, and (k, x) at its place unless x is what an unlisted key reads as. -/
def set [DecidableEq α] (d : α) (m : SMap α) (k : Nat) (x : α) : SMap α :=
  let m' := m.filter (fun p => decide (p.1 ≠ k))
  if x = d then m' else ins k x m'

/-- The canonical form: keys strictly rising, no pair equal to what an unlisted key reads as. -/
def wf [DecidableEq α] (d : α) : SMap α → Bool
  | [] => true
  | (k, x) :: m => decide (x ≠ d) && m.all (fun p => decide (k < p.1)) && wf d m

/-- Pairs of the values of a list laid out from key `k`, those equal to `d` left out. -/
def ofList [DecidableEq α] (d : α) : Nat → List α → SMap α
  | _, [] => []
  | k, x :: xs => if x = d then ofList d (k + 1) xs else (k, x) :: ofList d (k + 1) xs

/-- The values of a list written from key `k` on, as one block. -/
def setList [DecidableEq α] (d : α) (m : SMap α) (k : Nat) (xs : List α) : SMap α :=
  m.filter (fun p => decide (p.1 < k)) ++ ofList d k xs ++ m.filter (fun p => decide (k + xs.length ≤ p.1))

/-- The `n` values from key `k` on. -/
def getList (d : α) (m : SMap α) (k n : Nat) : List α :=
  let m' := m.filter (fun p => decide (k ≤ p.1) && decide (p.1 < k + n))
  (List.range n).map (fun i => get d m' (k + i))

/-- The pairs with keys in [lo, hi) taken out, so that they read as unlisted. -/
def clear (m : SMap α) (lo hi : Nat) : SMap α :=
  m.filter (fun p => decide (p.1 < lo) || decide (hi ≤ p.1))

/-- A function applied to every value listed; pairs that become what an unlisted key reads as are dropped. -/
def mapVal [DecidableEq α] (d : α) (g : α → α) (m : SMap α) : SMap α :=
  (List.map (fun p => (p.1, g p.2)) m).filter (fun p => decide (p.2 ≠ d))

end SMap

/-- Bytes by address; an unlisted address reads as zero. -/
abbrev Mem := SMap Byte

namespace Mem

/-- One byte. -/
def byte (m : Mem) (a : Nat) : Byte := m.get 0 a

/-- The `n` bytes from `a` on. -/
def read (m : Mem) (a n : Nat) : List Byte := SMap.getList 0 m a n

/-- Bytes written from `a` on. -/
def write (m : Mem) (a : Nat) (bs : List Byte) : Mem := SMap.setList 0 m a bs

/-- The canonical form of memory. -/
def wf (m : Mem) : Bool := SMap.wf 0 m

end Mem

/-- Little-endian number of a list of bytes. -/
def leNat : List Byte → Nat
  | [] => 0
  | b :: bs => b.toNat + 256 * leNat bs

/-- The low `n` bytes of a number, least significant first. -/
def leBytes : Nat → Nat → List Byte
  | 0, _ => []
  | n + 1, x => BitVec.ofNat 8 x :: leBytes n (x / 256)
/-- A number in `n` bytes, the most significant first. -/
def beBytes (n x : Nat) : List Byte := (leBytes n x).reverse

/-- Field [lo, lo + w) of a number. -/
def bitsOf (x lo w : Nat) : Nat := x / 2 ^ lo % 2 ^ w

/-- A `w`-bit number read as two's complement. -/
def sint (w x : Nat) : Int := if x % 2 ^ w < 2 ^ (w - 1) then (x % 2 ^ w : Nat) else ((x % 2 ^ w : Nat) : Int) - 2 ^ w

/-- The low `w` bits of an integer. -/
def uint (w : Nat) (x : Int) : Nat := (x % (2 ^ w : Nat)).toNat

end Sys2Proof.Machine
end

