-- ==== Sys2Proof/Machine/State.lean ====
section
/-! DEFINITION. The state of the package, as plain data. A register the chapters give lives in `State.regs` under its name;
what the chapters give the machine beside its registers has a field of its own. -/

namespace Sys2Proof.Machine

/-! Tiles (spec/02, 03). -/

/-- What a tile is doing, with the codes of R366. -/
inductive TileSt where
  | running | lrecv | swait | fence | complete | retired | faulted | off
  deriving DecidableEq, Repr

/-- The asynchronous operations of a tile (R57). -/
inductive OpKind where
  | hbmRd | hbmWr | tsRd | tsWr | gthRd | lsend | signal | remoteSignal | hzload | hzstream
  deriving DecidableEq, Repr

/-- One outstanding asynchronous operation: addresses and length with their low bits cleared (R54); `arg` is the channel,
slot, gather engine or block tag; `eng` the Hjelzo engine; `pc` the index of its instruction, which a fault at its end records (R46). -/
structure TileOp where
  id : Nat
  kind : OpKind
  dst : Nat := 0
  src : Nat := 0
  len : Nat := 0
  arg : Nat := 0
  eng : Nat := 0
  val : Word := 0
  pc : Nat := 0
  deriving DecidableEq, Repr

/-- A Hjelzo block that has finished: its tag, its vectors, those flagged (R67, R68). -/
structure HzDone where
  tag : Nat
  n : Nat
  flagged : List Nat
  deriving DecidableEq, Repr

/-- The architectural state of a tile (R48), what it has outstanding (R58) and the core clock periods it has been busy in the step in
hand (R44). The manual gives its registers, PC, FLAGS and SEED no value before a schedule starts a tile (R49): 0 at reset (log 210,
DESIGN CHOICE). -/
structure Tile where
  s : SMap Word := []
  v : SMap (BitVec 32) := []
  pc : BitVec 15 := 0
  pastEnd : Bool := false
  flags : BitVec 4 := 0
  seed : Word := 0
  st : TileSt := .retired
  ops : List TileOp := []
  nextOp : Nat := 0
  blocks : List HzDone := []
  busy : Nat := 0
  deriving DecidableEq, Repr

/-! Hjelzo engines (spec/06). -/

/-- A granted block (R129). -/
structure HzBlk where
  id : Nat
  tile : Nat
  op : Nat
  tag : Nat
  n : Nat
  next : Nat := 0
  src : Nat
  dst : Nat
  gen : Nat
  flagged : List Nat := []
  deriving DecidableEq, Repr

/-- One Hjelzo engine: `ptr` rotates over tiles at grants (R68), `vptr` is the number after the block whose vector was taken last
(R129), `latchSq` what HZE_AUDIT_SUMSQ reads (R141). -/
structure HzEng where
  claims : List (Nat × Nat) := []
  ptr : Nat := 0
  blocks : List HzBlk := []
  loading : Option (Nat × Nat) := none
  resident : Mem := []
  nextBlk : Nat := 0
  seq : Nat := 0
  winN : Nat := 0
  winSq : Nat := 0
  winFull : Option Nat := none
  stepFlags : Nat := 0
  degRaised : Bool := false
  latchSq : Nat := 0
  vptr : Nat := 0
  deriving DecidableEq, Repr

/-! Schedules (spec/04). -/

/-- One entry of the step table (R72). -/
structure StepE where
  budget : Nat
  berm : Bool
  classB : Bool
  mirrored : Bool
  entry : List Nat
  restore : List Nat
  restoreBudget : Nat
  deriving DecidableEq, Repr

/-- One channel of the image (R74). -/
structure Chan where
  send : Bool
  localTile : Nat
  peerTile : Nat
  rule : Nat
  p : Int
  buffer : Nat
  peerChan : Nat
  deriving DecidableEq, Repr

/-- One region of the image (R75). -/
structure Region where
  base : Nat
  len : Nat
  rd : Bool
  wr : Bool
  deriving DecidableEq, Repr

/-- One tile section (R73). -/
structure Section where
  off : Nat
  words : Nat
  seed : Word
  deriving DecidableEq, Repr

/-- A loaded image (R71–R75) and where it was loaded from (R87). -/
structure Image where
  id : Word
  crc : BitVec 32
  owner : Nat
  src : Nat
  horizon : Nat
  packages : Nat
  groups : Nat
  groupSize : Nat
  shape : Nat
  torus : List Nat
  lanePlan : Word
  iterations : Nat
  mirrorRule : Nat
  mirrorP : Int
  caps : Nat
  steps : List StepE
  sections : List Section
  chans : List Chan
  slots : List Nat
  regions : List Region
  deriving DecidableEq, Repr

/-- A berm record (R85), with the host deltas since its commit by object (R298). -/
structure Berm where
  step : Nat
  start : Nat
  vals : List Word
  mirrored : Bool
  deltas : SMap Word := []
  deriving DecidableEq, Repr

/-- A berm report received (R87). -/
structure Report where
  rank : Nat
  latest : Nat
  mirrored : Option Nat
  start : Nat
  epoch : Nat
  deriving DecidableEq, Repr

/-- What a start in progress is (R81, R87, R89). -/
inductive StartKind where
  | start | resume | rollback
  deriving DecidableEq, Repr

/-- The schedule unit: the resident image and the run. STATE, HOLDING, HELD, EPOCH and HOLDERS are fields of
GLB_STEP_STATE; the step number is GLB_STEP_NOW. -/
structure Sched where
  image : Option Image := none
  /-- The start value of the step in hand, the boundary value crossed into it, and where the counter stands while held. -/
  startVal : Nat := 0
  crossed : Nat := 0
  frozen : Option Nat := none
  /-- The joins that have reported, and the clusters with their freeboard (R40). -/
  join0 : Bool := false
  join1 : Bool := false
  clusterFb : List (Nat × Int) := []
  /-- The step in hand is the restore step of a rollback (R85), and what the machine tick count is ahead of the step counter in it:
  GLB_STEP_OFFSET stays as it is until the berm step starts (R81; log 34, DEDUCED). -/
  restoring : Bool := false
  restoreOff : Nat := 0
  /-- Who holds the coming boundary, and the releases received for it (R80). -/
  holds : List Nat := []
  releases : List (Nat × Nat) := []
  /-- Whether a hold for the boundary crossed last came after it, who sent one, and the releases received for it (R83). -/
  late : Bool := false
  lateHolds : List Nat := []
  lateReleases : List (Nat × Nat) := []
  /-- Ready messages not yet used, the kind of the start in progress, STATE before it, and the tick count it begins at. -/
  readies : List Ready := []
  kind : StartKind := .start
  prev : Nat := 0
  go : Option Nat := none
  berm : Option Berm := none
  bermMirror : Option Berm := none
  /-- Berm reports received, and the target once settled (R87). -/
  reports : List Report := []
  target : Option Report := none
  /-- The berm step named by a pre-emption, the step in which it was named, whether the run stops at the target of the
  rollback, and whether the stop unloads the schedule (R89, R90). -/
  preempt : Option Nat := none
  preemptIn : Nat := 0
  stopAt : Bool := false
  cancelled : Bool := false
  startDesc : Option Nat := none
  preDescs : List Nat := []
  /-- The last step was below the alarm threshold (R41); retransmissions and the highest temperature in the step (R82, R41). -/
  alarmed : Bool := false
  retrans : Nat := 0
  maxTj : Nat := 0
  /-- The 64-byte units that faulted since the last berm record was committed, and whether one faulted twice (R286). -/
  faultUnits : List Nat := []
  lost : Bool := false
  /-- Ranks that were out of reach in this rollback: a stand-in that takes one counts as no working package (R182). -/
  lostRanks : List Nat := []
  /-- Berm records kept across a load (R89): polder, IMAGE_ID, CRC, the record, its mirrored record. -/
  keptBerm : List (Nat × Word × BitVec 32 × Berm × Option Berm) := []
  deriving DecidableEq, Repr

/-! Gather engines (spec/05). -/

/-- A lookup-tracker entry (R108): the list position it serves, its row id, the owner of the row, and the bytes where the
cache had them. -/
structure Trk where
  id : Nat
  pos : Nat
  row : Nat
  owner : Nat
  hit : List Byte := []
  deriving DecidableEq, Repr

/-- A contribution in the sort area, with its row id (R114, R115). -/
structure Contrib where
  seq : Nat
  rank : Nat
  row : Nat
  grad : List Byte
  deriving DecidableEq, Repr

/-- An undo entry of the journal (R118): row address, state address, and what both held. -/
structure JEntry where
  pol : Nat
  rowVa : Nat
  row : List Byte
  stVa : Nat
  st : List Byte
  deriving DecidableEq, Repr

/-- A batch an engine runs (R100–R108): the command's bytes, its operation, the descriptor of a serving batch; where its bags
start; row ids and weights by list position, as far as they are read, and the next position to fetch; the rows that have
come, and those that cannot be read with their addresses and, here, their unit of HBM; the bags finished. `stop`: the bag it cannot begin, why (0 an HBM
error, else the reason of a fault) and the address; `lost`: a lookup that is lost and its owner. -/
structure Batch where
  op : Nat
  cmd : List Byte
  tbl : List Byte := []
  pol : Nat
  desc : Option Nat := none
  offs : List Nat := []
  rows : List Nat := []
  wts : List Nat := []
  next : Nat := 0
  got : SMap (List Byte) := []
  bad : List (Nat × Nat × Option Nat) := []
  bags : Nat := 0
  stop : Option (Nat × Nat × Nat) := none
  lost : Option (Nat × Nat) := none
  sent : Bool := false
  done : Bool := false
  deriving DecidableEq, Repr

/-- One gather engine; the journal's newest entry stands first. -/
structure Engine where
  batch : Option Batch := none
  trk : List Trk := []
  nextTrk : Nat := 0
  sort : List Contrib := []
  marks : List (Nat × Nat) := []
  journal : List JEntry := []
  queued : Option Word := none
  deriving DecidableEq, Repr

/-- A line of the hot-row cache (R110): its kind and tag, its use count, whether it is pinned, its bytes. -/
structure CLine where
  remote : Bool := false
  tag : List Nat := []
  use : Nat := 0
  pin : Bool := false
  bytes : List Byte := []
  deriving DecidableEq, Repr

/-! Lanes and links (spec/07, 08). -/

/-- A lane entry of a plan (R146). -/
structure LaneE where
  en : Bool := false
  exit : Nat := 0
  link : Nat := 0
  role : Nat := 0
  deriving DecidableEq, Repr

/-- A link entry of a plan (R147). -/
structure LinkE where
  peer : Nat := 0
  peerLink : Nat := 0
  minLanes : Nat := 1
  unschedMin : Nat := 0
  sched : Nat := 0
  unsched : Nat := 0
  deriving DecidableEq, Repr

/-- A lane plan (R145). -/
structure Plan where
  id : Word := 0
  rank : Nat := 0
  reserve : Nat := 0
  lanes : List LaneE := []
  links : List LinkE := []
  deriving DecidableEq, Repr

/-- What flooded and link-management messages carry (R79, R87, R89, R91, R176, R215, R295). -/
inductive Msg where
  | hold (boundary : Nat)
  | release (boundary resume : Nat)
  | abort (berm : Nat)
  | report (latest : Nat) (mirrored : Option Nat) (start epoch : Nat)
  | ready (m : Ready)
  | preempt (step : Nat) (cancel : Bool)
  | linkState (link peer : Nat) (up : Bool)
  | sync (domain seqId origin : Nat)
  | pdelayReq (seqId : Nat)
  | pdelayResp (seqId turnaround : Nat)
  | nak (seq : Nat)
  | resync (seq ack : Nat)
  | credits (vc n : Nat)
  | announce (vc n : Nat)
  deriving DecidableEq, Repr

/-- A message in a VC 0 queue: its origin, its sequence there (R179), what it carries. -/
structure Mgmt where
  rank : Nat
  seq : Nat
  msg : Msg
  deriving DecidableEq, Repr

/-- Data waiting on VC 1 or VC 2: the rank it goes to, its tag, its bytes, the trailer of a detour (R178: source, destination,
sequence), the link plus one whose slot it occupies in transit. -/
structure Pkt where
  dst : Nat
  tag : BitVec 32
  bytes : List Byte
  trailer : Option (Nat × Nat × Nat) := none
  frm : Nat := 0
  deriving DecidableEq, Repr

/-- What a flit kept for replay carried (R160), a message before its stamp (R216); neither a message nor data: a RESYNC. -/
structure Sent where
  seq : Nat
  vc : Nat
  mgmt : Option Mgmt := none
  pkt : Option Pkt := none
  deriving DecidableEq, Repr

/-- One link: its queues, its books (R159) and its retry state (R160). `last` is the SEQ last discarded while a replay is
awaited, `replay` the place in the retry buffer of the flit that a replay resends next; `stripe` counts the flits striped over the
lanes, `wire` and `wireLane` are the last flit sent and its lane entry (R155, R156); `slots` and `unsched` place it in the 64 flit
slots of R157, `stalled` marks a wait already counted (R158); `viol` and `violAt` are the violations in the window and when it began,
`violWin` that one has begun (R164); `resyncOut` says that a RESYNC of this end is unanswered, `resyncSeq` is the SEQ of the last one
received, `joining` lists the lanes that join at the next one (R162). For time (R215–R218): the next sequence to send and the last one received
by domain, whether synchronisation is not being restarted, the peer-delay exchange under way (its sequence and t1) and the mean link
delay in units of 2^-16 ns. -/
structure Link where
  q0 : List Mgmt := []
  q1 : List Pkt := []
  q2 : List Pkt := []
  avail0 : Nat := 0
  avail1 : Nat := 0
  avail2 : Nat := 0
  held0 : Nat := 0
  held1 : Nat := 0
  held2 : Nat := 0
  txSeq : Nat := 0
  rxSeq : Nat := 0
  nakOut : Bool := false
  last : Option Nat := none
  retry : List Sent := []
  replay : Option Nat := none
  stripe : Nat := 0
  wire : List Byte := []
  wireLane : Nat := 0
  slots : Nat := 0
  unsched : Nat := 0
  stalled : Bool := false
  viol : Nat := 0
  violAt : Nat := 0
  violWin : Bool := false
  resyncOut : Bool := false
  resyncSeq : Option Nat := none
  joining : List Nat := []
  syncTx : SMap Nat := []
  syncRx : SMap (Option Nat) := []
  timeOk : Bool := true
  pdSeq : Nat := 0
  pdOut : Option (Nat × Nat) := none
  delay : Int := 0
  deriving DecidableEq, Repr

/-- A re-cable that is armed or under way: the plan, its descriptor, whether it waits for the pulse edge, the samples that its
moves still wait for (R148, R150, R189). -/
structure Recable where
  plan : Plan
  desc : Option Nat
  armed : Bool
  wait : Nat := 0
  committed : Bool := false
  deriving DecidableEq, Repr

/-- A register write that waits: for the first sample of a new active unit (R208), or for the end of a management pause (R353). -/
inductive Held where
  | reg (p : Fin 4) (addr : Nat) (be : BitVec 8) (v : Word)
  | mode (i mode : Nat)
  | restart (i : Nat)
  | coef (i : Nat) (v : Word)
  | scuSwitch
  | lane (l : Nat) (on : Bool)
  | retrain (k : Nat)
  | shape (be : BitVec 8) (v : Word)
  | discMs (v : Nat)
  | logClr
  | reset (kind : Nat)
  deriving DecidableEq, Repr

/-! Switch control (spec/09). -/

/-- A set-point move (R190, R333): where it started, where it goes, samples elapsed, the profile (none: the straight ramp
of 64 samples), the samples it waits before it starts (R189). -/
structure Move where
  old : Int
  new : Int
  t : Nat
  prof : Option Nat
  wait : Nat := 0
  deriving DecidableEq, Repr

/-- One control loop beside its registers: its integrator, its effective set-point, the move of it and those that wait to start
(R189), the output it requests (R199), what the control law and supervision remember of the last sample, its parking ramp, a restart
or an integrator preset that is due, the coefficients and the SETPOINT in use while it is held (R192), its calibrated set-points
(R187). -/
structure Loop where
  integ : Int := 0
  sp : Int := 0
  move : Option Move := none
  due : List Move := []
  spHeld : Option Int := none
  req : Int := 0
  clamped : Bool := false
  scaled : Bool := false
  dwell : Nat := 0
  lightRun : Nat := 0
  parkFrom : Int := 0
  parkT : Nat := 0
  restart : Bool := false
  preset : Bool := false
  coef : Option Word := none
  cal : List Int := []
  deriving DecidableEq, Repr

/-- The two units and the interlock line (R201–R207): who holds it, the samples the standby has adopted and whether it tracks,
which unit passes its diagnosis, whether the line was released and not claimed since, the writes that wait for the first sample of a
new active unit (R208), the unit that was active at the start of a management pause (R207), whether a unit has claimed the line since
reset. -/
structure Scu where
  holder : Option Nat := none
  track : Nat := 0
  tracking : Bool := false
  healthyA : Bool := false
  healthyB : Bool := false
  released : Bool := false
  held : List Held := []
  handover : Option Nat := none
  claimed : Bool := false
  deriving DecidableEq, Repr

/-! Time (spec/10). -/

/-- One time base (R212): the time in units of 2^-16 ns, what is carried below that unit, the rate correction in 1/256
ppb, the servo's integral term, the seconds latched for the next read of TIM_TB_SEC. -/
structure Base where
  t : Nat := 0
  frac : Nat := 0
  freq : Int := 0
  integ : Int := 0
  secLatch : Option Nat := none
  deriving DecidableEq, Repr

/-! Rings and descriptors (spec/12). -/

/-- The stages of a fetched descriptor (R264, R265). -/
inductive Phase where
  | waiting | issued | running | suspended | ended
  deriving DecidableEq, Repr

/-- A fetched descriptor whose record is not yet written. `pos` is the value of HEAD that fetched it; `prog` is progress,
`arg` and `blob` what its unit keeps for it, `claim` the pages of the quota that a MAP has claimed and not yet used (R278), `endAt` its
place in the order in which descriptors completed, `signalled` that its signal has been applied (R262, R265). The ring of one whose
record is discarded is 8,192. -/
structure Desc where
  id : Nat
  ring : Nat
  pol : Nat
  pos : Nat
  raw : List Byte
  phase : Phase := .waiting
  cancelled : Bool := false
  stopping : Bool := false
  status : Nat := 0
  detail : Nat := 0
  done : Nat := 0
  prog : Nat := 0
  arg : Nat := 0
  blob : List Byte := []
  claim : Nat := 0
  signalled : Bool := false
  endAt : Nat := 0
  deriving DecidableEq, Repr

/-- A granted fetch read that has not returned (R254). -/
structure Fetch where
  ring : Nat
  pos : Nat
  n : Nat
  deriving DecidableEq, Repr

/-- A cancel that waits for its target's fetch (R267). -/
structure PendCancel where
  ring : Nat
  pos : Nat
  user : Nat
  by_ : Nat
  deriving DecidableEq, Repr

/-! Memory management (spec/13). -/

/-- A fault outstanding: its record and its requester (R281). `slot` none: it waits for a slot (R282). -/
structure FaultRec where
  pol : Nat
  slot : Option Nat
  id : Nat
  reason : Nat
  access : Nat
  requester : Nat
  va : Nat
  ring : Nat
  desc : Option Nat
  dslot : Nat := 0
  done : Nat
  deriving DecidableEq, Repr

/-- A locked translation of an embanked page (R279); `moved` are its 4 KiB parts whose frames were retired, with the frames they moved
to (R285). -/
structure Locked where
  pol : Nat
  va : Nat
  size : Nat
  target : Nat
  addr : Nat
  rd : Bool
  wr : Bool
  moved : List (Nat × Nat) := []
  deriving DecidableEq, Repr

/-- An access of another package to an embanked page of host memory, which waits while the port issues no request (R229, R275). -/
structure Served where
  rank : Nat
  tag : Nat
  pol : Nat
  va : Nat
  len : Nat
  wr : Option (List Byte) := none
  deriving DecidableEq, Repr

/-- An access to a page of another package that waits for its answer, or has it (R275): whose it is, what it asks for, and the
local page it stands behind. -/
structure Rem where
  tag : Nat
  desc : Option Nat
  ring : Nat
  requester : Nat
  access : Nat
  pol : Nat
  rank : Nat
  va : Nat
  len : Nat
  wr : Option (List Byte) := none
  lva : Nat
  got : List Byte := []
  ans : Option (List Byte) := none
  deriving DecidableEq, Repr

/-- A remote add that is not yet acknowledged (R297): who sent it. -/
structure RAdd where
  tag : Nat
  pol : Nat
  obj : Nat
  val : Word
  rank : Nat
  desc : Option Nat := none
  tileOp : Option (Nat × Nat) := none
  deriving DecidableEq, Repr

/-! Events (spec/14). -/

/-- What an event source holds beside its pending, active and mask bits (R302): the count and DETAIL of the pending event, and an edge
in the input latch with its own DETAIL (R308, R309). -/
structure Src where
  coalesced : Nat := 0
  detail : BitVec 128 := 0
  latch : Bool := false
  held : BitVec 128 := 0
  deriving DecidableEq, Repr

/-- One event target beside its registers (R306, R310). -/
structure Tgt where
  stack : List (Nat × Nat) := []
  active : List Nat := []
  deriving DecidableEq, Repr

/-! Power, calibration, flash, backup (spec/15, 16). -/

/-- The calibration held for one unit: how many have been made, the hours since the last, whether it passed (R326, R332). -/
structure CalUnit where
  gen : Nat := 0
  ageH : Nat := 0
  pass : Bool := false
  fail : Bool := false
  deriving DecidableEq, Repr

/-- A request queued on a domain (R319): on or off, and its descriptor. -/
structure DomReq where
  on : Bool
  desc : Nat
  deriving DecidableEq, Repr

/-- What the sequencer keeps for a domain beside PWR_DOMAIN: the descriptors that wait for its present sequence or for the bring-up
of its units, and the queued request. -/
structure Dom where
  desc : List Nat := []
  queued : Option DomReq := none
  bringup : Bool := false
  deriving DecidableEq, Repr

/-- The board-management and test ports and the package's outputs (spec/18). -/
structure Pins where
  thermTrip : Bool := false
  wake : Bool := false
  ppsOut : Bool := false
  lastPps : Option Nat := none
  resetN : Bool := true
  refclk : Bool := true
  ir : BitVec 8 := 0xFF
  boundary : BitVec 56 := 0
  smbShadow : List (List Byte) := []
  smbOut : List Byte := []
  deriving DecidableEq, Repr

/-- Flash and fuses (R348–R358): the two slots, the settings copies, the boot record. -/
structure Flash where
  slots : Mem := []
  setA : List Byte := []
  setB : List Byte := []
  digest : List Byte := []
  keyHash : List (List Byte) := []
  revertNext : Bool := false
  deriving DecidableEq, Repr

/-- A counter of spec/17: VALUE, OVF, REPROG, and whether it wrapped since the last snapshot. -/
structure Ctr where
  value : Nat := 0
  ovf : Nat := 0
  reprog : Bool := false
  deriving DecidableEq, Repr

/-- The state of the package. -/
structure State where
  /-- The commands that are waiting, first in, first out. -/
  pending : List Instr := []
  /-- The variant of the part (R234). -/
  part : Variant := .lhn1A
  /-- The Device Serial Number (R229). -/
  serial : Word := 0
  /-- The register file: every register by its key; an unlisted register reads as its reset value. -/
  regs : SMap Word := []
  /-- What the last register read returned to the host. -/
  readData : Word := 0
  /-- What the last BAR2 read returned, and whether it came back poisoned (R232, R284). -/
  readBytes : List Byte := []
  readPoison : Bool := false
  /-- The model's own counter of free values drawn (log 3, DESIGN CHOICE). -/
  free : Nat := 0
  tiles : SMap Tile := []
  /-- Package tile store, by the addresses of R55, and its words with bit errors: 1 correctable, 2 not, 3 not and counted by
  the scrubber (R26, R28). -/
  tstore : Mem := []
  tsErr : SMap Nat := []
  /-- Instruction store, by tile × 32,768 + index, and its words with bit errors. -/
  istore : SMap Word := []
  isErr : SMap Nat := []
  /-- The words that each tile's scrubber has passed since the last pass over all tiles was complete (R28). -/
  scrubbed : SMap Nat := []
  /-- Where the port arbiter of each cluster looks first: the tile of the cluster after the last winner (R25). -/
  portPtr : SMap Nat := []
  /-- Latched copies of the step registers (R42) and of HZE_AUDIT_SUMSQ and MMU_QUOTA_B (R141, R291). -/
  fbdMinStep : Nat := 0
  fbdLastStep : Nat := 0
  quotaB : SMap Word := []
  hz : SMap HzEng := []
  sched : Sched := {}
  engines : SMap Engine := []
  /-- Result streams by engine × 192 + tile: each byte, and whether its row was lost (R104, R121). -/
  streams : SMap (List (Byte × Bool)) := []
  cache : SMap CLine := []
  cacheMiss : Nat := 0
  links : SMap Link := []
  /-- Lane attempts at training (R154) and queued EN_REQ writes (R152). -/
  laneTries : SMap Nat := []
  laneQueue : SMap Nat := []
  plan : Plan := {}
  recable : Option Recable := none
  /-- Scheduled channel data received and not yet taken, by channel: for each slot it fills, the link it came by plus one
  (0: this package) and its bytes (R65, R158). -/
  chanRx : SMap (List (Nat × List Byte)) := []
  /-- Transmit exits at the reduced level (R165). -/
  aprExits : List Nat := []
  /-- Floods seen (R179), the next flood sequence, and the links of other packages known to be down: the rank that says so, its link
  number and the rank at the far end (R176). -/
  seen : List (Nat × Nat) := []
  floodSeq : Nat := 0
  netDown : List (Nat × Nat × Nat) := []
  /-- Trailer sequences (R178): the next to send by destination × 4 + channel, the next to deliver by source × 4 + channel,
  and what waits for an earlier one: the link it came by and the flit. -/
  trailTx : SMap Nat := []
  trailRx : SMap Nat := []
  trailHeld : List (Nat × Nat × Pkt) := []
  loops : SMap Loop := []
  scu : Scu := {}
  bases : SMap Base := []
  /-- XD core clock periods counted; the part of a machine tick they leave over, and the slew owed to the tick count
  (R222), both in 1/4,000,000 of a tick. -/
  clk : Nat := 0
  tickFrac : Nat := 0
  slew : Int := 0
  joined : Bool := false
  /-- The backup-domain counter: 2^-15 s units, and the part of one the clock has left over (R225). -/
  bkCount : Nat := 0
  bkFrac : Nat := 0
  /-- Host memory by port × 2^64 + bus address (R229). -/
  host : Mem := []
  /-- HBM by device-physical address, its poisoned 64-byte units (1 poisoned, 2 poisoned again after a whole write), the
  time (h) each was last wholly written after poison (R284, R285). -/
  hbm : Mem := []
  poison : SMap Nat := []
  cleared : SMap Nat := []
  /-- Units of HBM with wrong symbols that no read has met yet: how many in the worse of the unit's two words of 32 bytes (R284). -/
  hbmErr : SMap Nat := []
  /-- Frame-ownership table: 4 KiB frame → polder + 1; the number of mappings of each frame (R274, R278). -/
  frames : SMap Nat := []
  refs : SMap Nat := []
  retired : List Nat := []
  /-- Hard frames whose retirement waits until the tables of their polder can be written (R229, R285). -/
  retireDue : List Nat := []
  /-- Table pages taken from HBM, by polder, the level-1 table first (R274, LOC = 1). -/
  ptPages : SMap (List Nat) := []
  /-- Locked translations of embanked pages (R279). -/
  locked : List Locked := []
  faults : List FaultRec := []
  faultSeq : SMap Nat := []
  busMaster : List Bool := [false, false, false, false]
  portUp : List Bool := [false, false, false, false]
  inReset : List Bool := [false, false, false, false]
  /-- Polders to whose port nothing more is written (R237). -/
  mute : List Bool := List.replicate 8 false
  /-- Of a closing polder whose context has been dropped: the bytes of its HBM that are still to zero, plus one (R237). -/
  zeroLeft : SMap Nat := []
  /-- MSI-X table and pending-bit array of each port: port × 4,096 + offset (R231), and the vectors raised. -/
  msix : Mem := []
  msixOut : List (Nat × Nat) := []
  descs : List Desc := []
  nextDesc : Nat := 0
  nextEnd : Nat := 0
  fetches : List Fetch := []
  cancels : List PendCancel := []
  /-- Rotation pointers of the ring engine, as polder × 8,192 + ring (R254), of the copy engine by priority: the next ring for a start at
  the priority, the next descriptor for a piece at 4 + the priority (R255), and of the event controller (R304). -/
  ringPtr : Nat := 0
  copyPtr : SMap Nat := []
  evPol : Nat := 0
  evTgt : SMap Nat := []
  sync : SMap Word := []
  adds : List RAdd := []
  remotes : List Rem := []
  served : List Served := []
  nextAdd : Nat := 0
  /-- Watches that are met (polder × 128 + watch). -/
  watchMet : SMap Bool := []
  srcs : SMap Src := []
  tgts : SMap Tgt := []
  doms : SMap Dom := []
  /-- Rails in range, in the order of R371 (VDD_TILE first). -/
  rails : List Bool := [true, true, true, true, true, true, true]
  /-- The weir: time over at the floor in 10 µs units, what was over, power and temperature last measured. -/
  overT : Nat := 0
  overWhy : BitVec 3 := 0
  tj : Nat := 0
  /-- The start under way: the time spent, the units of a calibration file supplied, and whether its wait for one has expired, so that it
  calibrates in full (R327). -/
  startMs : Nat := 0
  calFile : Option Nat := none
  calFull : Bool := false
  /-- The calibration held by unit, in the order of CFG_CAL. -/
  cal : SMap CalUnit := []
  settings : List Byte := []
  flash : Flash := {}
  /-- Laser safety (R342): the channels that have been unsafe since the discrepancy latched (1 A, 2 B), and when, in core clock
  periods, the present disagreement began. -/
  laserWent : Nat := 0
  discSince : Option Nat := none
  ctrs : SMap Ctr := []
  wrapped : Bool := false
  tmuxStep : Nat := 0
  pins : Pins := {}
  /-- Warden-core order (R266): administrator descriptors taken and not yet ended. -/
  warden : List Nat := []
  /-- Register writes held during a management pause (R353). -/
  heldWrites : List Held := []
  /-- Main power is on; the backup domain has power (R344, R345). -/
  mainPower : Bool := true
  vbat : Bool := true
  /-- The backup domain has kept its content since the last power-up (R344). -/
  bkKept : Bool := false
  deriving DecidableEq, Repr

/-- Why the machine can stop with a fault. -/
inductive Fault where
  /-- Beyond the absolute ratings of R373 no rule of the manual holds. Safe: the machine stops. Raised by no command of the
  table; it is here so that a claim can name it. -/
  | beyondRatings
  deriving DecidableEq, Repr

/-- Why a command can be refused. -/
inductive Refusal where
  /-- The command has no meaning in the model yet. Safe. Raised by the dispatch alone. -/
  | notModelled (mnemonic : String)
  deriving DecidableEq, Repr

/-- The package right after reset: main power is on, only D00 runs, no start has begun (R324, R325), nothing is in any
queue. Every register reads as the reset value of its field table. -/
def State.reset : State := {}

end Sys2Proof.Machine
end

