-- ==== Sys2Proof/Machine/Ops.lean ====
section
/-! DEFINITION. The named operations over the state: registers by field, the parts of the package by number, and the
event controller's edges (R302). -/

namespace Sys2Proof.Machine

/-- The outcome of a command. -/
abbrev Out := Host.Outcome State Fault Refusal

/-! Registers. -/

/-- The key of register `r` with indices `i` and `j` in the register file. -/
def RegName.key (r : RegName) (i j : Nat) : Nat := r.ctorIdx * 4294967296 + i % 65536 * 65536 + j % 65536

/-- One for true. -/
def b2n (b : Bool) : Nat := if b then 1 else 0

/-- The type of a control loop (R186): 0 lane switch, 1 bias heater, 2 temperature. -/
def loopType (i : Nat) : Nat := if i < 512 then 0 else if i < 776 then 1 else 2

/-- The value of a register whose fields all stand at the reset column of their table. -/
def RegName.tableReset (r : RegName) : Nat := (r.fields.map (fun f => f.rst * 2 ^ f.lo)).sum

/-- The sum of 2^i over the numbers below `n` that satisfy `f`. -/
def bitSet (n : Nat) (f : Nat → Bool) : Nat := ((List.range n).map (fun i => if f i then 2 ^ i else 0)).sum

/-- The value a register reads before anything has written it: the reset column of its table, with the entries that depend
on the index (R187, R209, R247) or on the part (R12, R13, R234, R316). The settings defaults of R338 stand in the fields
that start from settings. -/
def resetNat (p : Variant) (r : RegName) (i j : Nat) : Nat :=
  match r with
  | .SCU_RAMP => if j = 1 then 32768 + 7 * 65536 else 0
  | .SCU_LOOP_CTRL => if i < 512 then 12 else 0
  | .SCU_LOOP_COEF =>
    200 * 2 ^ 48 + (match loopType i with
      | 0 => 256 + 32 * 65536 + 50 * 2 ^ 32
      | 1 => 128 + 16 * 65536 + 100 * 2 ^ 32
      | _ => 512 + 8 * 65536 + 50 * 2 ^ 32)
  | .RNG_PLD_CFG => if i = 0 then 0 else 1
  | .GLB_ID => r.tableReset + p.code * 2 ^ 32
  | .GLB_CAP_UNIT => (if p.hz then 3 else 0) + (2 ^ p.engines - 1) * 4 + (2 ^ p.stackCount - 1) * 64
  | .GLB_CAP_DOMAIN => bitSet 36 p.hasDomain
  | .GLB_CAP_SIZE => 192 + 64 * p.engines * 512 + p.loops * 2 ^ 18 + p.hbmGib * 2 ^ 28
  | .GLB_CAP_LOOP => bitSet 64 (fun b => p.hasLoop (64 * i + b))
  | .PWR_WEIR => 800 + p.envelope * 65536 + 105 * 2 ^ 32 + 800 * 2 ^ 40
  | .PWR_IDLE => 100
  | .FWU_STATUS => 768
  | .PWR_LASER => 3 + 20 * 256
  | .PWR_DOMAIN => (if i = 0 then 3 else b2n (p.hasDomain i)) + p.demand i * 256
  | r => r.tableReset

/-- The register `r[i][j]`. -/
def State.reg (s : State) (r : RegName) (i j : Nat) : Word :=
  SMap.get (BitVec.ofNat 64 (resetNat s.part r i j)) s.regs (r.key i j)

/-- The register `r[i][j]` replaced whole. -/
def State.setReg (s : State) (r : RegName) (i j : Nat) (v : Word) : State :=
  { s with regs := SMap.set (BitVec.ofNat 64 (resetNat s.part r i j)) s.regs (r.key i j) v }

/-- A field of a register. -/
def State.get (s : State) (f : Fld) (i j : Nat := 0) : Nat := bitsOf (s.reg f.reg i j).toNat f.lo f.w

/-- A number with its field [lo, lo + w) replaced. -/
def setBits (x lo w v : Nat) : Nat := x % 2 ^ lo + (v % 2 ^ w) * 2 ^ lo + x / 2 ^ (lo + w) * 2 ^ (lo + w)

/-- A field of a register replaced. -/
def State.put (s : State) (f : Fld) (v : Nat) (i j : Nat := 0) : State :=
  s.setReg f.reg i j (BitVec.ofNat 64 (setBits (s.reg f.reg i j).toNat f.lo f.w v))

/-- The number a counter field stops at. -/
def Fld.stop (f : Fld) : Nat :=
  match f.clamp with
  | .stops m => m
  | _ => 2 ^ f.w - 1

/-- A counter field grown by `n`, stopping at its maximum (R10, the ROL entry of the conventions). -/
def State.bump (s : State) (f : Fld) (i j : Nat := 0) (n : Nat := 1) : State :=
  s.put f (min f.stop (s.get f i j + n)) i j

/-- A one-bit field read as a truth value. -/
def State.bit (s : State) (f : Fld) (i j : Nat := 0) : Bool := s.get f i j == 1

/-! Parts of the package by number. -/

def State.tile (s : State) (t : Nat) : Tile := SMap.get {} s.tiles t
def State.setTile (s : State) (t : Nat) (x : Tile) : State := { s with tiles := SMap.set {} s.tiles t x }
def State.hzEng (s : State) (e : Nat) : HzEng := SMap.get {} s.hz e
def State.setHz (s : State) (e : Nat) (x : HzEng) : State := { s with hz := SMap.set {} s.hz e x }
def State.engine (s : State) (n : Nat) : Engine := SMap.get {} s.engines n
def State.setEngine (s : State) (n : Nat) (x : Engine) : State := { s with engines := SMap.set {} s.engines n x }
def State.link (s : State) (k : Nat) : Link := SMap.get {} s.links k
def State.setLink (s : State) (k : Nat) (x : Link) : State := { s with links := SMap.set {} s.links k x }
def State.loop (s : State) (i : Nat) : Loop := SMap.get {} s.loops i
def State.setLoop (s : State) (i : Nat) (x : Loop) : State := { s with loops := SMap.set {} s.loops i x }
def State.base (s : State) (n : Nat) : Base := SMap.get {} s.bases n
def State.setBase (s : State) (n : Nat) (x : Base) : State := { s with bases := SMap.set {} s.bases n x }
def State.src (s : State) (n : Nat) : Src := SMap.get {} s.srcs n
def State.setSrc (s : State) (n : Nat) (x : Src) : State := { s with srcs := SMap.set {} s.srcs n x }
def State.tgt (s : State) (p j : Nat) : Tgt := SMap.get {} s.tgts (p * 16 + j)
def State.setTgt (s : State) (p j : Nat) (x : Tgt) : State := { s with tgts := SMap.set {} s.tgts (p * 16 + j) x }
def State.dom (s : State) (d : Nat) : Dom := SMap.get {} s.doms d
def State.setDom (s : State) (d : Nat) (x : Dom) : State := { s with doms := SMap.set {} s.doms d x }
def State.ctr (s : State) (c : Nat) : Ctr := SMap.get {} s.ctrs c
def State.setCtr (s : State) (c : Nat) (x : Ctr) : State := { s with ctrs := SMap.set {} s.ctrs c x }
def State.calUnit (s : State) (u : Nat) : CalUnit := SMap.get {} s.cal u
def State.setCalUnit (s : State) (u : Nat) (x : CalUnit) : State := { s with cal := SMap.set {} s.cal u x }

/-- The descriptor with serial number `d`. -/
def State.desc (s : State) (d : Nat) : Option Desc := s.descs.find? (fun x => x.id == d)
/-- The descriptor with serial number `d` changed. -/
def State.onDesc (s : State) (d : Nat) (g : Desc → Desc) : State :=
  { s with descs := s.descs.map (fun x => if x.id = d then g x else x) }

/-- A number not fixed by the manual, and the counter moved on (log 3, DESIGN CHOICE). -/
def State.draw (s : State) : Word × State := (Config.freeWord s.free, { s with free := s.free + 1 })
/-- `n` bytes the manual does not fix. -/
def State.drawBytes (s : State) (n : Nat) : List Byte × State :=
  ((List.range n).map (Config.freeByte s.free), { s with free := s.free + 1 })

/-- A fold of an operation over a list, from the left. -/
def State.each {α : Type} (s : State) (xs : List α) (g : State → α → State) : State := xs.foldl g s

/-- The operation where the condition holds. -/
def State.when (s : State) (c : Bool) (g : State → State) : State := if c then g s else s

/-! Polders (R235, R237). -/

/-- Polder states of GLB_PLD_STAT.STATE. -/
def State.polderSt (s : State) (n : Nat) : Nat := s.get GLB_PLD_STAT.STATE n
/-- The polder is OPEN. -/
def State.isOpen (s : State) (n : Nat) : Bool := s.polderSt n == 2
/-- Polder `n` is bound to port `p`. -/
def State.bound (s : State) (n p : Nat) : Bool := s.get GLB_PORT.POLDERS p / 2 ^ n % 2 == 1
/-- The port a polder is bound to. -/
def State.portOf (s : State) (n : Nat) : Nat := ((List.range 4).find? (fun p => s.bound n p)).getD 0
/-- The polder is OPEN and bound to the port. -/
def State.openOn (s : State) (n p : Nat) : Bool := s.isOpen n && s.bound n p
/-- A write of the global block through port `p` acts as one of polder 0 (R231). -/
def State.adminPort (s : State) (p : Nat) : Bool := s.openOn 0 p
/-- The rings of a polder (R245): the first, and how many. -/
def State.ringsOf (s : State) (n : Nat) : Nat × Nat :=
  (64 * s.get GLB_PLD_STAT.RING_BASE n, 64 * s.get GLB_PLD_STAT.RING_PAGES n)
/-- The sync objects of a polder: the first, and how many. -/
def State.objsOf (s : State) (n : Nat) : Nat × Nat :=
  (64 * s.get GLB_PLD_STAT.SYNC_BASE n, 64 * s.get GLB_PLD_STAT.SYNC_BLOCKS n)
/-- The polder owns the ring. -/
def State.ownsRing (s : State) (n r : Nat) : Bool :=
  decide ((s.ringsOf n).1 ≤ r) && decide (r < (s.ringsOf n).1 + (s.ringsOf n).2)
/-- The polder owns the sync object (R292). -/
def State.ownsObj (s : State) (n o : Nat) : Bool :=
  decide ((s.objsOf n).1 ≤ o) && decide (o < (s.objsOf n).1 + (s.objsOf n).2)
/-- The polder whose grant holds the ring, if one does. -/
def State.ringOwner (s : State) (r : Nat) : Option Nat := (List.range 8).find? (fun n => s.ownsRing n r)
/-- An access through port `p` is dropped (R231). -/
def State.drop (s : State) (p : Nat) : State := s.bump GLB_PORT.DROPPED p

/-! Stamps (R213, R221). -/

/-- The base a polder's stamps come from: the lowest-numbered it owns, else TB0. -/
def State.stampBase (s : State) (pol : Nat) : Nat :=
  if pol = 0 then 0
  else ((List.range 8).find? (fun n => decide (0 < n) && s.get TIM_TB_CFG.OWNER n == pol)).getD 0
/-- (SEC × 10^9 + NS) mod 2^32 of base `n` (R221). -/
def State.shortStamp (s : State) (n : Nat) : Nat := (s.base n).t / 65536 % 4294967296

/-! Host memory and interrupts. -/

/-- Host memory of a port at a bus address. -/
def hostKey (port a : Nat) : Nat := port * 2 ^ 64 + a % 2 ^ 64
def State.hostRead (s : State) (port a n : Nat) : List Byte := s.host.read (hostKey port a) n
def State.hostWrite (s : State) (port a : Nat) (bs : List Byte) : State :=
  { s with host := s.host.write (hostKey port a) bs }

/-- The key of an entry of the MSI-X table or pending-bit array of a port. The vector-control words are kept inverted, so
that a vector nothing has written is masked (log 16, PRESUMED). -/
def msixKey (p off : Nat) : Nat := p * 4096 + off
/-- The vector is masked in the port's table. -/
def State.msixMasked (s : State) (p v : Nat) : Bool := (s.msix.byte (msixKey p (16 * v + 12))).toNat % 2 == 0
/-- MSI-X vector `v` of port `p` is raised, or left pending where the table masks it or the port issues no request (R229,
R233). -/
def State.raiseMsix (s : State) (p v : Nat) : State :=
  if s.msixMasked p v || !s.busMaster.getD p false then
    let k := msixKey p (2048 + v / 8)
    { s with msix := SMap.set 0 s.msix k (BitVec.ofNat 8 (setBits (s.msix.byte k).toNat (v % 8) 1 1)) }
  else { s with msixOut := s.msixOut ++ [(p, v)] }

/-- Pending vectors of a port that nothing masks any more are raised; one of a polder that is not bound to the port never is (R233). -/
def State.sendPending (s : State) (p v : Nat) : State :=
  let k := msixKey p (2048 + v / 8)
  if (s.msix.byte k).toNat / 2 ^ (v % 8) % 2 = 1 ∧ s.msixMasked p v = false ∧ s.busMaster.getD p false = true ∧
      s.bound (v / 16) p = true then
    { s with msix := SMap.set 0 s.msix k (BitVec.ofNat 8 (setBits (s.msix.byte k).toNat (v % 8) 1 0)),
             msixOut := s.msixOut ++ [(p, v)] }
  else s

/-! Events (R301, R302, R308, R309). -/

/-- A DETAIL from its fields, each a bit position and a value. -/
def detail (fs : List (Nat × Nat)) : BitVec 128 := BitVec.ofNat 128 ((fs.map (fun f => f.2 * 2 ^ f.1)).sum)

/-- A pending, active or mask bit of a source. -/
def State.srcBit (s : State) (f : Fld) (src : Nat) : Bool := s.get f (src / 512) (src % 512 / 64) / 2 ^ (src % 64) % 2 == 1
def State.setSrcBit (s : State) (f : Fld) (src : Nat) (b : Bool) : State :=
  s.put f (setBits (s.get f (src / 512) (src % 512 / 64)) (src % 64) 1 (b2n b)) (src / 512) (src % 512 / 64)

/-- An edge enters the pending bits: it sets the bit, or merges into it and grows the coalesced count (R302). -/
def State.pendEdge (s : State) (src : Nat) (d : BitVec 128) : State :=
  if s.srcBit EVC_PEND.PEND src then
    s.setSrc src { s.src src with coalesced := min 65535 ((s.src src).coalesced + 1), detail := d }
  else (s.setSrcBit EVC_PEND.PEND src true).setSrc src { s.src src with coalesced := 0, detail := d }

/-- A source rises. The edge stays in its input latch while the polder holds its edges (R308), while the XD core clock is
stopped (R309), and, in polder 0's range, until a start has opened polder 0 (R236); it enters the pending bits otherwise. -/
def State.raise (s : State) (src : Nat) (d : BitVec 128) : State :=
  if s.bit EVC_CTRL.HOLD (src / 512) || s.bit PWR_IDLE.IDLE ||
      (decide (src < 512) && decide (s.get PWR_START.PHASE < 3)) then
    s.setSrc src { s.src src with latch := true, held := d }
  else s.pendEdge src d

/-- The latched edges of the sources below `hi` from `lo` on enter the pending bits in ascending source number, each with its own DETAIL
(R308, R309). -/
def State.unlatch (s : State) (lo hi : Nat) : State :=
  s.each ((s.srcs.filter (fun p => decide (lo ≤ p.1) && decide (p.1 < hi) && p.2.latch)).map (·.1)) (fun s src =>
    (s.setSrc src { s.src src with latch := false, held := 0 }).pendEdge src (s.src src).held)

/-- The XD core clock runs again where it was stopped: latched edges enter the pending bits, but for those of a polder that holds its
edges (R308, R309, R323). -/
def State.wakeXd (s : State) : State :=
  if !s.bit PWR_IDLE.IDLE then s
  else (s.put PWR_IDLE.IDLE 0).each ((List.range 8).filter (fun n => !s.bit EVC_CTRL.HOLD n)) (fun s n =>
    s.unlatch (512 * n) (512 * n + 512))

/-- An event of polder 0's range. -/
def State.raise0 (s : State) (i : Nat) (d : BitVec 128 := 0) : State := s.raise i d

/-- A schedule event: in the range of the resident schedule's owner, and in polder 0's as well (R301). -/
def State.raiseSched (s : State) (i : Nat) (d : BitVec 128) : State :=
  match s.sched.image with
  | none => s.raise i d
  | some im => (s.raise (512 * im.owner + i) d).when (im.owner != 0) (fun s => s.raise i d)

/-! Sync objects and watches (R293, R300). -/

/-- The value of a sync object. -/
def State.obj (s : State) (o : Nat) : Word := SMap.get 0 s.sync o

/-- Watch `w` of polder `n` is met. -/
def State.watchHolds (s : State) (n w : Nat) : Bool :=
  let o := s.get SYN_WATCH.OBJ n w
  s.bit SYN_WATCH.EN n w && s.ownsObj n o && decide (s.get SYN_THRESH.THRESHOLD n w ≤ (s.obj o).toNat)

/-- Watch `w` of polder `n` is evaluated: a change from not met to met raises its source (R300). Nothing is evaluated
during a restore. -/
def State.evalWatch (s : State) (n w : Nat) : State :=
  if s.bit SYN_STAT.RESTORING n then s
  else
    let k := n * 128 + w
    let was := SMap.get false s.watchMet k
    let now := s.watchHolds n w
    let o := s.get SYN_WATCH.OBJ n w
    ({ s with watchMet := SMap.set false s.watchMet k now }).when (now && !was) (fun s =>
      s.raise (512 * n + 64 + w) (detail [(0, o), (64, (s.obj o).toNat)]))

/-- The watches of polder `n` that may change state: those on object `o` that are enabled. -/
def State.watchesOn (s : State) (n o : Nat) : List Nat :=
  (List.range 128).filter (fun w => s.bit SYN_WATCH.EN n w && s.get SYN_WATCH.OBJ n w == o)

/-- A sync object takes a value in one atomic step, and every watch on it is evaluated (R293, R300). -/
def State.setObj (s : State) (o : Nat) (v : Word) : State :=
  ({ s with sync := SMap.set 0 s.sync o v }).each (List.range 8) (fun s n =>
    s.each (if s.isOpen n then s.watchesOn n o else []) (fun s w => s.evalWatch n w))

/-- An add wraps modulo 2^64 (R293). -/
def State.addObj (s : State) (o : Nat) (v : Word) : State := s.setObj o (s.obj o + v)

end Sys2Proof.Machine
end

