-- ==== Sys2Proof/Machine/Window.lean ====
section
/-! DEFINITION. The register window of a port (R230, R231): where an address leads, what a read returns, what a write may
change, and the fields that show what stands behind the registers. -/

namespace Sys2Proof.Machine

/-- What an access at a BAR0 address reaches. -/
inductive WinTarget where
  | reg (r : RegName) (i j : Nat) (pol : Nat) (copy : Bool)
  | msix (off : Nat)
  | sluice (page : Nat)
  /-- Growth and reserved space: reads zero, ignores writes. -/
  | empty
  /-- Not served through this port (R231). -/
  | dropped
  deriving DecidableEq, Repr

/-- The indices with which a register stands at an offset of its block. -/
def Place.at (p : Place) (off : Nat) : Option (Nat × Nat) :=
  if off < p.base then none
  else
    let d := off - p.base
    if p.s2 = 0 then
      if p.s1 = 0 then (if d = 0 then some (0, 0) else none)
      else if d % p.s1 = 0 ∧ d / p.s1 < p.n1 then some (d / p.s1, 0) else none
    else if d % p.s1 % p.s2 = 0 ∧ d / p.s1 < p.n1 ∧ d % p.s1 / p.s2 < p.n2 then some (d / p.s1, d % p.s1 / p.s2) else none

/-- The register of a scope that stands at an offset. -/
def findReg (sc : Scope) (off : Nat) : Option (RegName × Nat × Nat) :=
  RegName.all.findSome? (fun r =>
    if r.place.scope = sc then (r.place.at off).map (fun ij => (r, ij.1, ij.2)) else none)

/-- Gather engine `n` belongs to the polder (R94, R122). -/
def State.ownsEngine (s : State) (pol n : Nat) : Bool := s.get GTH_ASSIGN.OWNER n == pol

/-- The register at an offset of polder `n`'s control block: a register of the polder, of the ring RNG_SEL names (R245), of
an engine it owns (R122), or the copy of a time base it owns (R213). -/
def State.polderTarget (s : State) (n off : Nat) : WinTarget :=
  match findReg .polder off with
  | some (r, i, _) => .reg r n i n false
  | none =>
    match findReg .ring off with
    | some (r, _, _) =>
      if s.ownsRing n (s.get RNG_SEL.RING n) then .reg r (s.get RNG_SEL.RING n) 0 n false else .empty
    | none =>
      match findReg .engine off with
      | some (r, i, _) => if s.ownsEngine n i then .reg r i 0 n false else .empty
      | none =>
        if 0x5000 ≤ off ∧ off < 0x5200 then
          match findReg .glob (0x3f100 + (off - 0x5000)) with
          | some (r, i, j) => if s.get TIM_TB_CFG.OWNER i = n then .reg r i j n true else .empty
          | none => .empty
        else .empty

/-- Where an access through port `p` at a BAR0 address leads (R230, R231); the address is that of its 8-byte word. -/
def State.target (s : State) (p addr : Nat) : WinTarget :=
  let a := addr / 8 * 8
  if 0x2000 ≤ a ∧ a < 0x3000 then .msix (a - 0x2000)
  else if a < 0x100000 then
    match findReg .glob a with
    | some (r, i, j) => .reg r i j 0 false
    | none => .empty
  else if a < 0x180000 then
    let n := (a - 0x100000) / 0x10000
    if s.openOn n p then s.polderTarget n (a % 0x10000) else .dropped
  else if a < 0x200000 then .sluice ((a - 0x180000) / 0x1000)
  else .empty

/-- A register of an absent unit reads zero and ignores writes (R186, R234). -/
def State.absent (s : State) (r : RegName) (i : Nat) : Bool :=
  match r with
  | .SCU_LOOP_CTRL | .SCU_LOOP_COEF | .SCU_LOOP_STAT => !s.part.hasLoop i
  | .SCU_BANK => !s.part.hasLoop (8 * i)
  | .HZE_STATUS | .HZE_SEEP | .HZE_CNT | .HZE_AUDIT_CTRL | .HZE_AUDIT_STAT | .HZE_AUDIT_SUMSQ => !s.part.hz
  | .LSW_LANE => !s.part.hasLane i
  | .LNK_STATE | .LNK_ERR | .LNK_VIOL | .LNK_CREDIT => decide (s.plan.links.length ≤ i)
  | _ => false

/-! Fields that show what stands behind the registers. -/

/-- The conditions of R137 for engine `e`, in the order of its table. -/
def State.hzConds (s : State) (e : Nat) : List Bool :=
  [s.get PWR_DOMAIN.STATE (22 + e) == 3,
   s.bit HZE_STATUS.LASER_OK e,
   (List.range 132).all (fun i =>
     s.get SCU_LOOP_CTRL.MODE (512 + 132 * e + i) == 0 && s.get SCU_LOOP_STAT.STATE (512 + 132 * e + i) == 1),
   (s.calUnit e).pass]

/-- Engine `e` is ready (R137). -/
def State.hzReady (s : State) (e : Nat) : Bool := s.part.hz && (s.hzConds e).all id

/-- A change of an engine from ready, as it was in `s0`, to not ready raises HZ_NOT_READY with the first condition that
failed (R137). -/
def State.noteHz (s0 s : State) : State :=
  s.each [0, 1] (fun s e => s.when (s0.hzReady e && !s.hzReady e) (fun s =>
    s.raiseSched 6 (detail [(0, e), (4, ((s.hzConds e).findIdx (fun b => !b)) + 1)])))

/-- Frames of polder `n`'s quota in use. -/
def State.usedFrames (s : State) (n : Nat) : Nat := (s.frames.filter (fun p => p.2 == n + 1)).length

/-- Pages of polder `n`'s quota that its MAPs have claimed and not yet used (R278). -/
def State.pendingPages (s : State) (n : Nat) : Nat := ((s.descs.filter (fun d => d.pol == n)).map (·.claim)).sum
/-- Free 4 KiB pages of a polder's quota (R278). -/
def State.quotaFree (s : State) (n : Nat) : Nat := s.get GLB_PLD_STAT.HBM_GIB n * 262144 - s.usedFrames n - s.pendingPages n
/-- MMU_QUOTA_B as it stands: PENDING and GRANTED_GIB (R278, R291). -/
def State.quotaBNow (s : State) (n : Nat) : Nat := s.pendingPages n % 2 ^ 32 + s.get GLB_PLD_STAT.HBM_GIB n * 2 ^ 32

/-- Domains in a state of PWR_DOMAIN.STATE hold these tokens (R317). -/
def State.tokensIn (s : State) (sts : List Nat) : Nat :=
  ((List.range 36).map (fun d => if sts.contains (s.get PWR_DOMAIN.STATE d) then s.part.demand d else 0)).sum
def State.tokensTotal (s : State) : Nat := 2 * s.get PWR_WEIR.ENVELOPE_W
def State.tokensHeld (s : State) : Nat := s.tokensIn [3, 4]
def State.tokensPending (s : State) : Nat := s.tokensIn [2]
/-- FREE, which may be negative (R317). -/
def State.tokensFree (s : State) : Int := s.tokensTotal - s.tokensHeld - s.tokensPending

/-- The ways polder `n` receives (R112): polders are served in ascending number from 16 ways. -/
def State.waysOf (s : State) (n : Nat) : Nat :=
  let before := (List.range n).foldl (fun left p => left - min (s.get GTH_CACHE_PART.WAYS p) left) 16
  min (s.get GTH_CACHE_PART.WAYS n) before

/-- Transmit lanes lit and in use. -/
def State.lanesUp (s : State) : Nat := ((List.range 256).filter (fun l => s.get LSW_LANE.STATE l == 3)).length

/-- Descriptors of a ring fetched and not yet completed, and those suspended (R247). -/
def State.ringDescs (s : State) (r : Nat) : List Desc := s.descs.filter (fun d => d.ring == r)

/-- The plan in force has one link, to this package itself: the package is a spare (R169). -/
def State.isSpare (s : State) : Bool :=
  match s.plan.links with
  | [l] => l.peer == s.plan.rank
  | _ => false

/-- What a read of a register returns: its fields, those that show other state taken from there. -/
def State.view (s : State) (r : RegName) (i j : Nat) : Nat :=
  let x := (s.reg r i j).toNat
  let set (f : Fld) (v x : Nat) := setBits x f.lo f.w v
  if s.absent r i then 0
  else match r with
  | .PLD_INFO => i
  | .GLB_PORT => set GLB_PORT.BUSY (b2n ((List.range 8).any (fun n => s.bound n i && s.polderSt n == 3))) x
  | .SYN_VALUE => if s.ownsObj i (s.get SYN_SEL.OBJ i) then (s.obj (s.get SYN_SEL.OBJ i)).toNat else 0
  | .SYN_STAT => set SYN_STAT.INFLIGHT ((s.adds.filter (fun a => a.pol == i)).length) x
  | .EVC_TGT_CFG => set EVC_TGT_CFG.DEPTH ((s.tgt i j).stack.length) x
  | .TIM_TB_SEC => ((s.base i).secLatch.getD ((s.base i).t / 65536 / 1000000000)) % 2 ^ 48
  | .TIM_TB_NS => (s.base i).t / 65536 % 1000000000 + (s.base i).t % 65536 * 2 ^ 32
  | .TIM_TB_STATUS => set TIM_TB_STATUS.FREQ_ADJ (uint 32 (s.base i).freq) x
  | .HZE_STATUS =>
    set HZE_STATUS.READY (b2n (s.hzReady i))
      (set HZE_STATUS.DOMAIN_ON (b2n (s.get PWR_DOMAIN.STATE (22 + i) == 3))
        (set HZE_STATUS.LOOPS_OK (b2n ((s.hzConds i).getD 2 false))
          (set HZE_STATUS.CAL_PASS (b2n (s.calUnit i).pass)
            (set HZE_STATUS.CAL_OLD (b2n (decide (720 < (s.calUnit i).ageH)))
              (set HZE_STATUS.CAL_AGE_H (min 65535 (s.calUnit i).ageH) x)))))
  | .GTH_ASSIGN =>
    set GTH_ASSIGN.BUSY (b2n ((s.engine i).batch.isSome && (!s.bit GTH_ASSIGN.EN i || (s.engine i).queued.isSome)))
      (match (s.engine i).queued with
       | some q => set GTH_ASSIGN.OWNER (bitsOf q.toNat 0 3) (set GTH_ASSIGN.EN (bitsOf q.toNat 3 1) x)
       | none => x)
  | .GTH_CACHE_PART => set GTH_CACHE_PART.EFFECTIVE (s.waysOf i) x
  | .GTH_TRK =>
    set GTH_TRK.FREE (32768 - (s.engine i).trk.length) (set GTH_TRK.HELD (s.engine i).trk.length x)
  | .LSW_STATUS => set LSW_STATUS.LANES_UP s.lanesUp x
  | .LSW_TOPO =>
    let g := s.get LSW_SHAPE.GROUP_SIZE
    let n := s.get LSW_SHAPE.GROUPS
    let c := if s.bit LSW_SHAPE.SHAPE || decide (n ≤ 1) then 0 else (if s.part = .lhn1H then 4 else 8) * g / (n - 1)
    set LSW_TOPO.RANK s.plan.rank (set LSW_TOPO.SPARE (b2n s.isSpare) (set LSW_TOPO.GROUP (s.plan.rank / g)
      (set LSW_TOPO.MEMBER (s.plan.rank % g) (set LSW_TOPO.COPIES c x))))
  | .LNK_CREDIT =>
    set LNK_CREDIT.AVAIL_SCHED (s.link i).avail1 (set LNK_CREDIT.HELD_SCHED (s.link i).held1
      (set LNK_CREDIT.AVAIL_UNSCHED (s.link i).avail2 (set LNK_CREDIT.HELD_UNSCHED (s.link i).held2 x)))
  | .SCU_STATUS =>
    set SCU_STATUS.LOOPS_FAILED (((List.range 782).filter (fun i => decide (5 ≤ s.get SCU_LOOP_STAT.STATE i))).length) <|
    set SCU_STATUS.ACTIVE (b2n (s.scu.holder == some 1)) (set SCU_STATUS.NONE (b2n (s.scu.holder.isNone && s.scu.claimed))
      (set SCU_STATUS.A_HEALTHY (b2n s.scu.healthyA) (set SCU_STATUS.B_HEALTHY (b2n s.scu.healthyB)
        (set SCU_STATUS.STANDBY_READY (b2n s.scu.tracking) x))))
  | .MMU_QUOTA_A =>
    set MMU_QUOTA_A.USED (s.usedFrames i) (set MMU_QUOTA_A.FREE (s.quotaFree i) x)
  | .MMU_QUOTA_B =>
    match s.quotaB.find? (fun p => p.1 == i) with
    | some p => p.2.toNat
    | none => s.quotaBNow i
  | .MMU_STAT =>
    set MMU_STAT.FAULTS_OUT ((s.faults.filter (fun f => f.pol == i)).length)
      (set MMU_STAT.EMBANKED_K (((s.locked.filter (fun l => l.pol == i)).length + 1023) / 1024) x)
  | .RNG_STAT =>
    set RNG_STAT.INFLIGHT ((s.ringDescs i).length)
      (set RNG_STAT.SUSPENDED (((s.ringDescs i).filter (fun d => d.phase == .suspended)).length) x)
  | .PWR_TOKEN =>
    set PWR_TOKEN.TOTAL s.tokensTotal (set PWR_TOKEN.HELD s.tokensHeld (set PWR_TOKEN.PENDING s.tokensPending
      (set PWR_TOKEN.FREE (uint 13 s.tokensFree) x)))
  | .GLB_FBD_LAST_STEP => s.fbdLastStep
  | .GLB_FBD_MIN_STEP => s.fbdMinStep
  | .HZE_AUDIT_SUMSQ => (s.hzEng i).latchSq
  | _ => x

/-! Reads. -/

/-- The fields of a register that a read re-arms (the ROL entry of the conventions). A read of GLB_TILE_FAULT_A also begins the count of
the faults not latched since that read again (R45, R46; log 32, DEDUCED). -/
def State.rearm (s : State) (r : RegName) (i j : Nat) : State :=
  (s.each (r.fields.filter (fun f => f.acc == .rol)) (fun s f => s.put f 0 i j)).when (r == .GLB_TILE_FAULT_A) (fun s =>
    s.put GLB_TILE_FAULT_CNT.COUNT 0)

/-- What a read of one register latches for the next read of another (R42, R141, R227, R291). -/
def State.latchOnRead (s : State) (r : RegName) (i : Nat) : State :=
  match r with
  | .GLB_FBD_LAST => { s with fbdLastStep := s.get GLB_FBD_LAST_STEP.STEP }
  | .GLB_FBD_MIN => { s with fbdMinStep := s.get GLB_FBD_MIN_STEP.STEP }
  | .MMU_QUOTA_A => { s with quotaB := SMap.set 0 s.quotaB i (BitVec.ofNat 64 (s.quotaBNow i)) }
  | .MMU_QUOTA_B => { s with quotaB := SMap.set 0 s.quotaB i 0 }
  | .HZE_AUDIT_STAT => s.setHz i { s.hzEng i with latchSq := s.get HZE_AUDIT_SUMSQ.SUMSQ i }
  | .TIM_TB_NS => s.setBase i { s.base i with secLatch := some ((s.base i).t / 65536 / 1000000000) }
  | .TIM_TB_SEC => s.setBase i { s.base i with secLatch := none }
  | _ => s

/-- What a read of a register returns. -/
def State.readValue (s : State) (r : RegName) (i j : Nat) : Nat := s.view r i j

/-- A host reads the 8 bytes at an address through port `p` (R231): the value goes to the host, latches re-arm. -/
def State.portRead (s : State) (p addr : Nat) : State :=
  match s.target p addr with
  | .reg r i j _ _ =>
    (({ s with readData := BitVec.ofNat 64 (s.readValue r i j) } : State).latchOnRead r i).rearm r i j
  | .msix off =>
    { s with readData := BitVec.ofNat 64 (leNat ((List.range 8).map (fun b =>
        let x := s.msix.byte (msixKey p (off + b))
        if off + b < 2048 && (off + b) % 16 == 12 then x ^^^ 1 else x))) }
  | .sluice _ => { s with readData := 0 }
  | .empty => { s with readData := 0 }
  | .dropped => ({ s with readData := 0 } : State).drop p

/-! Writes. -/

/-- A signed value held in `w` bits brought into [lo, hi]. -/
def clampSigned (w : Nat) (lo hi : Int) (v : Nat) : Nat := uint w (max lo (min hi (sint w v)))

/-- The set-point range of a loop type (R187). -/
def spRange (i : Nat) : Int × Int :=
  match loopType i with
  | 0 => (0, 16000)
  | 1 => (-31416, 31416)
  | _ => (2000, 8000)
/-- The output range of a loop type (R187). -/
def outRange (i : Nat) : Int × Int :=
  match loopType i with
  | 2 => (-15000, 15000)
  | _ => (0, 9000)

/-- A code of DBG_TMUX_SEL.SIGNAL that R368 lists. -/
def tmuxSignal (v : Nat) : Bool :=
  decide (v ≤ 0xC0) || (decide (0x100 ≤ v) && decide (v ≤ 0x111)) || v == 0x120 || v == 0x121 || v == 0x130 || v == 0x131 ||
  (decide (0x140 ≤ v) && decide (v ≤ 0x142)) || v == 0x150 || (decide (0x160 ≤ v) && decide (v ≤ 0x16F)) ||
  v == 0x170 || v == 0x171 || (decide (0x200 ≤ v) && decide (v ≤ 0x27F))

/-- A value brought into [first, first + n). -/
def clampRun (r : Nat × Nat) (v : Nat) : Nat := max r.1 (min (r.1 + r.2 - 1) v)

/-- The clamps that depend on the state or the index (R10 and the "Range and clamp" entries). -/
def State.clampSpecial (s : State) (f : Fld) (i v : Nat) : Nat :=
  match f.reg with
  | .GLB_PLD_CFG =>
    if f.lo = 0 then (if s.bit GLB_PORT.BONDED v then v / 2 * 2 else v)
    else if f.lo = 4 then 1
    else min s.part.hbmGib v
  | .RNG_SEL => clampRun (s.ringsOf i) v
  | .SYN_SEL => clampRun (s.objsOf i) v
  | .RNG_CFG => max (s.get RNG_PLD_CFG.PRIO_MIN ((s.ringOwner i).getD 0)) v
  | .TIM_TB_CFG => if i = 0 then 0 else v
  | .SCU_LOOP_CTRL =>
    if f.lo = 2 then (if 512 ≤ i ∧ v = 3 then 0 else v)
    else if f.lo = 16 then clampSigned 16 (spRange i).1 (spRange i).2 v
    else clampSigned 16 (outRange i).1 (outRange i).2 v
  | .SCU_LOOP_COEF => max 1 (min (match loopType i with | 0 => 1024 | 1 => 512 | _ => 2048) v)
  | .PWR_WEIR => max 300 (min s.part.envelope v)
  | .DBG_TMUX_SEL => if tmuxSignal v then v else 0
  | _ => v

/-- The value a field takes for a written value (R10). -/
def State.clampTo (s : State) (f : Fld) (i v : Nat) : Nat :=
  match f.clamp with
  | .any => v
  | .range lo hi => max lo (min hi v)
  | .above hi d => if hi < v then d else v
  | .stops m => min m v
  | .special => s.clampSpecial f i v

/-- The bits of a byte-enable mask. -/
def beBits (be : BitVec 8) (b : Nat) : Bool := be.toNat / 2 ^ b % 2 == 1

/-- `x` with the enabled bytes of `v` in place of its own. -/
def mergeBytes (x : Nat) (be : BitVec 8) (v : Nat) : Nat :=
  (List.range 8).foldl (fun y b => if beBits be b then setBits y (8 * b) 8 (v / 256 ^ b) else y) x

/-- Some byte of the field is enabled. -/
def Fld.touched (f : Fld) (be : BitVec 8) : Bool :=
  (List.range 8).any (fun b => beBits be b && decide (8 * b < f.lo + f.w) && decide (f.lo < 8 * b + 8))

/-- Engine set-up of a polder is frozen while an engine it owns has EN or BUSY (R124). -/
def State.gthBusy (s : State) (n : Nat) : Bool := s.bit GTH_ASSIGN.EN n || (s.engine n).batch.isSome
def State.gthPolderBusy (s : State) (pol : Nat) : Bool :=
  (List.range 16).any (fun n => s.ownsEngine pol n && s.gthBusy n)

/-- The field takes a write now: the fields that a state of their unit freezes do not (R186, R213, R245, R291, R310, R313,
R368). `copy`: the write goes through a polder's copy of a time base. -/
def State.writable (s : State) (f : Fld) (i j : Nat) (copy : Bool) : Bool :=
  !s.absent f.reg i && (match f.reg with
  | .RNG_SQ_BASE | .RNG_CQ_BASE | .RNG_CFG => !(s.bit RNG_CTRL.ENABLED i) && !(s.bit RNG_CTRL.BUSY i)
  | .EVC_TGT_BASE => !(s.bit EVC_TGT_CFG.EN i j)
  | .EVC_TGT_CFG =>
    if f.lo = 1 then !(s.bit EVC_TGT_CFG.EN i j) else if f.lo = 16 then !(s.bit EVC_CTRL.MODE i) else true
  | .MMU_PT_BASE | .MMU_PT_CFG => s.usedFrames i == 0
  | .TIM_TB_CFG => !(copy && f.lo == 0)
  | .DBG_TMUX_SEL => s.bit DBG_TMUX_CTRL.UNLOCKED
  | _ => true)

/-- A target leaves service: every source active at it is completed as by R307, its stack empties, TAIL and HEAD return to 0
(R312, R313). -/
def State.disableTarget (s : State) (pol j : Nat) : State :=
  let act := (s.tgt pol j).active
  let s1 := s.each act (fun s src => s.setSrcBit EVC_ACTIVE.ACTIVE src false)
  let s2 := ((s1.put EVC_TGT_CFG.EN 0 pol j).put EVC_TGT_PTR.TAIL 0 pol j).put EVC_TGT_PTR.HEAD 0 pol j
  (s2.when (s.bit EVC_CTRL.MODE pol) (fun s => s.put EVC_TGT_CFG.RUNPRIO 256 pol j)).setTgt pol j {}

/-- What a write of a whole register changes beside its fields. -/
def State.afterWrite (s0 s : State) (r : RegName) (i j : Nat) : State :=
  match r with
  | .EVC_TGT_CFG => s.when (s0.bit EVC_TGT_CFG.EN i j && !s.bit EVC_TGT_CFG.EN i j) (fun s => s.disableTarget i j)
  | _ => s

/-- The fields of a register take a written value: those software writes, clamped (R10, R11), others untouched (R8). -/
def State.writeReg (s : State) (r : RegName) (i j : Nat) (copy : Bool) (be : BitVec 8) (v : Nat) : State :=
  let x := mergeBytes (s.reg r i j).toNat be v
  s.afterWrite (s.each (r.fields.filter (fun f => f.acc == .rw && f.touched be)) (fun s' f =>
    s'.when (s.writable f i j copy) (fun s' => s'.put f (s'.clampTo f i (bitsOf x f.lo f.w)) i j))) r i j

/-- The register is one of the switch control units (R203, R208). -/
def RegName.isScu : RegName → Bool
  | .SCU_CTRL | .SCU_AIN | .SCU_RAMP | .SCU_LOOP_CTRL | .SCU_LOOP_COEF => true
  | _ => false

/-- The register is served by a management processor, so that a write waits for the end of a management pause (R353). -/
def RegName.isManaged (r : RegName) : Bool :=
  r.isScu || (match r with
  | .LSW_LANE | .LSW_SHAPE | .LNK_STATE | .LNK_VIOL_CFG | .PWR_WEIR | .PWR_IDLE | .PWR_LASER | .PWR_BK_STAT
  | .PWR_BK_ALARM | .PWR_RESET => true
  | _ => false)

/-- A write of a register waits: for the new active unit's first sample, where it lands between a give-up and the grant or behind a
write that did (R203, R208), or for the end of a management pause (R353). -/
def State.holdWrite (s : State) (r : RegName) (i : Held) : Option State :=
  if r.isScu && (s.scu.released || !s.scu.held.isEmpty) then some { s with scu := { s.scu with held := s.scu.held ++ [i] } }
  else if r.isManaged && s.bit FWU_STATUS.PAUSED then some { s with heldWrites := s.heldWrites ++ [i] }
  else none

/-- A write with a row of its own, unless it waits. -/
def State.unlessHeld (s : State) (r : RegName) (i : Held) (g : State → State) : State := (s.holdWrite r i).getD (g s)

/-- The MSI-X table and pending-bit array of port `p` (R231): pending bits are read only. A vector that is unmasked while
its pending bit is set is raised. -/
def State.writeMsix (s : State) (p off : Nat) (be : BitVec 8) (v : Nat) : State :=
  if 2048 ≤ off then s
  else
    let s1 := s.each ((List.range 8).filter (beBits be)) (fun s b =>
      let x := BitVec.ofNat 8 (v / 256 ^ b)
      { s with msix := SMap.set 0 s.msix (msixKey p (off + b)) (if (off + b) % 16 == 12 then x ^^^ 1 else x) })
    s1.sendPending p (off / 16)

/-- A host write of a register through port `p` (R10, R11, R231): global registers for polder 0 only. Every other
operation of the table that is a register write reaches its fields through rows of its own. -/
def State.portWrite (s : State) (p : Fin 4) (addr : Nat) (be : BitVec 8) (v : Word) : State :=
  match s.target p addr with
  | .reg r i j _ copy =>
    if r.place.scope == .glob && !copy && !s.adminPort p then s.drop p
    else
      match s.holdWrite r (.reg p addr be v) with
      | some s' => s'
      | none => s.noteHz (s.writeReg r i j copy be v.toNat)
  | .msix off => s.writeMsix p off be v.toNat
  | .sluice _ => s
  | .empty => if addr < 0x100000 && !s.adminPort p then s.drop p else s
  | .dropped => s.drop p

/-- A write, through port `p`, to a field of the global block that has a row of its own: `g` where polder 0 is OPEN and
bound to the port, dropped elsewhere (R231, R241). -/
def State.adminWrite (s : State) (p : Nat) (g : State → State) : State := if s.adminPort p then g s else s.drop p

/-- A write, through port `p`, to a field of polder `n`'s control block that has a row of its own (R231). -/
def State.polderWrite (s : State) (p n : Nat) (g : State → State) : State := if s.openOn n p then g s else s.drop p

end Sys2Proof.Machine
end

