-- ==== Sys2Proof/Machine/Memory.lean ====
section
/-! DEFINITION. Device memory: the four-level tables (R271–R274), frames and quota (R278), reads and writes at device-virtual
addresses, poison (R284, R285). -/

namespace Sys2Proof.Machine

/-- Why an access did not give its data: a translation fault with its reason (R281), an uncorrectable HBM error at a
device-virtual address, a page of another package that must answer first (R275): its rank, the address there, the length,
the bytes of a write, the local address; or a port that issues no request (R229). -/
inductive MemErr where
  | fault (reason va : Nat)
  | hbm (va pa : Nat)
  | remote (rank rva len : Nat) (wr : Option (List Byte)) (va : Nat)
  | wait
  deriving DecidableEq, Repr

/-- The outcome of an access. -/
abbrev MemRes (α : Type) := Except MemErr α

/-! Table entries (R273). -/

/-- Entry fields. -/
def pteValid (e : Nat) : Bool := e % 2 == 1
def pteLeaf (e : Nat) : Bool := e / 2 % 2 == 1
def pteRead (e : Nat) : Bool := e / 4 % 2 == 1
def pteWrite (e : Nat) : Bool := e / 8 % 2 == 1
def pteEmb (e : Nat) : Bool := e / 16 % 2 == 1
def pteTarget (e : Nat) : Nat := bitsOf e 5 2
def pteFmt (e : Nat) : Nat := bitsOf e 8 4
def pteAddr (e : Nat) : Nat := bitsOf e 12 40 * 4096
def pteRva (e : Nat) : Nat := bitsOf e 12 36 * 4096
def pteRank (e : Nat) : Nat := bitsOf e 48 15

/-- An entry that points to the next table. -/
def mkTable (addr : Nat) : Nat := 1 + 256 + addr / 4096 % 2 ^ 40 * 4096
/-- An entry that maps a page. -/
def mkLeaf (rd wr emb : Bool) (target addr rank : Nat) : Nat :=
  1 + 2 + 4 * b2n rd + 8 * b2n wr + 16 * b2n emb + 32 * target + 256 +
  (if target = 2 then addr / 4096 % 2 ^ 36 * 4096 + rank % 2 ^ 15 * 2 ^ 48 else addr / 4096 % 2 ^ 40 * 4096)

/-- The bytes a page of a leaf at `level` covers (R271). -/
def pageSize (level : Nat) : Nat := 4096 * 512 ^ (4 - level)

/-- The index into a table of `level` (R271). -/
def tableIndex (level va : Nat) : Nat := bitsOf va (12 + 9 * (4 - level)) 9

/-! Frames (R274, R278, R285). -/

/-- Frames of the fitted HBM. -/
def State.frameCount (s : State) : Nat := s.part.hbmGib * 262144

/-- The frame belongs to the polder in the frame-ownership table. -/
def State.ownsFrame (s : State) (pol f : Nat) : Bool := SMap.get 0 s.frames f == pol + 1

/-- The frame is allocated or retired. -/
def State.frameTaken (s : State) (f : Nat) : Bool := SMap.get 0 s.frames f != 0 || s.retired.contains f


/-- The lowest run of `n` free frames aligned to `n`, searched over at most `fuel` places (log 20, DESIGN CHOICE). -/
def State.findRun (s : State) (n : Nat) : Nat → Nat → Option Nat
  | 0, _ => none
  | fuel + 1, f =>
    if s.frameCount < f + n then none
    else if (s.frames.any (fun p => decide (f ≤ p.1) && decide (p.1 < f + n))) ||
      s.retired.any (fun r => decide (f ≤ r) && decide (r < f + n)) then s.findRun n fuel (f + n)
    else some f

/-- The bytes of `n` frames are zeroed, which clears their poison as any write of a whole unit does (R284). -/
def State.zeroRun (s : State) (f n : Nat) : State :=
  let bad := s.poison.filter (fun p => decide (64 * f ≤ p.1) && decide (p.1 < 64 * (f + n)))
  { s with
    hbm := SMap.clear s.hbm (4096 * f) (4096 * (f + n))
    poison := SMap.clear s.poison (64 * f) (64 * (f + n))
    hbmErr := SMap.clear s.hbmErr (64 * f) (64 * (f + n))
    cleared := bad.foldl (fun m p => SMap.set 0 m p.1 (s.clk + 1)) s.cleared }

/-- `n` frames go to the polder, zeroed. -/
def State.takeRun (s : State) (pol f n : Nat) : State :=
  ({ s with
    frames := SMap.setList 0 s.frames f (List.replicate n (pol + 1))
    refs := SMap.setList 0 s.refs f (List.replicate n 0) } : State).zeroRun f n

/-- `n` aligned frames allocated from the polder's quota and zeroed (R275), or none where the quota is short or no aligned
run is free (R278). -/
def State.allocRun (s : State) (pol n : Nat) : Option (Nat × State) :=
  if s.quotaFree pol < n then none
  else (s.findRun n (s.frames.length + s.retired.length + 1) 0).map (fun f => (f, s.takeRun pol f n))

/-- One mapping less of the frames from `f` on; a frame whose last mapping goes returns to the quota (R276, R278). -/
def State.unrefRun (s : State) (f n : Nat) : State :=
  s.each (List.range n) (fun s i =>
    let r := SMap.get 0 s.refs (f + i)
    if r ≤ 1 then { s with refs := SMap.set 0 s.refs (f + i) 0, frames := SMap.set 0 s.frames (f + i) 0 }
    else { s with refs := SMap.set 0 s.refs (f + i) (r - 1) })

/-- One mapping more of the frames from `f` on. -/
def State.refRun (s : State) (f n : Nat) : State :=
  s.each (List.range n) (fun s i => { s with refs := SMap.set 0 s.refs (f + i) (SMap.get 0 s.refs (f + i) + 1) })

/-! Tables. -/

/-- The tables lie in HBM (LOC = 1). -/
def State.ptHbm (s : State) (pol : Nat) : Bool := s.bit MMU_PT_CFG.LOC pol

/-- The address of the level-1 table, in the space of LOC. -/
def State.ptRoot (s : State) (pol : Nat) : Option Nat :=
  if s.get MMU_PT_CFG.USED_PT pol = 0 then none
  else if s.ptHbm pol then ((SMap.get [] s.ptPages pol).head?).map (4096 * ·)
  else some (s.get MMU_PT_BASE.ADDR pol * 4096)

/-- The 8 bytes of a table entry. -/
def State.pte (s : State) (pol a : Nat) : Nat :=
  leNat (if s.ptHbm pol then s.hbm.read a 8 else s.hostRead (s.portOf pol) a 8)

/-- A table entry written. -/
def State.setPte (s : State) (pol a e : Nat) : State :=
  if s.ptHbm pol then { s with hbm := s.hbm.write a (leBytes 8 e) } else s.hostWrite (s.portOf pol) a (leBytes 8 e)

/-- A table page taken for the polder and zeroed: the next page of the area in host memory, or a frame of the quota (R274). -/
def State.newTable (s : State) (pol : Nat) : Option (Nat × State) :=
  let used := s.get MMU_PT_CFG.USED_PT pol
  if s.get MMU_PT_CFG.PAGES pol ≤ used then none
  else if s.ptHbm pol then
    (s.allocRun pol 1).map (fun fs =>
      (4096 * fs.1, ({ fs.2 with ptPages := SMap.set [] fs.2.ptPages pol (SMap.get [] fs.2.ptPages pol ++ [fs.1]) } : State).put
        MMU_PT_CFG.USED_PT (used + 1) pol))
  else
    let a := s.get MMU_PT_BASE.ADDR pol * 4096 + 4096 * used
    let k := hostKey (s.portOf pol) a
    some (a, ({ s with host := SMap.clear s.host k (k + 4096) } : State).put MMU_PT_CFG.USED_PT (used + 1) pol)

/-- Where a walk ends: at an entry that is not valid, at a leaf, or at an entry no walk may use (R273, R274, R284). -/
inductive Walk where
  | hole (level table : Nat)
  | leaf (level entry e : Nat)
  | bad
  deriving DecidableEq, Repr

/-- A 64-byte unit is poisoned (R284). -/
def State.poisoned (s : State) (unit : Nat) : Bool := SMap.get 0 s.poison unit != 0

/-- A read of the unit is uncorrectable: it is poisoned, or has two wrong symbols or more in one word (R284). -/
def State.badUnit (s : State) (unit : Nat) : Bool := s.poisoned unit || decide (2 ≤ SMap.get 0 s.hbmErr unit)

/-- A table page may be read: under LOC = 1 its frame is the polder's and the unit of the entry can be read. -/
def State.tableOk (s : State) (pol a : Nat) : Bool :=
  !s.ptHbm pol || (s.ownsFrame pol (a / 4096) && !s.badUnit (a / 64))

/-- A walk from a table of `level`, over at most `fuel` tables. -/
def State.walkFrom (s : State) (pol va : Nat) : Nat → Nat → Nat → Walk
  | 0, _, _ => .bad
  | fuel + 1, level, table =>
    let a := table + 8 * tableIndex level va
    if !s.tableOk pol a then .bad
    else
      let e := s.pte pol a
      if !pteValid e then .hole level table
      else if pteFmt e ≠ 1 then .bad
      else if pteLeaf e then (if level < 2 then .bad else .leaf level a e)
      else if level = 4 then .bad
      else s.walkFrom pol va fuel (level + 1) (pteAddr e)

/-- The walk of a device-virtual address; bits [63:48] are ignored (R271). -/
def State.walk (s : State) (pol va : Nat) : Walk :=
  match s.ptRoot pol with
  | none => .hole 0 0
  | some r => s.walkFrom pol (va % 2 ^ 48) 4 1 r

/-- A translation in force: its target, the address there, the permissions. -/
structure Xlat where
  target : Nat
  addr : Nat
  rank : Nat
  rd : Bool
  wr : Bool
  emb : Bool
  deriving DecidableEq, Repr

/-- A locked translation of an embanked page that covers the address (R279). -/
def State.lockedAt (s : State) (pol va : Nat) : Option Locked :=
  s.locked.find? (fun l => l.pol == pol && decide (l.va ≤ va) && decide (va < l.va + l.size))

/-- The address at the target of the byte at `off` of an embanked page: parts whose frame was retired lie elsewhere (R285). -/
def Locked.place (l : Locked) (off : Nat) : Nat :=
  match l.moved.find? (fun m => m.1 == off / 4096) with
  | some m => 4096 * m.2 + off % 4096
  | none => l.addr + off

/-- The 4 KiB part of an embanked page that lies in frame `f` of HBM. -/
def Locked.part (l : Locked) (f : Nat) : Option Nat :=
  if l.target ≠ 0 then none
  else match l.moved.find? (fun m => m.2 == f) with
    | some m => some m.1
    | none =>
      let i := f - l.addr / 4096
      if l.addr / 4096 ≤ f ∧ i < l.size / 4096 ∧ l.moved.all (fun m => m.1 != i) then some i else none

/-- The part that lay in frame `f` lies in frame `g` from now on. -/
def Locked.shift (f g : Nat) (l : Locked) : Locked :=
  match l.part f with
  | some i => { l with moved := (i, g) :: l.moved.filter (fun m => m.1 != i) }
  | none => l

/-- Every frame that a leaf for a page of HBM names is the polder's (R274). -/
def State.ownsLeaf (s : State) (pol level e : Nat) : Bool :=
  let f := pteAddr e / 4096
  let n := pageSize level / 4096
  if n = 1 then s.ownsFrame pol f
  else (s.frames.filter (fun p => decide (f ≤ p.1) && decide (p.1 < f + n) && p.2 == pol + 1)).length == n

/-- The translation of one address, with the reason where there is none (R271–R275, R279). -/
def State.lookup (s : State) (pol va0 : Nat) : Except Nat Xlat :=
  let va := va0 % 2 ^ 48
  match s.lockedAt pol va with
  | some l => .ok ⟨l.target, l.place (va - l.va), 0, l.rd, l.wr, true⟩
  | none =>
    match s.walk pol va with
    | .hole _ _ => .error 1
    | .bad => .error 3
    | .leaf level _ e =>
      let off := va % pageSize level
      if pteTarget e = 0 ∧ s.ownsLeaf pol level e = false then .error 3
      else if pteTarget e = 2 then .ok ⟨2, pteRva e + off, pteRank e, pteRead e, pteWrite e, pteEmb e⟩
      else .ok ⟨pteTarget e, pteAddr e + off, 0, pteRead e, pteWrite e, pteEmb e⟩

/-- Schedule states of GLB_STEP_STATE.STATE (R93). -/
def State.schedSt (s : State) : Nat := s.get GLB_STEP_STATE.STATE
/-- The resident schedule is STARTING, RUNNING or ROLLING_BACK. -/
def State.schedBusy (s : State) : Bool := [2, 3, 4].contains s.schedSt

/-- The polder's port issues no request: Bus Master Enable is clear, the port is in reset, or, since a reset of it closed the polder,
none for this polder (R229, R237, R239). -/
def State.portStopped (s : State) (pol : Nat) : Bool :=
  !s.busMaster.getD (s.portOf pol) false || s.inReset.getD (s.portOf pol) false || s.mute.getD pol false

/-- Tables in host memory cannot be walked now. -/
def State.tablesWait (s : State) (pol : Nat) : Bool := !s.ptHbm pol && s.portStopped pol

/-- The translation of an access: permissions, and the tile-store window while a schedule is busy (R275, R281). -/
def State.xlat (s : State) (pol va : Nat) (write : Bool) : MemRes Xlat :=
  let page := va % 2 ^ 48 / 4096 * 4096
  if (s.lockedAt pol (va % 2 ^ 48)).isNone && s.tablesWait pol then .error .wait
  else match s.lookup pol va with
  | .error r => .error (.fault r page)
  | .ok x =>
    if (if write then x.wr else x.rd) = false then .error (.fault 2 page)
    else if x.target = 3 ∧ s.schedBusy then .error (.fault 6 page)
    else .ok x

/-! Data. -/

/-- The units that a range of device-physical addresses touches. -/
def unitsOf (pa n : Nat) : List Nat := if n = 0 then [] else (List.range ((pa + n - 1) / 64 - pa / 64 + 1)).map (pa / 64 + ·)

/-- The answer another package has given to the same access. -/
def State.answer (s : State) (pol rank a n : Nat) (wr : Option (List Byte)) : Option (List Byte) :=
  (s.remotes.find? (fun r => r.pol == pol && r.rank == rank && r.va == a && r.len == n && r.wr == wr && r.ans.isSome)).bind (·.ans)

/-- A read at a target that lies within one page. -/
def State.readAt (s : State) (pol va : Nat) (x : Xlat) (n : Nat) : MemRes (List Byte) :=
  match x.target with
  | 0 =>
    match (unitsOf x.addr n).find? s.badUnit with
    | some u => .error (.hbm ((va + (u * 64 - x.addr)) / 64 * 64) (u * 64))
    | none => .ok (s.hbm.read x.addr n)
  | 1 => if s.portStopped pol then .error .wait else .ok (s.hostRead (s.portOf pol) x.addr n)
  | 2 =>
    match s.answer pol x.rank x.addr n none with
    | some bs => .ok bs
    | none => .error (.remote x.rank x.addr n none va)
  | _ => .ok (s.tstore.read x.addr n)

/-- A write at a target that lies within one page: a whole unit clears its poison, and its errors with it; a smaller write to a poisoned
unit is not performed and counts as a read of it (R284). One to a unit whose wrong symbols no read has met yet leaves them to the next
read (log 230, DESIGN CHOICE). -/
def State.writeAt (s : State) (pol va : Nat) (x : Xlat) (bs : List Byte) : MemRes State :=
  let n := bs.length
  match x.target with
  | 0 =>
    let whole (u : Nat) : Bool := decide (x.addr ≤ 64 * u) && decide (64 * u + 64 ≤ x.addr + n)
    match (unitsOf x.addr n).find? (fun u => s.poisoned u && !whole u) with
    | some u => .error (.hbm ((va + (u * 64 - x.addr)) / 64 * 64) (u * 64))
    | none =>
      .ok (({ s with hbm := s.hbm.write x.addr bs
                     hbmErr := s.hbmErr.filter (fun p => !(whole p.1)) } : State).each
        ((unitsOf x.addr n).filter s.poisoned) (fun s u =>
        { s with poison := SMap.set 0 s.poison u 0, cleared := SMap.set 0 s.cleared u (s.clk + 1) }))
  | 1 => if s.portStopped pol then .error .wait else .ok (s.hostWrite (s.portOf pol) x.addr bs)
  | 2 =>
    match s.answer pol x.rank x.addr n (some bs) with
    | some _ => .ok s
    | none => .error (.remote x.rank x.addr n (some bs) va)
  | _ => .ok { s with tstore := s.tstore.write x.addr bs }

/-- The bytes from `va` to the end of its 4 KiB page, at most `n`. -/
def pageRest (va n : Nat) : Nat := min n (4096 - va % 4096)

/-- A read at device-virtual addresses, page by page. -/
def State.vreadF (s : State) (pol : Nat) : Nat → Nat → Nat → MemRes (List Byte)
  | 0, _, _ => .ok []
  | fuel + 1, va, n =>
    if n = 0 then .ok []
    else
      let k := pageRest va n
      match s.xlat pol va false with
      | .error e => .error e
      | .ok x =>
        match s.readAt pol va x k with
        | .error e => .error e
        | .ok bs =>
          match s.vreadF pol fuel (va + k) (n - k) with
          | .error e => .error e
          | .ok cs => .ok (bs ++ cs)
def State.vread (s : State) (pol va n : Nat) : MemRes (List Byte) := s.vreadF pol (n / 4096 + 2) va n

/-- A write at device-virtual addresses, page by page: the state with the pages written, and where it stopped if it did. -/
def State.vwriteF (s : State) (pol : Nat) : Nat → Nat → List Byte → State × Option MemErr
  | 0, _, _ => (s, none)
  | fuel + 1, va, bs =>
    if bs.length = 0 then (s, none)
    else
      let k := pageRest va bs.length
      match s.xlat pol va true with
      | .error e => (s, some e)
      | .ok x =>
        match s.writeAt pol va x (bs.take k) with
        | .error e => (s, some e)
        | .ok s' => s'.vwriteF pol fuel (va + k) (bs.drop k)
def State.vwrite (s : State) (pol va : Nat) (bs : List Byte) : State × Option MemErr :=
  s.vwriteF pol (bs.length / 4096 + 2) va bs

/-- A write that must be whole: nothing is written where some byte of it cannot be. -/
def State.vwriteAll (s : State) (pol va : Nat) (bs : List Byte) : MemRes State :=
  match s.vwrite pol va bs with
  | (s', none) => .ok s'
  | (_, some e) => .error e

/-! Retirement (R285). -/

/-- 24 hours of core clock periods of 0.64 ns. -/
def hardWindow : Nat := 24 * 3600 * 1562500000

/-- HBM frames granted to no polder and not retired. -/
def State.unallocatedFrames (s : State) : Nat :=
  s.frameCount - 262144 * ((List.range 8).map (s.get GLB_PLD_STAT.HBM_GIB ·)).sum - s.retired.length

/-- A unit is marked poisoned, and counted (R284). -/
def State.markPoison (s : State) (u mark : Nat) : State :=
  ({ s with poison := SMap.set 0 s.poison u mark, hbmErr := SMap.set 0 s.hbmErr u 0 } : State).bump MMU_HBM_ERR.UE

/-- One wrong symbol of a unit is corrected: the corrected data goes back, and the read counts (R284). -/
def State.correctUnit (s : State) (u : Nat) : State :=
  ({ s with hbmErr := SMap.set 0 s.hbmErr u 0 } : State).bump MMU_HBM_ERR.CE

/-- A copy of the frame `f` meets the symbol errors of its units: one is corrected, more are marked (R284). -/
def State.meetFrame (s : State) (f : Nat) : State :=
  s.each ((List.range 64).map (64 * f + ·)) (fun s u =>
    match SMap.get 0 s.hbmErr u with
    | 0 => s
    | 1 => s.correctUnit u
    | _ => s.markPoison u 1)

/-- The frame `f` moves to `g`: bytes, poison marks, ownership and mappings; a table page stays one (R285). -/
def State.moveFrame (s : State) (f g : Nat) : State :=
  let s1 := s.meetFrame f
  { s1 with
    hbm := (s1.hbm.write (4096 * g) (s1.hbm.read (4096 * f) 4096))
    poison := SMap.setList 0 s1.poison (64 * g) ((SMap.getList 0 s1.poison (64 * f) 64).map (min 1))
    hbmErr := SMap.clear s1.hbmErr (64 * g) (64 * g + 64)
    frames := SMap.set 0 (SMap.set 0 s1.frames g (SMap.get 0 s1.frames f)) f 0
    refs := SMap.set 0 (SMap.set 0 s1.refs g (SMap.get 0 s1.refs f)) f 0
    ptPages := SMap.mapVal [] (fun fs => fs.map (fun p => if p = f then g else p)) s1.ptPages
    locked := s1.locked.map (Locked.shift f g)
    retired := f :: s1.retired }

/-- A leaf of `level` at table address `a` split into pages of level `goal`, keeping every translation, frame and permission; it
takes table pages (R276). None where the area has no page left. -/
def State.splitLeaf (s : State) (pol goal : Nat) : Nat → Nat → Nat → Nat → Option State
  | 0, _, _, _ => some s
  | fuel + 1, level, a, e =>
    if goal ≤ level then some s
    else
      match s.newTable pol with
      | none => none
      | some (t, s1) =>
        let base := if pteTarget e = 2 then pteRva e else pteAddr e
        let sub (i : Nat) : Nat :=
          mkLeaf (pteRead e) (pteWrite e) (pteEmb e) (pteTarget e) (base + i * pageSize (level + 1)) (pteRank e)
        let s2 := s1.each (List.range 512) (fun s i => s.setPte pol (t + 8 * i) (sub i))
        let s3 := (List.range 512).foldl (fun (o : Option State) i =>
          match o with
          | none => none
          | some s => s.splitLeaf pol goal fuel (level + 1) (t + 8 * i) (sub i)) (some s2)
        s3.map (fun s => s.setPte pol a (mkTable t))

/-- The entries of one table that name frame `f` are switched to `g`, and those of the tables below it; the frame may hold a table too.
An entry that cannot be read is left. A larger page that holds the frame is split first; none where no table page is left for that
(log 21, DESIGN CHOICE). -/
def State.retarget (s : State) (pol f g : Nat) : Nat → Nat → Nat → Option State
  | 0, _, _ => some s
  | fuel + 1, level, table =>
    (List.range 512).foldl (fun (o : Option State) i => o.bind (fun s =>
      let a := table + 8 * i
      let e := s.pte pol a
      if !s.tableOk pol a || !pteValid e || pteFmt e != 1 then some s
      else if pteLeaf e then
        (if pteTarget e ≠ 0 ∨ 4096 * f < pteAddr e ∨ pteAddr e + pageSize level ≤ 4096 * f then some s
        else if level = 4 then some (s.setPte pol a (mkLeaf (pteRead e) (pteWrite e) (pteEmb e) 0 (4096 * g) 0))
        else (s.splitLeaf pol 4 3 level a e).bind (fun s' => s'.retarget pol f g fuel (level + 1) (pteAddr (s'.pte pol a))))
      else if s.ptHbm pol && pteAddr e == 4096 * f then
        (s.setPte pol a (mkTable (4096 * g))).retarget pol f g fuel (level + 1) (4096 * g)
      else s.retarget pol f g fuel (level + 1) (pteAddr e))) (some s)

/-- The frame `f` moves to `g` with every translation of it switched: its polder's tables alone can name it (R274). None where a larger
page cannot be split. -/
def State.switchFrame (s : State) (f g : Nat) : Option State :=
  let s1 := s.moveFrame f g
  match SMap.get 0 s.frames f with
  | 0 => some s1
  | p + 1 =>
    match s1.ptRoot p with
    | some r => s1.retarget p f g 4 1 r
    | none => some s1

/-- A hard frame is retired: moved to a frame of the unallocated HBM with its marks, every translation switched, the old frame never
allocated again; without such a frame it stays and STUCK grows (R285), as where a page that holds it cannot be split (log 21, DESIGN
CHOICE). While the tables of its polder lie behind a port that issues no request, the retirement waits (R229; log 231, DEDUCED). -/
def State.retireFrame (s : State) (f : Nat) : State :=
  let owner := SMap.get 0 s.frames f
  if owner ≠ 0 ∧ (s.ptRoot (owner - 1)).isSome ∧ s.tablesWait (owner - 1) then
    { s with retireDue := if s.retireDue.contains f then s.retireDue else s.retireDue ++ [f] }
  else
    let gone : State := { s with retired := f :: s.retired }
    match (if s.unallocatedFrames = 0 then none else gone.findRun 1 (s.frames.length + gone.retired.length + 1) 0).bind (s.switchFrame f) with
    | none =>
      ({ s with poison := s.poison.map (fun p => if p.1 / 64 = f then (p.1, min 1 p.2) else p) } : State).bump MMU_HBM_SPARE.STUCK
    | some s1 => s1.bump MMU_HBM_SPARE.RETIRED

/-- The retirements that waited for a polder's tables are made. -/
def State.retireWaiting (s : State) (pol : Nat) : State :=
  let due := s.retireDue.filter (fun f => s.ownsFrame pol f)
  ({ s with retireDue := s.retireDue.filter (fun f => !s.ownsFrame pol f) } : State).each due (fun s f => s.retireFrame f)

/-- A unit turns out uncorrectable: marked poisoned and counted, once; its frame is retired when the poison returned within
24 h of a whole write, unless an embanked page maps it: that waits for a rollback (R284, R285). -/
def State.poisonUnit (s : State) (u : Nat) : State :=
  if s.poisoned u then s
  else
    let hard := SMap.get 0 s.cleared u != 0 && decide (s.clk + 1 - SMap.get 0 s.cleared u ≤ hardWindow)
    let s1 := s.markPoison u (if hard then 2 else 1)
    if hard && s.locked.all (fun l => (l.part (u / 64)).isNone) then s1.retireFrame (u / 64) else s1

/-! Errors that a read meets (R284). -/

/-- What a read of a unit does about its wrong symbols. -/
def State.meetUnit (s : State) (u : Nat) : State :=
  match SMap.get 0 s.hbmErr u with
  | 0 => s
  | 1 => s.correctUnit u
  | _ => s.poisonUnit u

/-- The units of the table entries that a walk reads, under LOC = 1. -/
def State.walkUnits (s : State) (pol va : Nat) : Nat → Nat → Nat → List Nat
  | 0, _, _ => []
  | fuel + 1, level, table =>
    let a := table + 8 * tableIndex level va
    let e := s.pte pol a
    (a / 64) :: (if !s.tableOk pol a || !pteValid e || pteFmt e != 1 || pteLeaf e then []
      else s.walkUnits pol va fuel (level + 1) (pteAddr e))

/-- The walk to an address meets the wrong symbols of the tables it reads in HBM. -/
def State.demandWalk (s : State) (pol va : Nat) : State :=
  match s.lockedAt pol (va % 2 ^ 48), s.ptRoot pol with
  | none, some r => if s.ptHbm pol then s.each (s.walkUnits pol (va % 2 ^ 48) 4 1 r) (fun s u => s.meetUnit u) else s
  | _, _ => s

/-- A read of `n` bytes, page by page, meets the wrong symbols of the units it touches, up to the first page it cannot reach. -/
def State.demandF (s : State) (pol : Nat) : Nat → Nat → Nat → State
  | 0, _, _ => s
  | fuel + 1, va, n =>
    if n = 0 then s
    else
      let k := pageRest va n
      let s1 := s.demandWalk pol va
      match s1.xlat pol va false with
      | .error _ => s1
      | .ok x => (s1.when (x.target == 0) (fun s => s.each (unitsOf x.addr k) (fun s u => s.meetUnit u))).demandF pol fuel (va + k) (n - k)
/-- The same, where HBM holds wrong symbols at all. -/
def State.demand (s : State) (pol va n : Nat) : State := if s.hbmErr.isEmpty then s else s.demandF pol (n / 4096 + 2) va n

end Sys2Proof.Machine
end

