-- ==== Sys2Proof/Machine/Route.lean ====
section
/-! DEFINITION. The links as the rest of the package uses them: lanes and their plan (R142–R147), messages and floods (R157, R179),
routes (R169–R178), data queued on a link. -/

namespace Sys2Proof.Machine

/-! Lanes (R142, R143). Entries 0–255 are transmit lanes, 256–511 receive lanes. -/

/-- The global exit of lane entry `l` for exit choice `k`. -/
def exitOf (l k : Nat) : Nat :=
  let i := l % 256
  let m := i % 64
  32 * (i / 64) + 8 * (m / 16) + m % 2 + 2 * (k % 4)
/-- The wavelength of a lane. -/
def waveOf (l : Nat) : Nat := l % 8
/-- A transmit lane. -/
def isTx (l : Nat) : Bool := decide (l < 256)

def Plan.lane (p : Plan) (l : Nat) : LaneE := p.lanes.getD l {}
def Plan.linkAt (p : Plan) (k : Nat) : LinkE := p.links.getD k {}
/-- Lane entries with EN = 1, and those of one link in one direction. -/
def Plan.lit (p : Plan) : List Nat := (List.range 512).filter (fun l => (p.lane l).en)
def Plan.lanesOf (p : Plan) (k : Nat) (tx : Bool) : List Nat := p.lit.filter (fun l => (p.lane l).link == k && isTx l == tx)

/-- The inter-group slot of a link whose transmit lanes lie in the lane-group M of slot M mod `per` (R173). -/
def Plan.slot (p : Plan) (per k : Nat) : Option Nat :=
  (p.lanesOf k true).findSome? (fun l =>
    let m := l % 64
    if m / 16 < 2 then none else some ((4 * (l / 64) + 2 * (m / 16 - 2) + m % 2) % per))

/-- The rank of this package: the RANK of the plan in force (R145, R182). -/
def State.rank (s : State) : Nat := s.plan.rank

/-- A link carries flits: UP or DEGRADED. -/
def State.linkUp (s : State) (k : Nat) : Bool := s.get LNK_STATE.STATE k == 2 || s.get LNK_STATE.STATE k == 3

/-- Links that carry flits. -/
def State.upLinks (s : State) : List Nat := (List.range 128).filter s.linkUp

/-- A message queued on the management channel of a link (R157). -/
def State.sendMgmt (s : State) (k : Nat) (m : Mgmt) : State :=
  s.setLink k { s.link k with q0 := (s.link k).q0 ++ [m] }

/-- A message of this package's own for the far end of one link. -/
def State.sendTo (s : State) (k : Nat) (m : Msg) : State := s.sendMgmt k ⟨s.rank, 0, m⟩

/-- A flood of this package: sent on every link that is up, under the next sequence (R179). -/
def State.flood (s : State) (m : Msg) : State :=
  ({ s with floodSeq := s.floodSeq + 1, seen := (s.rank, s.floodSeq) :: s.seen } : State).each s.upLinks (fun s' k =>
    s'.sendMgmt k ⟨s.rank, s.floodSeq, m⟩)

/-- Flits of a message of `n` bytes. -/
def flitsOf (n : Nat) : Nat := max 1 ((n + 255) / 256)

/-! The shape in force (R170, R171, R174, R175). -/

def State.torus (s : State) : Bool := s.bit LSW_SHAPE.SHAPE
def State.groupSize (s : State) : Nat := s.get LSW_SHAPE.GROUP_SIZE
def State.groups (s : State) : Nat := s.get LSW_SHAPE.GROUPS
/-- Ranks of the machine. -/
def State.ranks (s : State) : Nat := s.groups * s.groupSize
/-- Inter-group slots of a member (R170). -/
def State.slotsPer (s : State) : Nat := if s.part = .lhn1H then 4 else 8
/-- Copies of the link between two groups (R174). -/
def State.copies (s : State) : Nat := if s.torus || s.groups ≤ 1 then 0 else s.slotsPer * s.groupSize / (s.groups - 1)
def State.groupOf (s : State) (r : Nat) : Nat := r / s.groupSize
def State.memberOf (s : State) (r : Nat) : Nat := r % s.groupSize

/-- The slot of group `a` that copy `i` of its link to group `b` uses (R174). -/
def State.slotNo (s : State) (a b i : Nat) : Nat :=
  let d := (b + s.groups - a % s.groups) % s.groups
  d - 1 + (s.groups - 1) * i
/-- The rank of group `a` that holds copy `i` of its link to group `b` (R174). -/
def State.gateway (s : State) (a b i : Nat) : Nat := a * s.groupSize + s.slotNo a b i / s.slotsPer

/-- The coordinates of a rank of the torus, and the rank at coordinates (R175). -/
def State.dims (s : State) : List Nat := [s.get LSW_SHAPE.TORUS_X, s.get LSW_SHAPE.TORUS_Y, s.get LSW_SHAPE.TORUS_Z]
def State.coord (s : State) (r : Nat) : List Nat :=
  match s.dims with
  | [x, y, _] => [r % x, r / x % y, r / (x * y)]
  | _ => []
def State.rankAt (s : State) (c : List Nat) : Nat :=
  match s.dims, c with
  | [x, y, _], [a, b, z] => a + x * (b + y * z)
  | _, _ => 0

/-- The links that the shape has between two ranks: one within a group, the copies between two gateways, two along an axis of size 2
(R173–R175). -/
def State.linkCount (s : State) (a b : Nat) : Nat :=
  if s.torus then
    match (List.zip s.dims (List.zip (s.coord a) (s.coord b))).filter (fun p => p.2.1 != p.2.2) with
    | [p] => if (p.2.1 + 1) % p.1 == p.2.2 || (p.2.2 + 1) % p.1 == p.2.1 then (if p.1 = 2 then 2 else 1) else 0
    | _ => 0
  else if a = b then 0
  else if s.groupOf a = s.groupOf b then 1
  else ((List.range s.copies).filter (fun i =>
    s.gateway (s.groupOf a) (s.groupOf b) i == a && s.gateway (s.groupOf b) (s.groupOf a) i == b)).length

/-- The shape has a link between two ranks; the first route of R177 asks for no more. -/
def State.linked (s : State) (a b _sel : Nat) : Bool := decide (0 < s.linkCount a b)

/-- A link entry of the plan in force. -/
def State.planLink (s : State) (k : Nat) : LinkE := s.plan.links.getD k {}

/-- The links of the plan to a rank, and those of them that carry flits. -/
def State.plannedTo (s : State) (r : Nat) : List Nat :=
  (List.range s.plan.links.length).filter (fun k => (s.planLink k).peer == r)
def State.linksTo (s : State) (r : Nat) : List Nat := (s.plannedTo r).filter s.linkUp

/-- The link of this package to rank `r` that a path names by `sel`, of those `ok` admits. 0 names the lowest. i + 1 names copy i of
the link between two groups, which lies in the slot of R174; on an axis of size 2, 1 is the link upward and 2 that downward, the first
and the second of the plan (log 225, DESIGN CHOICE). `far`: this package is the far end of the link. A plan that has no link in the
slot gives the lowest link to the rank. -/
def State.linkFor (s : State) (ok : Nat → Bool) (r sel : Nat) (far : Bool) : Option Nat :=
  let all := s.plannedTo r
  let named :=
    if sel = 0 then none
    else if s.torus then all[if far then 2 - sel else sel - 1]?
    else
      let j := s.slotNo (s.groupOf s.rank) (s.groupOf r) (sel - 1) % s.slotsPer
      all.find? (fun k => s.plan.slot s.slotsPer k == some j)
  match named with
  | some k => if ok k then some k else none
  | none => all.find? ok

/-- Links from rank `a` to rank `b` that `a` says are down (R176). -/
def State.downCount (s : State) (a b : Nat) : Nat := (s.netDown.filter (fun d => d.1 == a && d.2.2 == b)).length

/-- The link between two ranks that a path names is up, as known here (R176), where `ok` tells which of this package's own links count.
Of parallel links of other packages it is known how many are down, not which (log 225, DESIGN CHOICE). -/
def State.edgeUp (s : State) (ok : Nat → Bool) (a b sel : Nat) : Bool :=
  if a = s.rank then (s.linkFor ok b sel false).isSome
  else if b = s.rank then (s.linkFor ok a sel true).isSome
  else decide (max (s.downCount a b) (s.downCount b a) < s.linkCount a b)
def State.pairUp (s : State) (a b sel : Nat) : Bool := s.edgeUp s.linkUp a b sel

/-! Paths (R177): the ranks after the first, each with the link taken to it, where every link satisfies `up`. -/

abbrev Path := List (Nat × Nat)

/-- Within a group: the direct link, else the first member through which both links are up. -/
def State.intra (s : State) (up : Nat → Nat → Nat → Bool) (a b : Nat) : Option Path :=
  if a = b then some []
  else if up a b 0 then some [(b, 0)]
  else
    let base := s.groupOf b * s.groupSize
    let xs := (List.range s.groupSize).map (fun i => base + (s.memberOf b + 1 + i) % s.groupSize)
    (xs.find? (fun x => x != a && x != b && up a x 0 && up x b 0)).map (fun x => [(x, 0), (b, 0)])

/-- By one copy of the link between the groups of two ranks. -/
def State.byCopy (s : State) (up : Nat → Nat → Nat → Bool) (r t i : Nat) : Option Path :=
  let ga := s.gateway (s.groupOf r) (s.groupOf t) i
  let gb := s.gateway (s.groupOf t) (s.groupOf r) i
  if up ga gb (i + 1) then
    match s.intra up r ga, s.intra up gb t with
    | some p, some q => some (p ++ [(gb, i + 1)] ++ q)
    | _, _ => none
  else none

/-- To a rank of another group by the first copy that is up, from copy (m_r + m_t) mod c on. -/
def State.inter (s : State) (up : Nat → Nat → Nat → Bool) (r t : Nat) : Option Path :=
  let c := s.copies
  (List.range c).findSome? (fun i => s.byCopy up r t ((s.memberOf r + s.memberOf t + i) % c))

/-- By way of a third group: the first from b + 1 on that has a copy up to both. The rank through which the third group is
left is that of the copy up to the last group. -/
def State.third (s : State) (up : Nat → Nat → Nat → Bool) (r t : Nat) : Option Path :=
  let a := s.groupOf r
  let b := s.groupOf t
  let es := ((List.range s.groups).map (fun i => (b + 1 + i) % s.groups)).filter (fun e => e != a && e != b)
  es.findSome? (fun e =>
    (List.range s.copies).findSome? (fun i =>
      let out := s.gateway e b i
      match s.inter up r out, s.byCopy up out t i with
      | some p, some q => some (p ++ q)
      | _, _ => none))

/-- Positions along an axis of size `n` from `a` to `b`, one way (`fwd`: upward). -/
def axisWalk (n : Nat) (fwd : Bool) (a b : Nat) : List Nat :=
  let d := if fwd then (b + n - a) % n else (a + n - b) % n
  (List.range d).map (fun i => if fwd then (a + i + 1) % n else (a + n * 2 - i - 1) % n)

/-- One axis of the torus in one direction. -/
def State.axisPath (s : State) (up : Nat → Nat → Nat → Bool) (c : List Nat) (ax : Nat) (fwd : Bool) (goal : Nat) : Option Path :=
  let n := s.dims.getD ax 1
  let ps := (axisWalk n fwd (c.getD ax 0) goal).map (fun v => (s.rankAt (c.set ax v), if n = 2 then (if fwd then 1 else 2) else 0))
  if (List.zip ((s.rankAt c, 0) :: ps) ps).all (fun e => up e.1.1 e.2.1 e.2.2) then some ps else none

/-- One axis in its shorter direction (ties positive), else the other way round. -/
def State.axisEither (s : State) (up : Nat → Nat → Nat → Bool) (goal c : List Nat) (ax : Nat) : Option Path :=
  let n := s.dims.getD ax 1
  let g := goal.getD ax 0
  let short := decide (2 * ((g + n - c.getD ax 0) % n) ≤ n)
  (s.axisPath up c ax short g).or (s.axisPath up c ax (!short) g)

/-- The axes in turn: where both ways of one fail, the next that can be taken is taken first. -/
def State.torusPath (s : State) (up : Nat → Nat → Nat → Bool) (goal : List Nat) : Nat → List Nat → List Nat → Option Path
  | 0, _, axes => if axes.isEmpty then some [] else none
  | fuel + 1, c, axes =>
    if axes.isEmpty then some []
    else
      match axes.findSome? (fun ax => (s.axisEither up goal c ax).map (fun p => (ax, p))) with
      | some (ax, p) => (s.torusPath up goal fuel (c.set ax (goal.getD ax 0)) (axes.erase ax)).map (p ++ ·)
      | none => none

/-- The path from `r` to `t`, by the first route of R177. -/
def State.path (s : State) (up : Nat → Nat → Nat → Bool) (r t : Nat) : Option Path :=
  if r = t then some []
  else if up r t 0 then some [(t, 0)]
  else if s.torus then s.torusPath up (s.coord t) 3 (s.coord r) [0, 1, 2]
  else if s.groupOf r = s.groupOf t then s.intra up r t
  else (s.inter up r t).or (s.third up r t)

/-- The next rank for data of source `src` to `t`, with the link to it: that after this package on the source's path, or on its own
where it is not on that path (R177). -/
def State.nextHop (s : State) (src t : Nat) : Option (Nat × Nat) :=
  let p := (s.path s.pairUp src t).getD []
  let rest := if src = s.rank then p else (p.dropWhile (fun x => x.1 != s.rank)).drop 1
  match rest with
  | x :: _ => some x
  | [] => ((s.path s.pairUp s.rank t).getD []).head?

/-- The link on which data of source `src` leaves for `t`. -/
def State.routeLink (s : State) (src t : Nat) : Option Nat :=
  (s.nextHop src t).bind (fun x => s.linkFor s.linkUp x.1 x.2 false)

/-- A rank can be reached. -/
def State.reach (s : State) (t : Nat) : Bool := t == s.rank || (s.routeLink s.rank t).isSome

/-- Data goes from this package to `t` on a route other than the first of R177. -/
def State.offFirst (s : State) (t : Nat) : Bool := s.path s.pairUp s.rank t != s.path s.linked s.rank t

/-- No route to a rank: the event and its count (R177). -/
def State.noRoute (s : State) (t : Nat) : State := (s.bump LSW_ROUTE_STAT.UNREACHABLE).raise0 20 (detail [(0, t)])

/-! Data queued (R155, R178). -/

/-- A list cut into pieces of `n`. -/
def pieces {α : Type} (n : Nat) : Nat → List α → List (List α)
  | 0, _ => []
  | fuel + 1, xs => if xs.isEmpty then [] else xs.take n :: pieces n fuel (xs.drop n)

/-- A flit of data queued on virtual channel 1 or 2 of a link. -/
def State.queuePkt (s : State) (k vc : Nat) (p : Pkt) : State :=
  if vc = 1 then s.setLink k { s.link k with q1 := (s.link k).q1 ++ [p] }
  else s.setLink k { s.link k with q2 := (s.link k).q2 ++ [p] }

/-- The next trailer for a destination and channel (R178). -/
def State.trailer (s : State) (vc t : Nat) : (Nat × Nat × Nat) × State :=
  let n := SMap.get 0 s.trailTx (4 * t + vc)
  ((s.rank, t, n), { s with trailTx := SMap.set 0 s.trailTx (4 * t + vc) ((n + 1) % 2 ^ 32) })

/-- Bytes for a rank queued on a link, cut into flits: 256 bytes each where the link ends there, else 248 with a trailer. -/
def State.queueBytes (s : State) (k vc t : Nat) (tag : BitVec 32) (bytes : List Byte) : State :=
  if (s.planLink k).peer = t then
    s.each (pieces 256 (bytes.length + 1) bytes) (fun s b => s.queuePkt k vc { dst := t, tag := tag, bytes := b })
  else
    s.each (pieces 248 (bytes.length + 1) bytes) (fun s b =>
      let (tr, s) := s.trailer vc t
      s.queuePkt k vc { dst := t, tag := tag, bytes := b, trailer := some tr })

/-- Bytes for a rank on the unscheduled channel. -/
def State.sendFree (s : State) (t : Nat) (tag : BitVec 32) (bytes : List Byte) : State :=
  match s.routeLink s.rank t with
  | none => s.noRoute t
  | some k => s.queueBytes k 2 t tag bytes

/-! Credits (R158). -/

/-- Slots of a virtual channel of a link are freed at this receiver, and their credits go back to the sender. -/
def State.freeSlots (s : State) (k vc n : Nat) : State :=
  if n = 0 then s
  else
    let x := s.link k
    let x' := match vc with
      | 0 => { x with held0 := x.held0 - n }
      | 1 => { x with held1 := x.held1 - n }
      | _ => { x with held2 := x.held2 - n }
    (s.setLink k x').sendTo k (.credits vc n)

end Sys2Proof.Machine
end

