-- ==== Sys2Proof/Machine/Descr.lean ====
section
/-! DEFINITION. What descriptors share: their fields (R256, R260), their end (R262, R263), their suspension on a translation
fault (R281–R283). -/

namespace Sys2Proof.Machine

/-! Statuses (R263). -/
def stSuccess : Nat := 0x00
def stUndefined : Nat := 0x01
def stUnitAbsent : Nat := 0x02
def stUnavailable : Nat := 0x03
def stAdminOnly : Nat := 0x04
def stImageRefused : Nat := 0x05
def stPlanRefused : Nat := 0x06
def stRecableAbandoned : Nat := 0x07
def stSchedState : Nat := 0x08
def stMismatch : Nat := 0x09
def stCancelled : Nat := 0x0A
def stCancelledAfter : Nat := 0x0B
def stPreempted : Nat := 0x0C
def stSchedFailed : Nat := 0x0D
def stLookupLost : Nat := 0x0E
def stHbmError : Nat := 0x0F
def stAreaOverflow : Nat := 0x10
def stHostMemError : Nat := 0x11
def stFaultAborted : Nat := 0x12
def stClosing : Nat := 0x13
def stQuota : Nat := 0x14
def stBufferShort : Nat := 0x15
def stFileRefused : Nat := 0x16
def stCalFailed : Nat := 0x17

/-! Fields of a descriptor. -/

/-- `n` bytes at `off` of the descriptor as a little-endian number. -/
def Desc.field (d : Desc) (off n : Nat) : Nat := leNat ((d.raw.drop off).take n)
def Desc.opcode (d : Desc) : Nat := d.field 0 1
def Desc.fence (d : Desc) : Bool := d.field 2 1 % 2 == 1
def Desc.event (d : Desc) : Bool := d.field 2 1 / 2 % 2 == 1
def Desc.user (d : Desc) : Nat := d.field 0x10 8
def Desc.waitValue (d : Desc) : Nat := d.field 8 8

/-- An object field (R256): none where bit 15 is set or the polder does not own the object. -/
def State.objField (s : State) (pol w : Nat) : Option Nat :=
  if w / 32768 % 2 = 1 then none else if s.ownsObj pol (w % 16384) then some (w % 16384) else none
def State.waitObj (s : State) (d : Desc) : Option Nat := s.objField d.pol (d.field 4 2)
def State.signalObj (s : State) (d : Desc) : Option Nat := s.objField d.pol (d.field 6 2)

/-- A length operand: above 2^40 becomes 2^40 (R260). -/
def Desc.length (d : Desc) (off : Nat) : Nat := min (2 ^ 40) (d.field off 8)

/-- SIZE of a ring (R244). -/
def State.ringSize (s : State) (r : Nat) : Nat := 2 ^ s.get RNG_CFG.SQ_LOG2 r
/-- The slot a descriptor was fetched from. -/
def State.slotOf (s : State) (d : Desc) : Nat := d.pos % s.ringSize d.ring

/-- The descriptor is with its unit. -/
def Desc.active (d : Desc) : Bool := d.phase == .issued || d.phase == .running

/-- The batch of an engine is over: its tracker entries are free, a serving batch leaves nothing in the sort area, and a queued write of
GTH_ASSIGN takes effect (R94, R115). -/
def State.freeEngine (s : State) (n : Nat) : State :=
  let e := s.engine n
  let serving := (e.batch.map (fun b => b.desc.isSome)).getD false
  let s1 := s.setEngine n { e with batch := none, trk := [], queued := none, sort := if serving then [] else e.sort
                                   marks := if serving then [] else e.marks }
  match e.queued with
  | some q => (s1.put GTH_ASSIGN.OWNER (bitsOf q.toNat 0 3) n).put GTH_ASSIGN.EN (bitsOf q.toNat 3 1) n
  | none => s1

/-- Engines that run the batch of a descriptor. -/
def State.enginesOf (s : State) (d : Nat) : List Nat :=
  (List.range 16).filter (fun n => ((s.engine n).batch.map (fun b => b.desc == some d)).getD false)

/-- Descriptor `d` has ended with a status, a detail and its progress; its record is due. One that has already ended keeps
its status. -/
def State.endDesc (s : State) (d status det done : Nat) : State :=
  match s.desc d with
  | none => s
  | some x =>
    if x.phase = .ended then s
    else
      (({ s with nextEnd := s.nextEnd + 1, warden := s.warden.filter (fun w => w != d),
                 remotes := s.remotes.filter (fun r => r.desc != some d),
                 faults := s.faults.filter (fun f => !(f.desc == some d)) } : State).onDesc d (fun x =>
        { x with phase := .ended, status := status, detail := det % 2 ^ 48, done := done, claim := 0, endAt := s.nextEnd })).each
          (s.enginesOf d) (fun s n => s.freeEngine n)

/-- A descriptor that has stopped at a restartable point: POLDER_CLOSING where its polder is closing, else
CANCELLED_AFTER_START (R237, R267). -/
def State.stopDesc (s : State) (d done : Nat) : State :=
  match s.desc d with
  | none => s
  | some x => s.endDesc d (if s.polderSt x.pol = 3 then stClosing else stCancelledAfter) 0 done

/-! Fault records (R281, R282). -/

/-- The lowest slot of the polder's fault table that no fault holds. -/
def State.freeFaultSlot (s : State) (pol : Nat) : Option Nat :=
  (List.range (2 ^ s.get MMU_FQ_CFG.LOG2 pol)).find? (fun i => !(s.faults.any (fun f => f.pol == pol && f.slot == some i)))

/-- The FAULT_ID of a record: slot and sequence. -/
def faultId (slot seq : Nat) : Nat := slot + seq % 2 ^ 20 * 4096

/-- The 32 bytes of a fault record (R281). -/
def State.faultBytes (s : State) (f : FaultRec) (slot : Nat) : List Byte :=
  leBytes 4 f.id ++ leBytes 1 1 ++ leBytes 1 f.reason ++ leBytes 1 f.access ++ leBytes 1 f.requester ++ leBytes 8 f.va ++
  leBytes 2 f.ring ++ leBytes 2 slot ++ leBytes 4 (s.shortStamp (s.stampBase f.pol)) ++ leBytes 8 f.done

/-- The slot a fault record names: that of its descriptor. -/
def State.faultSlotField (s : State) (f : FaultRec) : Nat :=
  match f.desc.bind s.desc with
  | some d => s.slotOf d
  | none => f.dslot

/-- A fault takes a slot: its record is written, its event raised (R281). -/
def State.recordFault (s : State) (f : FaultRec) (slot : Nat) : State :=
  let seq := SMap.get 0 s.faultSeq f.pol
  let f' := { f with slot := some slot, id := faultId slot seq }
  let s1 := s.hostWrite (s.portOf f.pol) (s.get MMU_FQ_BASE.ADDR f.pol * 4096 + 32 * slot)
    (s.faultBytes f' (s.faultSlotField f))
  let s2 := { s1 with faults := s1.faults ++ [f'], faultSeq := SMap.set 0 s1.faultSeq f.pol ((seq + 1) % 2 ^ 20) }
  ((s2.bump MMU_STAT.FAULTS f.pol).raise (512 * f.pol + 1) (detail [(0, f'.id)]))

/-- A fault of host work: recorded in a free slot, or waiting for one, or for the port (R229, R281, R282). -/
def State.addFault (s : State) (f : FaultRec) : State :=
  if s.portStopped f.pol then { s with faults := s.faults ++ [{ f with slot := none }] }
  else match s.freeFaultSlot f.pol with
  | some i => s.recordFault f i
  | none => ({ s with faults := s.faults ++ [{ f with slot := none }] } : State).bump MMU_STAT.FQ_WAIT f.pol

/-- Faults that wait for a slot are recorded while one is free, oldest first. -/
def State.fillFaults (s : State) (pol : Nat) : State :=
  s.each (s.faults.filter (fun f => f.pol == pol && f.slot.isNone)) (fun s f =>
    match s.freeFaultSlot pol with
    | some i => if s.portStopped pol then s else ({ s with faults := s.faults.erase f } : State).recordFault f i
    | none => s)

/-- Descriptor work meets a translation fault: it suspends with its progress and a record is written, or, while faults are
not recorded, it is aborted at once (R282, R283). ACCESS: 1 read, 2 write. -/
def State.descFault (s : State) (d : Desc) (requester reason va access done : Nat) : State :=
  if s.bit MMU_FQ_CFG.EN d.pol then
    (({ s with remotes := s.remotes.filter (fun r => r.desc != some d.id) } : State).onDesc d.id (fun x =>
      { x with phase := .suspended, done := done })).addFault
      { pol := d.pol, slot := none, id := 0, reason := reason, access := access, requester := requester, va := va,
        ring := d.ring, desc := some d.id, done := done }
  else s.endDesc d.id stFaultAborted 0 done

/-- The bytes of a request for a page of another package (log 27, DESIGN CHOICE): polder, access, length, address, the data of a write. -/
def remoteBytes (pol access len va : Nat) (wr : Option (List Byte)) : List Byte :=
  leBytes 1 pol ++ leBytes 1 access ++ leBytes 2 len ++ leBytes 8 va ++ wr.getD []

/-- A request goes to another package, once; the access is made again when the answer has come (R275). None: no route. -/
def State.askRemote (s : State) (desc : Option Nat) (ring requester access pol rank rva len : Nat)
    (wr : Option (List Byte)) (va : Nat) : Option State :=
  if s.remotes.any (fun r => r.desc == desc && r.ring == ring && r.pol == pol && r.rank == rank && r.va == rva && r.len == len &&
    r.wr == wr) then some s
  else
    match s.routeLink s.rank rank with
    | none => none
    | some _ =>
      let r : Rem := { tag := s.nextAdd, desc := desc, ring := ring, requester := requester, access := access, pol := pol,
                       rank := rank, va := rva, len := len, wr := wr, lva := va }
      some (({ s with remotes := s.remotes ++ [r], nextAdd := s.nextAdd + 1 } : State).sendFree rank
        (BitVec.ofNat 32 r.tag) (remoteBytes pol access len rva wr))

/-- An access of a descriptor did not give its data: a fault suspends it; an uncorrectable unit ends it with HBM_ERROR and
the address (R263, R284). For a page of another package it waits for the answer; without a route that is the fault
REMOTE_UNREACHABLE (R275). It waits for a port that issues no request, but for one whose reset closes the polder (R229, R237). -/
def State.descErr (s : State) (d : Desc) (requester access done : Nat) : MemErr → State
  | .fault r va => s.descFault d requester r va access done
  | .hbm va pa => (s.meetUnit (pa / 64)).endDesc d.id stHbmError va done
  | .remote rank rva len wr va =>
    match s.askRemote (some d.id) d.ring requester access d.pol rank rva len wr va with
    | some s' => s'.onDesc d.id (fun x => { x with phase := .running, done := done })
    | none => (s.noRoute rank).descFault d requester 5 (va / 4096 * 4096) access done
  | .wait =>
    if s.mute.getD d.pol false then s.endDesc d.id stClosing 0 done
    else s.onDesc d.id (fun x => { x with phase := .running, done := done })

/-- A read of a descriptor's whole source, which suspends at the start where it cannot be read (R283). -/
def State.readSource (s : State) (d : Desc) (va n : Nat) (g : List Byte → State → State) : State :=
  let s1 := s.demand d.pol va n
  match s1.vread d.pol va n with
  | .ok bs => g bs s1
  | .error e => s1.descErr d 1 1 0 e

/-- The address at which an access stopped. -/
def MemErr.va : MemErr → Option Nat
  | .fault _ va => some va
  | .hbm va _ => some va
  | .remote _ _ _ _ va => some va
  | .wait => none

/-- Bytes of a buffer at `dst` before the 4 KiB that holds `va`. -/
def stopBefore (dst va : Nat) : Nat :=
  let page := va % 2 ^ 48 / 4096 * 4096
  if page ≤ dst % 2 ^ 48 ∧ dst % 2 ^ 48 < page + 4096 then 0 else (page + 2 ^ 48 - dst % 2 ^ 48) % 2 ^ 48

/-- A descriptor's report written into its buffer: nothing where LENGTH is short (BUFFER_SHORT with the bytes needed). It stops or
suspends at the 4 KiB that cannot be written, with the bytes before that as DONE, and resumes there (R283). The content is taken once,
when the descriptor issues. -/
def State.writeBuffer (s : State) (d : Desc) (bs : List Byte) : State :=
  let dst := d.field 0x18 8 / 64 * 64
  if d.length 0x20 < bs.length then s.endDesc d.id stBufferShort bs.length 0
  else
    let content := if d.blob.isEmpty then bs else d.blob
    match s.vwrite d.pol (dst + d.done) (content.drop d.done) with
    | (s', none) => s'.endDesc d.id stSuccess 0 content.length
    | (s', some e) =>
      (s'.onDesc d.id (fun x => { x with blob := content })).descErr { d with blob := content } 1 2
        ((e.va.map (stopBefore dst)).getD d.done) e

/-! Units take their descriptors in issue order (R266). -/

/-- The opcodes of R257, and those that only polder 0 may use. -/
def opcodes : List Nat :=
  [0x01, 0x02, 0x03, 0x04, 0x08, 0x09, 0x10, 0x11, 0x12, 0x13, 0x18, 0x19, 0x1A, 0x20, 0x28, 0x29, 0x2A, 0x2B, 0x2C, 0x2D, 0x2E,
   0x30, 0x31, 0x32, 0x33, 0x38, 0x39, 0x40, 0x41, 0x42, 0x43, 0x44]
def adminOp (op : Nat) : Bool := opcodes.contains op && decide (0x20 ≤ op) && decide (op ≤ 0x38)
/-- Opcodes of the schedule unit, and those of the memory management unit that one polder's run in order. -/
def schedOp (op : Nat) : Bool := decide (0x10 ≤ op) && decide (op ≤ 0x13)
def memOp (op : Nat) : Bool := decide (0x40 ≤ op) && decide (op ≤ 0x43)

/-- Two descriptors go to the same queue of a unit. -/
def Desc.sameUnit (x y : Desc) : Bool :=
  (schedOp x.opcode && schedOp y.opcode) || (memOp x.opcode && memOp y.opcode && x.pol == y.pol)

/-- The descriptor keeps its unit from those behind it: until the unit takes it; a MAP, UNMAP, EMBANK or RELEASE until it has ended or
is suspended on a fault, which one behind it may have to mend; a SCHED_LOAD until it has ended (R266, R276; log 232, DEDUCED). -/
def Desc.inUnit (y : Desc) : Bool :=
  y.phase == .issued || (y.phase == .running && (memOp y.opcode || y.opcode == 0x10)) ||
    (y.phase == .suspended && y.opcode == 0x10)

/-- The unit of a descriptor takes it now: the warden core runs one at a time; the other queues are taken in issue order, which is
the order of `descs`. No unit works while RESET_N is low (R381). -/
def State.turn (s : State) (x : Desc) : Bool :=
  s.pins.resetN &&
    (if adminOp x.opcode then s.warden.head? == some x.id || !s.warden.contains x.id
     else !((s.descs.takeWhile (fun y => y.id != x.id)).any (fun y => y.inUnit && x.sameUnit y)))

/-- A descriptor operation runs where descriptor `d` is with its unit, has the opcode of the row, and its turn has come. -/
def State.runDesc (s : State) (d opcode : Nat) (g : Desc → State → State) : State :=
  match s.desc d with
  | none => s
  | some x =>
    if x.active && x.opcode == opcode && s.turn x then
      g { x with phase := .running } (s.onDesc d (fun x => { x with phase := .running }))
    else s

end Sys2Proof.Machine
end

