-- ==== Sys2Proof/Machine/Fault.lean ====
section
/-! DEFINITION. Tile faults (R43–R45) and schedule faults (R86, R87, R391), and data for other packages in schedule work. -/

namespace Sys2Proof.Machine

/-! Schedule faults. -/

/-- The latest committed mirrored berm record: the one kept beside, or the latest itself (R85). -/
def State.mirrorBerm (s : State) : Option Berm :=
  match s.sched.berm with
  | some b => if b.mirrored then some b else s.sched.bermMirror
  | none => s.sched.bermMirror

/-- What this package reports in a rollback (R87): its latest committed berm step, its latest mirrored one, the start value
and the new epoch. -/
def State.ownReport (s : State) : Report :=
  { rank := s.rank, latest := (s.sched.berm.map (·.step)).getD 0, mirrored := s.mirrorBerm.map (·.step),
    start := (s.sched.berm.map (·.start)).getD 0, epoch := (s.get GLB_STEP_STATE.EPOCH + 1) % 256 }

/-- A tile stops and abandons what it has outstanding (R87). -/
def Tile.abandon (t : Tile) : Tile := { t with ops := [], blocks := [] }

/-- A Hjelzo engine abandons its claims and blocks (R87). -/
def HzEng.abandon (e : HzEng) : HzEng := { e with claims := [], blocks := [], loading := none }

/-- An engine in schedule mode of the polder stops, be it disabled or not: fetches, buffers, stream and sort area are emptied (R120). -/
def State.abandonEngine (s : State) (pol n : Nat) : State :=
  if s.get GTH_ASSIGN.OWNER n = pol ∧ s.get GTH_QUEUE_CFG.MODE n = 0 then
    (({ s with streams := SMap.clear s.streams (192 * n) (192 * n + 192) } : State).setEngine n
      { s.engine n with sort := [], marks := [] }).freeEngine n
  else s

/-- Ranks of the machine that have no working package in this rollback: out of reach now, or at an earlier moment of it (R86, R182). -/
def State.ranksLost (s : State) : List Nat :=
  (List.range ((s.sched.image.map (·.packages)).getD 0)).filter (fun r => !s.reach r || s.sched.lostRanks.contains r)

/-- A rollback begins on this package (R87, R120): nothing issues, asynchronous operations are abandoned, the berm report is
flooded. One restarted by a second fault settles its target anew, from reports that follow (log 221, DEDUCED). A pre-emption named in
the step of the fault stops at the target, as does a run that has stopped already (R89). -/
def State.enterRollback (s : State) : State :=
  let s1 := s.when (s.schedSt != 4) (fun s => s.bump GLB_STEP_CNT.ROLLBACK)
  let s2 := (((s1.put GLB_STEP_STATE.STATE 4).put GLB_STEP_STATE.HOLDING 0).put GLB_STEP_STATE.HELD 0).put
    GLB_STEP_STATE.HOLDERS 0
  let stop := s.sched.stopAt || s.schedSt == 5 || (s.sched.preempt.isSome && s.sched.preemptIn == s.get GLB_STEP_NOW.STEP)
  let s3 := { s2 with
    tiles := SMap.mapVal {} Tile.abandon s2.tiles
    hz := SMap.mapVal {} HzEng.abandon s2.hz
    adds := s2.adds.filter (fun a => a.tileOp.isNone)
    sched := { s2.sched with reports := [s2.ownReport], lostRanks := s2.ranksLost,
                             readies := [], holds := [], releases := [], late := false, lateHolds := [], lateReleases := [],
                             stopAt := stop, frozen := none, target := none, kind := StartKind.rollback, restoring := false } }
  let s4 := match s3.sched.image with
    | some im => s3.each (List.range 16) (fun s n => s.abandonEngine im.owner n)
    | none => s3
  let r := s4.ownReport
  s4.flood (.report r.latest r.mirrored r.start r.epoch)

/-- The status of a schedule descriptor that is stopped: POLDER_CLOSING where its polder is closing (R237). -/
def State.stopStatus (s : State) (status : Nat) : Nat :=
  match s.sched.image with
  | some im => if s.polderSt im.owner = 3 then stClosing else status
  | none => status

/-- The DETAIL of a schedule descriptor that is stopped: POLDER_CLOSING has none (R263). -/
def State.stopDetail (s : State) (det : Nat) : Nat := if s.stopStatus 0 = stClosing then 0 else det

/-- The SCHED_START or SCHED_RESUME of the run ends. -/
def State.endRun (s : State) (status det : Nat) : State :=
  let s1 := { s with sched := { s.sched with startDesc := none } }
  match s.sched.startDesc with
  | some d => s1.endDesc d status det 0
  | none => s1

/-- The registers of some names stand at their reset values for indices [i, i + n). -/
def State.clearRegs (s : State) (rs : List RegName) (i n : Nat) : State :=
  { s with regs := rs.foldl (fun m r => SMap.clear m (r.key i 0) (r.key (i + n) 0)) s.regs }

/-- The registers of a scope. -/
def regsOf (sc : Scope) : List RegName := RegName.all.filter (fun r => r.place.scope == sc)

/-- What is left to zero of a closing polder's HBM reads back in GiB, rounded up. -/
def State.showZero (s : State) (n : Nat) : State :=
  s.put GLB_PLD_STAT.ZERO_GIB ((SMap.get 0 s.zeroLeft n - 1 + 2 ^ 30 - 1) / 2 ^ 30) n

/-- The translation context of a closing polder is dropped; its sync objects and ring state are zeroed (R237, R292). What is left to
zero is the HBM that it used. Accesses of other packages that wait for it are denied, and retirements that waited for its tables made. -/
def State.dropContext (s : State) (n : Nat) : State :=
  let (r0, rn) := s.ringsOf n
  let (o0, on_) := s.objsOf n
  let mine (r : Nat) : Bool := decide (r0 ≤ r) && decide (r < r0 + rn)
  let s1 : State := { s with
    ptPages := SMap.set [] s.ptPages n []
    locked := s.locked.filter (fun l => l.pol != n)
    faults := s.faults.filter (fun f => f.pol != n)
    remotes := s.remotes.filter (fun r => r.pol != n)
    served := s.served.filter (fun q => q.pol != n)
    zeroLeft := if SMap.get 0 s.zeroLeft n = 0 then SMap.set 0 s.zeroLeft n (4096 * s.usedFrames n + 1) else s.zeroLeft
    fetches := s.fetches.filter (fun f => !mine f.ring)
    cancels := s.cancels.filter (fun c => !mine c.ring)
    sync := SMap.clear s.sync o0 (o0 + on_)
    watchMet := SMap.clear s.watchMet (128 * n) (128 * n + 128)
    sched := { s.sched with keptBerm := s.sched.keptBerm.filter (fun k => k.1 != n) } }
  let s2 := (((s1.clearRegs (regsOf .ring) r0 rn).put MMU_PT_CFG.USED_PT 0 n).showZero n).retireWaiting n
  s2.each (s.served.filter (fun q => q.pol == n)) (fun s q => s.sendFree q.rank (BitVec.ofNat 32 q.tag) (leBytes 1 1))

/-- A closing polder has nothing left that works for it: no descriptor, no schedule. -/
def State.closedOut (s : State) (n : Nat) : Bool :=
  s.polderSt n == 3 && !(s.descs.any (fun d => d.pol == n && decide (d.ring < 8192))) &&
    !((s.sched.image.map (fun im => im.owner == n)).getD false)

/-- The context of a polder is dropped once nothing works for it (R237). -/
def State.settleClosing (s : State) (n : Nat) : State := if s.closedOut n then s.dropContext n else s

/-- The resident schedule is unloaded (R90, R237). -/
def State.unload (s : State) : State :=
  let pol := (s.sched.image.map (·.owner)).getD 0
  (({ s with sched := { keptBerm := s.sched.keptBerm, alarmed := s.sched.alarmed } } : State).put GLB_STEP_STATE.STATE 0).settleClosing pol

/-- A closing polder's schedule that has come to rest is unloaded (R237). -/
def State.unloadClosing (s : State) : State :=
  match s.sched.image with
  | some im => if s.polderSt im.owner = 3 ∧ s.schedBusy = false then s.unload else s
  | none => s

/-- A start or resume ends before its first step (R90, R391): the schedule returns to LOADED, or to PREEMPTED with its berm
record kept, and its descriptor ends with the status. -/
def State.abandonStart (s : State) (status det : Nat) : State :=
  let s1 := s.put GLB_STEP_STATE.STATE s.sched.prev
  let s2 := { s1 with sched := { s1.sched with readies := [], go := none, cancelled := false } }
  (s2.endRun (s.stopStatus status) (s.stopDetail det)).unloadClosing

/-- A schedule fault of package `rank`, this one or the one an abort message comes from: a start is abandoned, a run rolls back (R86,
R391). A package that has just crossed its last boundary, or the one into the berm step that stops it, is in the same run and rolls
back with it; where the sender's ready message shows that it was starting anew, and in LOADED, the start is abandoned here too: the
ready messages of it are gone (R391; log 221, DEDUCED). -/
def State.onAbort (s : State) (rank : Nat) : State :=
  if s.schedSt = 2 then s.abandonStart stSchedFailed 0xFFFFFFFFFFFF
  else if s.schedSt = 3 ∨ s.schedSt = 4 then s.enterRollback
  else if (s.schedSt = 5 ∨ s.schedSt = 6) ∧ s.sched.image.isSome ∧
      (s.sched.readies.any (fun m => m.rank == rank && m.kind != 2)) = false then s.enterRollback
  else { s with sched := { s.sched with readies := [] } }

/-- This package detects a schedule fault: it floods an abort message with the step of its latest committed berm record, and
acts on it itself (R86). No schedule starts, runs or rolls back: nothing to abort. While the reports of a rollback are still gathered a
further fault is part of it, and no second abort goes out (R184); the ranks lost by it are noted. -/
def State.schedFault (s : State) : State :=
  if s.schedSt = 4 ∧ s.sched.restoring = false ∧ s.sched.target = none ∧ s.sched.berm.isSome then
    { s with sched := { s.sched with lostRanks := s.ranksLost } }
  else if s.schedBusy then (s.flood (.abort ((s.sched.berm.map (·.step)).getD 0))).onAbort s.rank else s

/-! Tile faults (R43, R45). -/

/-- A fault of tile `t` with a code of R43, raised by the instruction at index `pc`, is latched with the tile, that index and the
step where the latch is armed, and counted otherwise (R45). -/
def State.latchFaultAt (s : State) (t code pc : Nat) : State :=
  let s1 := s.setTile t { s.tile t with st := .faulted }
  if s.get GLB_TILE_FAULT_A.CODE = 0 then
    let s2 := (((s1.put GLB_TILE_FAULT_A.CODE code).put GLB_TILE_FAULT_A.TILE t).put GLB_TILE_FAULT_A.PC
      pc).put GLB_TILE_FAULT_B.STEP (s.get GLB_STEP_NOW.STEP)
    s2.raiseSched 4 (detail [(0, (s2.reg .GLB_TILE_FAULT_A 0 0).toNat), (64, (s2.reg .GLB_TILE_FAULT_B 0 0).toNat)])
  else s1.bump GLB_TILE_FAULT_CNT.COUNT

/-- The same for the instruction the tile is at. SUPPLY and HANG have no faulting instruction: the tile's present PC is latched (R46
names none; log 216, DEDUCED). -/
def State.latchFault (s : State) (t code : Nat) : State := s.latchFaultAt t code (s.tile t).pc.toNat

/-- A tile fault, and the schedule fault that it is (R43, R86). -/
def State.tileFault (s : State) (t code : Nat) : State := (s.latchFault t code).schedFault

/-- The same for an operation that was issued at index `pc` and finds its fault at its end. -/
def State.tileFaultAt (s : State) (t code pc : Nat) : State := (s.latchFaultAt t code pc).schedFault

/-! Data on the scheduled channel. -/

/-- No route to a rank in schedule work: a schedule fault beside the event (R177). -/
def State.unreachable (s : State) (t : Nat) : State := (s.noRoute t).schedFault

/-- Bytes for a rank on the scheduled channel. -/
def State.sendBytes (s : State) (t : Nat) (tag : BitVec 32) (bytes : List Byte) : State :=
  match s.routeLink s.rank t with
  | none => s.unreachable t
  | some k => s.queueBytes k 1 t tag bytes

end Sys2Proof.Machine
end

