-- ==== Sys2Proof/Machine/Arith.lean ====
section
/-! DEFINITION. The arithmetic of the tile fabric, bit for bit: formats (R29), conversion (R31, R32), the stochastic bits
(R390), accumulation (R33, R34), lane operations and the function unit (R30, R35). Values are exact: an integer magnitude and
a power of two. -/

namespace Sys2Proof.Machine

/-- A value of a format of R29: (−1)^neg × m × 2^e where finite. -/
inductive FV where
  | nan
  | inf (neg : Bool)
  | fin (neg : Bool) (m : Nat) (e : Int)
  deriving DecidableEq, Repr

/-- What a format has beside finite values: nothing, IEEE infinities and NaNs, or E4M3's one NaN code (R29). -/
inductive Special where
  | none | ieee | top
  deriving DecidableEq, Repr

/-- A floating-point format of R29: exponent bits, mantissa bits, bias, its specials, the NaN the LHN-1 writes. -/
structure Fmt where
  eb : Nat
  mb : Nat
  bias : Int
  sp : Special
  qnan : Nat
  deriving DecidableEq, Repr

def fE4M3 : Fmt := ⟨4, 3, 7, .top, 0x7F⟩
def fE5M2 : Fmt := ⟨5, 2, 15, .ieee, 0x7F⟩
def fE3M2 : Fmt := ⟨3, 2, 3, .none, 0⟩
def fE2M3 : Fmt := ⟨2, 3, 1, .none, 0⟩
def fE2M1 : Fmt := ⟨2, 1, 1, .none, 0⟩
def fFP16 : Fmt := ⟨5, 10, 15, .ieee, 0x7E00⟩
def fBF16 : Fmt := ⟨8, 7, 127, .ieee, 0x7FC0⟩
def fFP32 : Fmt := ⟨8, 23, 127, .ieee, 0x7FC00000⟩

/-- Width of an encoding in bits. -/
def Fmt.width (f : Fmt) : Nat := 1 + f.eb + f.mb

/-- The code of the largest finite magnitude. -/
def Fmt.maxCode (f : Fmt) : Nat :=
  match f.sp with
  | .none => 2 ^ (f.eb + f.mb) - 1
  | .ieee => 2 ^ (f.eb + f.mb) - 2 ^ f.mb - 1
  | .top => 2 ^ (f.eb + f.mb) - 2

/-- The value of an encoding. -/
def Fmt.val (f : Fmt) (b : Nat) : FV :=
  let neg := b / 2 ^ (f.eb + f.mb) % 2 == 1
  let code := b % 2 ^ (f.eb + f.mb)
  let ef := code / 2 ^ f.mb
  let mf := code % 2 ^ f.mb
  if f.maxCode < code then
    (if f.sp = .ieee ∧ mf = 0 then .inf neg else .nan)
  else if ef = 0 then .fin neg mf (1 - f.bias - f.mb)
  else .fin neg (2 ^ f.mb + mf) (ef - f.bias - f.mb)

/-- Rounding modes of R31; the stochastic one with its 16 bits. -/
inductive RMode where
  | rne | rtz
  | stoch (r : Nat)
  deriving DecidableEq, Repr

/-! The sticky flags of R36, by their places in FLAGS (R60). -/
def flInvalid : BitVec 4 := 1
def flOverflow : BitVec 4 := 2
def flSat : BitVec 4 := 4
def flInexact : BitVec 4 := 8
/-- A flag where the condition holds. -/
def flIf (c : Bool) (f : BitVec 4) : BitVec 4 := if c then f else 0

/-- A magnitude m × 2^e as a multiple of 2^q, rounded (R31), and whether it changed. -/
def quant (mode : RMode) (m : Nat) (e q : Int) : Nat × Bool :=
  if q ≤ e then (m * 2 ^ (e - q).toNat, false)
  else
    let k := (q - e).toNat
    let n := m / 2 ^ k
    let rem := m % 2 ^ k
    let up := match mode with
      | .rne => decide (2 ^ k < 2 * rem) || (decide (2 ^ k = 2 * rem) && n % 2 == 1)
      | .rtz => false
      | .stoch r => decide (2 ^ (k + 16) ≤ rem * 2 ^ 16 + r % 65536 * 2 ^ k)
    (if up then n + 1 else n, rem != 0)

/-- The sign bit of an encoding. -/
def Fmt.signBit (f : Fmt) (neg : Bool) : Nat := if neg then 2 ^ (f.eb + f.mb) else 0

/-- What an overflow or an infinity becomes (R31): `sat` saturating mode, `mx` an MX element target. -/
def Fmt.over (f : Fmt) (sat mx neg : Bool) : Nat :=
  if mx || sat then f.signBit neg + f.maxCode
  else match f.sp with
    | .ieee => f.signBit neg + f.maxCode + 1
    | .top => f.qnan
    | .none => f.signBit neg + f.maxCode

/-- The encoding of a value, rounded once, and the flags of R31: overflow and saturation are judged after rounding (log 22, DEDUCED). -/
def Fmt.encode (f : Fmt) (mode : RMode) (sat mx : Bool) (v : FV) : Nat × BitVec 4 :=
  match v with
  | .nan => (f.qnan, 0)
  | .inf neg =>
    (f.over sat mx neg, flOverflow ||| flIf (f.sp != .ieee || sat || mx) flInexact)
  | .fin neg m e =>
    if m = 0 then (f.signBit neg, 0)
    else
      let q := max ((Nat.log2 m : Int) + e) (1 - f.bias) - f.mb
      let (n, inex) := quant mode m e q
      let code := (q + f.mb + f.bias - 1).toNat * 2 ^ f.mb + n
      if f.maxCode < code then (f.over sat mx neg, flOverflow ||| flInexact)
      else (f.signBit neg + code, flIf inex flInexact)

/-- The conversion of a value to an integer of `w` bits: it always saturates; a NaN gives 0 (R31). A NaN sets invalid alone: 0 is no
inexact image of it (log 215, DEDUCED). -/
def encodeInt (w : Nat) (mode : RMode) (v : FV) : Nat × BitVec 4 :=
  match v with
  | .nan => (0, flInvalid)
  | .inf neg => (uint w (if neg then -2 ^ (w - 1) else 2 ^ (w - 1) - 1), flSat ||| flInexact)
  | .fin neg m e =>
    let (n, inex) := quant mode m e 0
    let x : Int := if neg then -n else n
    if x < -2 ^ (w - 1) then (uint w (-2 ^ (w - 1)), flSat ||| flInexact)
    else if 2 ^ (w - 1) - 1 < x then (uint w (2 ^ (w - 1) - 1), flSat ||| flInexact)
    else (uint w x, flIf inex flInexact)

/-- The 16 stochastic bits of R390. -/
def stochBits (seed step : Word) (tile p : Nat) : Nat :=
  let x := seed ^^^ (step * 0xD1B54A32D192ED03#64)
  let x := x ^^^ (BitVec.ofNat 64 tile * 0x8CB92BA72F3D8DD7#64)
  let x := x ^^^ BitVec.ofNat 64 p
  let x := x ^^^ (x >>> 31)
  let x := x * 0x7FB5D329728EA185#64
  let x := x ^^^ (x >>> 27)
  let x := x * 0x81DADEF4BC2DD44D#64
  let x := x ^^^ (x >>> 33)
  (x >>> 48).toNat

/-! Exact arithmetic (R30). -/

/-- Minus a value. -/
def FV.neg : FV → FV
  | .nan => .nan
  | .inf n => .inf (!n)
  | .fin n m e => .fin (!n) m e

/-- The signed multiple of 2^q that a finite value is, q at or below its exponent. -/
def scaled (neg : Bool) (m : Nat) (e q : Int) : Int := (if neg then -1 else 1) * (m * 2 ^ (e - q).toNat : Nat)

/-- The exact product. -/
def FV.mul : FV → FV → FV
  | .nan, _ => .nan
  | _, .nan => .nan
  | .inf a, .inf b => .inf (a != b)
  | .inf a, .fin b m _ => if m = 0 then .nan else .inf (a != b)
  | .fin a m _, .inf b => if m = 0 then .nan else .inf (a != b)
  | .fin a m e, .fin b n k => .fin (a != b) (m * n) (e + k)

/-- The exact sum. An exact zero sum of non-zero terms is +0; a sum of zeros is −0 only where both are. -/
def FV.add : FV → FV → FV
  | .nan, _ => .nan
  | _, .nan => .nan
  | .inf a, .inf b => if a = b then .inf a else .nan
  | .inf a, .fin _ _ _ => .inf a
  | .fin _ _ _, .inf b => .inf b
  | .fin a m e, .fin b n k =>
    let q := min e k
    let t := scaled a m e q + scaled b n k q
    if t = 0 then .fin (a && b && m == 0 && n == 0) 0 q else .fin (decide (t < 0)) t.natAbs q

/-- The value is less than the other; false where either is NaN. -/
def FV.lt : FV → FV → Bool
  | .nan, _ => false
  | _, .nan => false
  | .inf a, .inf b => a && !b
  | .inf a, .fin _ _ _ => a
  | .fin _ _ _, .inf b => !b
  | .fin a m e, .fin b n k => decide (scaled a m e (min e k) < scaled b n k (min e k))

/-- The values are equal, the two zeros included; false where either is NaN. -/
def FV.eq : FV → FV → Bool
  | .nan, _ => false
  | _, .nan => false
  | .inf a, .inf b => a == b
  | .fin a m e, .fin b n k => decide (scaled a m e (min e k) = scaled b n k (min e k))
  | _, _ => false

/-- The sign of a value. -/
def FV.sign : FV → Bool
  | .nan => false
  | .inf n => n
  | .fin n _ _ => n

/-! A lane result: its bits, the flags a rule sets, and the flags whose condition arose where no rule says whether this
operation records it (R36, log 23, DEDUCED). -/
structure LR where
  bits : Nat
  set : BitVec 4 := 0
  may : BitVec 4 := 0
  deriving DecidableEq, Repr

/-- An arithmetic result in a format, rounded once to nearest-even; a NaN is the canonical one (R30). -/
def Fmt.round (f : Fmt) (v : FV) : LR :=
  match v with
  | .nan => { bits := f.qnan, may := flInvalid }
  | .inf neg => { bits := f.over false false neg }
  | v => let r := f.encode .rne false false v; { bits := r.1, may := r.2 }

/-- Lane types of VOP and VRED, by MOD[1:0]. -/
inductive LTy where
  | fp32 | int32 | bf16 | fp16
  deriving DecidableEq, Repr

def LTy.ofMod (md : BitVec 5) : LTy :=
  if md.toNat % 4 = 0 then .fp32 else if md.toNat % 4 = 1 then .int32 else if md.toNat % 4 = 2 then .bf16 else .fp16
/-- The format of a floating-point lane type; FP32 stands in for INT32, where none is used. -/
def LTy.fmt : LTy → Fmt
  | .bf16 => fBF16
  | .fp16 => fFP16
  | _ => fFP32
def LTy.isInt : LTy → Bool
  | .int32 => true
  | _ => false
/-- Lane width in bits. -/
def LTy.width : LTy → Nat
  | .bf16 => 16
  | .fp16 => 16
  | _ => 32

/-- An INT32 result that wraps, or saturates and sets the saturation flag. -/
def int32R (sat : Bool) (x : Int) : LR :=
  if sat ∧ x < -2 ^ 31 then { bits := uint 32 (-2 ^ 31), set := flSat }
  else if sat ∧ 2 ^ 31 - 1 < x then { bits := 2 ^ 31 - 1, set := flSat }
  else { bits := uint 32 x }

/-- Lane add. -/
def lAdd (ty : LTy) (sat : Bool) (a b : Nat) : LR :=
  if ty.isInt then int32R sat (sint 32 a + sint 32 b) else ty.fmt.round ((ty.fmt.val a).add (ty.fmt.val b))
/-- Lane subtract. -/
def lSub (ty : LTy) (sat : Bool) (a b : Nat) : LR :=
  if ty.isInt then int32R sat (sint 32 a - sint 32 b) else ty.fmt.round ((ty.fmt.val a).add (ty.fmt.val b).neg)
/-- Lane multiply; INT32 keeps the low 32 bits whatever MOD[2] holds. -/
def lMul (ty : LTy) (a b : Nat) : LR :=
  if ty.isInt then int32R false (sint 32 a * sint 32 b) else ty.fmt.round ((ty.fmt.val a).mul (ty.fmt.val b))
/-- Lane fused multiply-add, rounded once. -/
def lFma (ty : LTy) (sat : Bool) (a b c : Nat) : LR :=
  if ty.isInt then int32R sat (sint 32 a * sint 32 b + sint 32 c)
  else ty.fmt.round (((ty.fmt.val a).mul (ty.fmt.val b)).add (ty.fmt.val c))

/-- Lane minimum: NaN if either input is NaN; −0 lies below +0 (log 24, DEDUCED). -/
def lMin (ty : LTy) (a b : Nat) : LR :=
  if ty.isInt then { bits := if sint 32 b < sint 32 a then b else a }
  else
    let x := ty.fmt.val a
    let y := ty.fmt.val b
    if x = .nan ∨ y = .nan then { bits := ty.fmt.qnan }
    else { bits := if y.lt x || (x.eq y && y.sign) then b else a }
/-- Lane maximum: NaN if either input is NaN; −0 lies below +0 (log 24, DEDUCED). -/
def lMax (ty : LTy) (a b : Nat) : LR :=
  if ty.isInt then { bits := if sint 32 a < sint 32 b then b else a }
  else
    let x := ty.fmt.val a
    let y := ty.fmt.val b
    if x = .nan ∨ y = .nan then { bits := ty.fmt.qnan }
    else { bits := if x.lt y || (x.eq y && x.sign) then b else a }

/-- Lane absolute value. `open_` is what INT32 gives for −2^31, whose absolute value no lane holds (log 25, DESIGN CHOICE). -/
def lAbs (ty : LTy) (open_ : Nat) (a : Nat) : LR :=
  if ty.isInt then { bits := if a = 2 ^ 31 then open_ else uint 32 (if sint 32 a < 0 then -sint 32 a else sint 32 a) }
  else if ty.fmt.val a = .nan then { bits := ty.fmt.qnan }
  else { bits := a % 2 ^ (ty.width - 1) }
/-- Lane negation; INT32 wraps or saturates as MOD[2] states. -/
def lNeg (ty : LTy) (sat : Bool) (a : Nat) : LR :=
  if ty.isInt then int32R sat (-sint 32 a)
  else if ty.fmt.val a = .nan then { bits := ty.fmt.qnan }
  else { bits := if a < 2 ^ (ty.width - 1) then a + 2 ^ (ty.width - 1) else a - 2 ^ (ty.width - 1) }

/-- Lane compare: less. -/
def lLt (ty : LTy) (a b : Nat) : LR :=
  { bits := if (if ty.isInt then decide (sint 32 a < sint 32 b) else (ty.fmt.val a).lt (ty.fmt.val b)) then 1 else 0 }
/-- Lane compare: equal. -/
def lEq (ty : LTy) (a b : Nat) : LR :=
  { bits := if (if ty.isInt then decide (a = b) else (ty.fmt.val a).eq (ty.fmt.val b)) then 1 else 0 }

/-! Reductions (R35). -/

/-- Neighbours combined: 2i with 2i + 1. -/
def pairUp (op : Nat → Nat → LR) : List Nat → List LR
  | a :: b :: xs => op a b :: pairUp op xs
  | _ => []

/-- The flags of a list of results, together. -/
def orSet (xs : List LR) : BitVec 4 := xs.foldl (fun f x => f ||| x.set) 0
def orMay (xs : List LR) : BitVec 4 := xs.foldl (fun f x => f ||| x.may) 0

/-- The pairwise tree over `n` levels, with the flags met so far. -/
def treeReduce (op : Nat → Nat → LR) : Nat → List Nat → BitVec 4 → LR
  | 0, xs, may => { bits := xs.headD 0, may := may }
  | n + 1, xs, may =>
    let ys := pairUp op xs
    treeReduce op n (ys.map (·.bits)) (may ||| orMay ys)

/-! Matrix products (R33, R34). -/

/-- The exact sum of zeros: −0 only where all are. -/
def zeroSum (ps : List FV) : FV := .fin (ps.all (·.sign)) 0 0

/-- A product with the bits below 2^q dropped, as a multiple of 2^q. -/
def keepAbove (q : Int) : FV → Int
  | .fin neg m e => (if neg then -1 else 1) * ((quant .rtz m e q).1 : Int)
  | _ => 0

/-- The leading bit position of a non-zero finite value. -/
def FV.lead : FV → Option Int
  | .fin _ m e => if m = 0 then none else some ((Nat.log2 m : Int) + e)
  | _ => none

/-- The lowest bit position of a non-zero finite value. -/
def FV.low : FV → Option Int
  | .fin _ m e => if m = 0 then none else some e
  | _ => none

/-- Steps 3 and 4 of R33 on the exact products of a chunk. -/
def chunkSum (w : Nat) (ps : List FV) : FV :=
  if ps.any (fun p => decide (p = .nan)) then .nan
  else if ps.any (fun p => decide (p = .inf true)) then
    (if ps.any (fun p => decide (p = .inf false)) then .nan else .inf true)
  else if ps.any (fun p => decide (p = .inf false)) then .inf false
  else
    match ps.filterMap FV.lead, ps.filterMap FV.low with
    | l :: ls, k :: ks =>
      let q := max (ls.foldl max l - w) (ks.foldl min k)
      let t := (ps.map (keepAbove q)).foldl (· + ·) 0
      if t = 0 then .fin false 0 0 else .fin (decide (t < 0)) t.natAbs q
    | _, _ => zeroSum ps

/-- A value multiplied by a power of two. -/
def FV.scale (k : Int) : FV → FV
  | .fin n m e => .fin n m (e + k)
  | v => v

/-- Step 5 of R33: the chunk sum added to the FP32 accumulator with a single rounding; a result beyond the range sets overflow. -/
def accumulate (acc : Nat) (c : FV) : LR :=
  let r := fFP32.round ((fFP32.val acc).add c)
  { r with set := r.may &&& flOverflow, may := r.may &&& ~~~flOverflow }

/-- R34: an exact integer chunk sum added to a saturating INT32 accumulator. -/
def accumulateInt (acc : Nat) (c : Int) : LR := int32R true (sint 32 acc + c)

/-! The function unit (R35): each function is evaluated to far more bits than a result has, and rounded once. -/

/-- ⌊ln 2 × 2^320⌋. -/
def ln2Fix : Nat := 1480553391661173448385607439722553250922680800745876974795605978609098082859138712941075737848984

/-- A positive value between q × 2^e and (q + 1) × 2^e, exactly the former unless `more`. -/
def between (neg : Bool) (q : Nat) (e : Int) (more : Bool) : FV := .fin neg (2 * q + b2nat more) (e - 1)
where b2nat (b : Bool) : Nat := if b then 1 else 0

/-- ⌊√n⌋ for n < 2^400. -/
def isqrt (n : Nat) : Nat :=
  (List.range 200).foldl (fun r i => if (r + 2 ^ (199 - i)) * (r + 2 ^ (199 - i)) ≤ n then r + 2 ^ (199 - i) else r) 0

/-- 2^320 × exp(y / 2^320) for 0 ≤ y < 2^320, to about 2^-312: 90 terms of the series. -/
def expFix (y : Nat) : Nat :=
  ((List.range 90).foldl (fun (acc : Nat × Nat) i =>
    let t := acc.2 * y / 2 ^ 320 / (i + 1)
    (acc.1 + t, t)) (2 ^ 320, 2 ^ 320)).1

/-- exp(y / 2^320) as a multiple of 2^-320, for y ≥ 0. -/
def expBig (y : Nat) : Nat := expFix (y % ln2Fix) * 2 ^ (y / ln2Fix)

/-- 2^320 × artanh(z / 2^320) for 0 ≤ z ≤ 2^320 / 3: 110 terms of the series. -/
def atanhFix (z : Nat) : Nat :=
  let zz := z * z / 2 ^ 320
  ((List.range 110).foldl (fun (acc : Nat × Nat) i => (acc.1 + acc.2 / (2 * i + 1), acc.2 * zz / 2 ^ 320)) (0, z)).1

/-- A finite magnitude as a multiple of 2^-320. -/
def toFix (m : Nat) (e : Int) : Nat := (quant .rtz m e (-320)).1

/-- A value just inside ±1. -/
def nearOne (neg : Bool) : FV := .fin neg (2 ^ 200 - 1) (-200)

/-- 2^x for finite non-zero x. -/
def fnExp2 (neg : Bool) (m : Nat) (e : Int) : FV :=
  if (200 : Int) ≤ (Nat.log2 m : Int) + e ∨ 200 * 2 ^ 320 ≤ toFix m e then .fin false 1 (if neg then -400 else 200)
  else
    let x := toFix m e
    let n : Nat := x / 2 ^ 320
    let f : Nat := x % 2 ^ 320
    if f = 0 then .fin false 1 (if neg then -(n : Int) else (n : Int))
    else if neg then between false (expFix ((2 ^ 320 - f) * ln2Fix / 2 ^ 320)) (-320 - 1 - (n : Int)) true
    else between false (expFix (f * ln2Fix / 2 ^ 320)) (-320 + (n : Int)) true

/-- log2 x for finite x > 0. -/
def fnLog2 (m : Nat) (e : Int) : FV :=
  let l := Nat.log2 m
  let k : Int := e + l
  if m = 2 ^ l then .fin (decide (k < 0)) k.natAbs 0
  else
    let z := (m - 2 ^ l) * 2 ^ 320 / (m + 2 ^ l)
    let r : Int := k * 2 ^ 320 + (2 * atanhFix z * 2 ^ 320 / ln2Fix : Nat)
    if r < 0 then between true (-r - 1).toNat (-320) true else between false r.toNat (-320) true

/-- 1 / x for finite non-zero x. -/
def fnRcp (neg : Bool) (m : Nat) (e : Int) : FV :=
  let k := Nat.log2 m + 64
  between neg (2 ^ k / m) (-e - k) (2 ^ k % m != 0)

/-- 1 / √x for finite x > 0. -/
def fnRsqrt (m : Nat) (e : Int) : FV :=
  let m' := if e % 2 = 0 then m else 2 * m
  let e' := if e % 2 = 0 then e else e - 1
  let q := isqrt (2 ^ 200 / m')
  between false q (-e' / 2 - 100) (decide (q * q * m' ≠ 2 ^ 200))

/-- tanh x for finite non-zero x. -/
def fnTanh (neg : Bool) (m : Nat) (e : Int) : FV :=
  let lead := (Nat.log2 m : Int) + e
  if lead < -13 then .fin neg (m * 2 ^ 200 - 1) (e - 200)
  else if 6 ≤ lead then nearOne neg
  else
    let ex := expBig (2 * toFix m e)
    between neg ((ex - 2 ^ 320) * 2 ^ 200 / (ex + 2 ^ 320)) (-200) true

/-- 1 / (1 + e^-x) for finite non-zero x. -/
def fnSigmoid (neg : Bool) (m : Nat) (e : Int) : FV :=
  let lead := (Nat.log2 m : Int) + e
  if 7 ≤ lead then (if neg then .fin false 1 (-400) else nearOne false)
  else
    let ex := expBig (toFix m e)
    if neg then between false (2 ^ 320 * 2 ^ 320 / (ex + 2 ^ 320)) (-320) true
    else between false (ex * 2 ^ 320 / (ex + 2 ^ 320)) (-320) true

/-- The functions of VFN. -/
inductive Fn where
  | exp2 | log2 | rcp | rsqrt | tanh | sigmoid
  deriving DecidableEq, Repr

/-- The value of a function, the special results of R35 included. -/
def Fn.apply : Fn → FV → FV
  | _, .nan => .nan
  | .exp2, .inf n => if n then .fin false 0 0 else .inf false
  | .exp2, .fin n m e => if m = 0 then .fin false 1 0 else fnExp2 n m e
  | .log2, .inf n => if n then .nan else .inf false
  | .log2, .fin n m e => if m = 0 then .inf true else if n then .nan else fnLog2 m e
  | .rcp, .inf n => .fin n 0 0
  | .rcp, .fin n m e => if m = 0 then .inf n else fnRcp n m e
  | .rsqrt, .inf n => if n then .nan else .fin false 0 0
  | .rsqrt, .fin n m e => if m = 0 then .inf n else if n then .nan else fnRsqrt m e
  | .tanh, .inf n => .fin n 1 0
  | .tanh, .fin n m e => if m = 0 then .fin n 0 0 else fnTanh n m e
  | .sigmoid, .inf n => if n then .fin false 0 0 else .fin false 1 0
  | .sigmoid, .fin n m e => if m = 0 then .fin false 1 (-1) else fnSigmoid n m e

/-- A lane of VFN. -/
def lFn (fn : Fn) (a : Nat) : LR := fFP32.round (fn.apply (fFP32.val a))

/-! MX blocks (R31, R32). -/

/-- An element format: its layout, its width, the exponent of its largest power of two. -/
structure Elem where
  fmt : Fmt
  emax : Int
  deriving DecidableEq, Repr
def Elem.width (x : Elem) : Nat := x.fmt.width

/-- MX element formats by their code; reserved codes are code 0 (R53, R61). -/
def mxElem (k : Nat) : Elem :=
  if k = 1 then ⟨fE5M2, 15⟩ else if k = 2 then ⟨fE3M2, 4⟩ else if k = 3 then ⟨fE2M3, 2⟩ else if k = 4 then ⟨fE2M1, 2⟩
  else ⟨fE4M3, 8⟩

/-- The scale exponent of a block (R32). -/
def blockExp (x : Elem) (vs : List FV) : Int :=
  match vs.filterMap FV.lead with
  | [] => 0
  | l :: ls => max (-127) (min 127 (ls.foldl max l - x.emax))

/-- One block of 32 elements: scale byte, elements, flags. `mode` gives the rounding of the element at a position. -/
def mxBlock (x : Elem) (mode : Nat → RMode) (vs : List FV) : Nat × List Nat × BitVec 4 :=
  if vs.any (fun v => decide (v = .nan)) then (0xFF, vs.map (fun _ => 0), flInvalid)
  else
    let k := blockExp x vs
    let rs := (List.zip (List.range vs.length) vs).map (fun p => x.fmt.encode (mode p.1) true true (p.2.scale (-k)))
    ((k + 127).toNat, rs.map (·.1), rs.foldl (fun f r => f ||| r.2) 0)

/-- Elements of `w` bits packed least significant bit first (R63). -/
def packBits (w : Nat) (xs : List Nat) : Nat := xs.foldr (fun x acc => x % 2 ^ w + 2 ^ w * acc) 0
/-- `n` elements of `w` bits unpacked. -/
def unpackBits (w n x : Nat) : List Nat := (List.range n).map (fun i => bitsOf x (w * i) w)

end Sys2Proof.Machine
end

