-- ==== Sys2Proof/Machine/Flags.lean ====
section
/-! DEFINITION. The sticky flags of a tile (R36, R60): how results enter them. The conditions themselves are computed with the
results in Arith.lean. -/

namespace Sys2Proof.Machine

/-- Flags are added to those of tile `t`; nothing clears a flag here. -/
def State.addFlags (s : State) (t : Nat) (f : BitVec 4) : State :=
  s.setTile t { s.tile t with flags := (s.tile t).flags ||| f }

/-- Flags whose condition arose in an operation of which no rule says that it records it: each is added or not, as a free
value of the operation and its operands says (R36; log 23, DEDUCED). -/
def State.mayFlags (s : State) (t op : Nat) (xs : List Nat) (f : BitVec 4) : State :=
  s.addFlags t (f &&& Config.openFlags op xs)

/-- The flags of one result of operation `op` on operands `xs`. -/
def State.noteFlags (s : State) (t op : Nat) (xs : List Nat) (r : LR) : State := (s.addFlags t r.set).mayFlags t op xs r.may

/-- The flags of the results of all lanes of operation `op` on operands `xs`. -/
def State.noteLanes (s : State) (t op : Nat) (xs : List Nat) (rs : List LR) : State :=
  (s.addFlags t (orSet rs)).mayFlags t op xs (orMay rs)

end Sys2Proof.Machine
end

