-- ==== Sys2Proof/Machine/Operands.lean ====
section
/-! DEFINITION. What every tile instruction shares: when a tile issues (R51–R53, R58), its registers (R48), its tile store
with the error rules (R26, R27, R54, R55), and the ends of an instruction (R56). -/

namespace Sys2Proof.Machine

/-! Registers of a tile. -/

/-- s[i]; s0 reads as zero. -/
def Tile.sreg (x : Tile) (i : Nat) : Word := if i = 0 then 0 else SMap.get 0 x.s i
/-- s[i] written; writes to s0 are discarded. -/
def Tile.setS (x : Tile) (i : Nat) (v : Word) : Tile := if i = 0 then x else { x with s := SMap.set 0 x.s i v }
/-- The vector register a field names: bit 4 is treated as 0 (R53). -/
def vnum (r : BitVec 5) : Nat := r.toNat % 16
/-- The 256 lanes of a vector register. -/
def Tile.vreg (x : Tile) (r : BitVec 5) : List Nat := (SMap.getList 0 x.v (256 * vnum r) 256).map (·.toNat)
/-- The lanes of a vector register written. -/
def Tile.setV (x : Tile) (r : BitVec 5) (l : List Nat) : Tile :=
  { x with v := SMap.setList 0 x.v (256 * vnum r) ((l.take 256).map (BitVec.ofNat 32)) }

def State.sreg (s : State) (t : Nat) (r : BitVec 5) : Word := (s.tile t).sreg r.toNat
def State.setS (s : State) (t : Nat) (r : BitVec 5) (v : Word) : State := s.setTile t ((s.tile t).setS r.toNat v)
def State.vreg (s : State) (t : Nat) (r : BitVec 5) : List Nat := (s.tile t).vreg r
def State.setV (s : State) (t : Nat) (r : BitVec 5) (l : List Nat) : State := s.setTile t ((s.tile t).setV r l)

/-! Issue. -/

/-- The number of an operation for what its flags are where no rule decides them (R36): MAJOR and MINOR, and the mode in which it
works. -/
def opNumber (i : Instr) (md : Nat) : Nat := ((encodeTile i).getD 0).toNat / 2 ^ 52 * 16 + md % 16

/-- Tiles issue: the schedule runs, or a restore step does (R87); none does while RESET_N is low (R381). -/
def State.tilesRun (s : State) : Bool := s.pins.resetN && (s.schedSt == 3 || (s.schedSt == 4 && s.sched.restoring))

/-- The tile is at an instruction: it runs or waits at one. -/
def Tile.live (x : Tile) : Bool := !x.pastEnd && (x.st == .running || x.st == .lrecv || x.st == .swait || x.st == .fence)

/-- The tile counts against the hang limit: it is neither done with the step nor waiting on a link receive or a sync object (R44). -/
def Tile.busyNow (x : Tile) : Bool := x.st == .running || x.st == .fence

/-- The key of an instruction-store word. -/
def istoreKey (t pc : Nat) : Nat := t * 32768 + pc

/-- The instruction word at the PC of tile `t`. -/
def State.fetched (s : State) (t : Nat) : Word := SMap.get 0 s.istore (istoreKey t (s.tile t).pc.toNat)

/-- The state after the fetch: a single-bit error of the word is corrected and counted (R26). -/
def State.fetchOk (s : State) (t : Nat) : State :=
  let k := istoreKey t (s.tile t).pc.toNat
  if SMap.get 0 s.isErr k = 0 then s
  else ({ s with isErr := SMap.set 0 s.isErr k 0 } : State).bump GLB_TSTORE_ECC.CE

/-- Tile `t` issues instruction `i`: it is at an instruction, and the word there is `i`. An uncorrectable word raises
ISTORE_UE and nothing of it runs (R43). Where another word stands there, nothing happens (log 7, DESIGN CHOICE). -/
def State.issue (s : State) (t : Fin 192) (i : Instr) (g : State → State) : State :=
  if !(s.tilesRun && (s.tile t).live) then s
  else if SMap.get 0 s.isErr (istoreKey t (s.tile t).pc.toNat) = 2 then s.tileFault t 2
  else if decodeTile s.part.hz t (s.fetched t) = i then g (s.fetchOk t)
  else s

/-- The instruction completes and the PC advances; past 32,767 the tile has run off its store (R56). -/
def State.advance (s : State) (t : Nat) : State :=
  let x := s.tile t
  s.setTile t (if x.pc.toNat = 32767 then { x with st := .running, pastEnd := true }
    else { x with st := .running, pc := x.pc + 1 })

/-- A branch is taken. -/
def State.jump (s : State) (t : Nat) (target : Nat) : State :=
  s.setTile t { s.tile t with st := .running, pc := BitVec.ofNat 15 target }

/-- The tile waits at the instruction, which is issued again. -/
def State.waitAt (s : State) (t : Nat) (st : TileSt) : State := s.setTile t { s.tile t with st := st }

/-! Tile store. -/

/-- Bytes of one tile's store, and of the package tile store (R55). -/
def tsSize : Nat := 0x400000
def pkgSize : Nat := 0x30000000

/-- An address with its low `k` bits cleared (R54). -/
def clearLow (k a : Nat) : Nat := a / 2 ^ k * 2 ^ k

/-- A range of the tile's own store reaches beyond it; an empty range never does (R54). An address is the 64-bit sum of its terms, taken
modulo 2^64 before this check (log 212, DEDUCED). -/
def badRange (r : Nat × Nat) : Bool := decide (0 < r.2) && decide (tsSize < r.1 + r.2)

/-- A range of the tile's own store in package addresses. -/
def ownRange (t : Nat) (r : Nat × Nat) : Nat × Nat := (t * tsSize + r.1, r.2)

/-- Two ranges share a 64-byte block (R58). -/
def overlap (a b : Nat × Nat) : Bool :=
  decide (0 < a.2) && decide (0 < b.2) && decide (a.1 / 64 ≤ (b.1 + b.2 - 1) / 64) && decide (b.1 / 64 ≤ (a.1 + a.2 - 1) / 64)

/-- The package tile-store ranges an outstanding operation reads or writes. -/
def TileOp.ranges (o : TileOp) (t : Nat) : List (Nat × Nat) :=
  match o.kind with
  | .hbmRd => [ownRange t (o.dst, o.len)]
  | .hbmWr => [ownRange t (o.src, o.len)]
  | .tsRd => [ownRange t (o.dst, o.len), (o.src, o.len)]
  | .tsWr => [ownRange t (o.src, o.len), (o.dst, o.len)]
  | .gthRd => [ownRange t (o.dst, o.len)]
  | .lsend => [ownRange t (o.src, o.len)]
  | .signal => []
  | .remoteSignal => []
  | .hzload => [ownRange t (o.src, 16384)]
  | .hzstream => [ownRange t (o.src, 128 * o.len), ownRange t (o.dst, 256 * o.len)]

/-- A range that an outstanding operation of the tile holds (R58). -/
def State.heldUp (s : State) (t : Nat) (rs : List (Nat × Nat)) : Bool :=
  (s.tile t).ops.any (fun o => (o.ranges t).any (fun r => rs.any (overlap r)))

/-- The first and last word of a range that it covers in part (R27). -/
def partialWords (r : Nat × Nat) : List (Nat × Nat) :=
  if r.2 = 0 then []
  else
    (if r.1 % 8 ≠ 0 then [(r.1 / 8 * 8, 8)] else []) ++
    (if (r.1 + r.2) % 8 ≠ 0 then [((r.1 + r.2) / 8 * 8, 8)] else [])

/-- The word lies in one of the ranges, in part at least. -/
def wordIn (rs : List (Nat × Nat)) (w : Nat) : Bool :=
  rs.any (fun r => decide (0 < r.2) && decide (r.1 / 8 ≤ w) && decide (w ≤ (r.1 + r.2 - 1) / 8))

/-- Some word read has a double-bit error. -/
def State.tsBad (s : State) (rs : List (Nat × Nat)) : Bool := s.tsErr.any (fun p => decide (2 ≤ p.2) && wordIn rs p.1)

/-- Words read with a single-bit error are corrected, written back and counted (R26). -/
def State.tsCorrect (s : State) (rs : List (Nat × Nat)) : State :=
  let hit (p : Nat × Nat) : Bool := p.2 == 1 && wordIn rs p.1
  ({ s with tsErr := s.tsErr.filter (fun p => !hit p) } : State).bump GLB_TSTORE_ECC.CE 0 0 (s.tsErr.filter hit).length

/-- Bytes of package tile store. -/
def State.tsRead (s : State) (a n : Nat) : List Byte := s.tstore.read a n

/-- Bytes written to package tile store; words written whole hold no error. -/
def State.tsWrite (s : State) (a : Nat) (bs : List Byte) : State :=
  { s with tstore := s.tstore.write a bs, tsErr := SMap.clear s.tsErr ((a + 7) / 8) (max ((a + 7) / 8) ((a + bs.length) / 8)) }

/-- A read of package tile store with the error rules: TSTORE_UE on tile `t` where a word cannot be corrected. -/
def State.readOk (s : State) (t : Nat) (rs : List (Nat × Nat)) (g : State → State) : State :=
  let s1 := s.tsCorrect rs
  if s1.tsBad rs then s1.tileFault t 1 else g s1

/-- An instruction that reads and writes ranges of its tile's store: ADDR_RANGE where one reaches beyond it, a wait where an
outstanding operation holds one, TSTORE_UE where a word it must read cannot be corrected (R27, R54, R58). -/
def State.access (s : State) (t : Nat) (rd wr : List (Nat × Nat)) (g : State → State) : State :=
  if (rd ++ wr).any badRange then s.tileFault t 4
  else if s.heldUp t ((rd ++ wr).map (ownRange t)) then s
  else s.readOk t (rd.map (ownRange t) ++ (wr.map (ownRange t)).flatMap partialWords) g

/-- A little-endian number of `n` bytes in the tile's store. -/
def State.loadN (s : State) (t a n : Nat) : Nat := leNat (s.tsRead (t * tsSize + a) n)
/-- The same, written. -/
def State.storeN (s : State) (t a n v : Nat) : State := s.tsWrite (t * tsSize + a) (leBytes n v)

end Sys2Proof.Machine
end

