-- ==== Sys2Proof/Machine/StepOps.lean ====
section
/-! DEFINITION. The step counter, the step in hand, its freeboard and its joins (R40, R69, R78, R80), the channels and slots of
the resident image (R65, R66, R74, R75). -/

namespace Sys2Proof.Machine

/-! The step counter (R78, R80). -/

/-- The machine tick count. -/
def State.mtick (s : State) : Nat := s.get TIM_MTICK.TICKS

/-- What the machine tick count is ahead of the step counter: the step offset, but in a restore step, which counts on its own (R81;
log 34, DEDUCED). -/
def State.stepOffset (s : State) : Nat := if s.sched.restoring then s.sched.restoreOff else s.get GLB_STEP_OFFSET.OFFSET

/-- The step counter: the machine tick count minus the step offset; while held it stands still. -/
def State.stepCount (s : State) : Nat := s.sched.frozen.getD ((s.mtick + 2 ^ 64 - s.stepOffset) % 2 ^ 64)

/-- The number of the current step. -/
def State.stepNo (s : State) : Nat := s.get GLB_STEP_NOW.STEP

/-- The step-table entry of step `n` (R71). -/
def Image.step (im : Image) (n : Nat) : Option StepE := im.steps[n % im.steps.length]?
/-- Steps of the whole schedule. -/
def Image.total (im : Image) : Nat := im.steps.length * im.iterations
/-- The entry of the current step. -/
def State.curStep (s : State) : Option StepE := s.sched.image.bind (fun im => im.step s.stepNo)

/-- The budget of the step in hand: that of a restore step is RESTORE_BUDGET (R85). -/
def State.budget (s : State) : Nat :=
  match s.curStep with
  | some e => if s.sched.restoring then e.restoreBudget else e.budget
  | none => 0
def State.horizon (s : State) : Nat := (s.sched.image.map (·.horizon)).getD 0
/-- The boundary of the step in hand (R78). -/
def State.boundary (s : State) : Nat := s.sched.startVal + s.budget + s.horizon
/-- What the counter reads for a join that arrives now: while it is held, what it reads at the resume (R40). -/
def State.joinCount (s : State) : Nat := if s.sched.frozen.isSome && s.sched.late then s.sched.startVal else s.stepCount
/-- The freeboard of the step were it to end now (R40). -/
def State.freeboard (s : State) : Int := (s.budget : Int) - ((s.joinCount : Int) - s.sched.startVal)
/-- A boundary that is held stops the step counter there (R80). -/
def State.stopAtBoundary (s : State) : State :=
  if (s.schedSt == 3 || s.sched.restoring) && s.sched.frozen.isNone && !s.sched.holds.isEmpty && decide (s.boundary ≤ s.stepCount)
  then ({ s with sched := { s.sched with frozen := some s.boundary } } : State).put GLB_STEP_STATE.HELD 1
  else s

/-! Engines of the schedule (R94, R95). -/

/-- The polder of the resident image. -/
def State.owner (s : State) : Nat := (s.sched.image.map (·.owner)).getD 0

/-- An engine is assigned to the resident schedule in schedule mode: one that has been disabled stays so until its batch is over. -/
def State.schedEngine (s : State) (n : Nat) : Bool :=
  s.sched.image.isSome && s.get GTH_ASSIGN.OWNER n == s.owner && s.get GTH_QUEUE_CFG.MODE n == 0 &&
    (s.bit GTH_ASSIGN.EN n || (s.engine n).batch.isSome)
def State.schedEngines (s : State) : List Nat := (List.range 16).filter s.schedEngine

/-! Completion (R40, R69). -/

/-- The tile reports done for the step in hand. -/
def Tile.done (x : Tile) : Bool := x.st == .complete || x.st == .retired || x.st == .off
/-- Every tile of a cluster reports done. -/
def State.clusterDone (s : State) (c : Nat) : Bool := (List.range 12).all (fun i => (s.tile (12 * c + i)).done)
/-- Every cluster of a tile die reports done. -/
def State.dieDone (s : State) (die : Nat) : Bool := (List.range 8).all (fun i => s.clusterDone (8 * die + i))

/-- A cluster that is done reports it once, and its freeboard is measured (R40). -/
def State.clusterReport (s : State) (c : Nat) : State :=
  if s.clusterDone c && !(s.sched.clusterFb.any (fun p => p.1 == c)) then
    { s with sched := { s.sched with clusterFb := s.sched.clusterFb ++ [(c, s.freeboard)] } }
  else s

/-- A tile ends its part of the step. -/
def State.finishTile (s : State) (t : Nat) (st : TileSt) : State := (s.waitAt t st).clusterReport (t / 12)

/-! Outstanding operations (R57, R58). -/

/-- A tile's operation with serial number `id`. -/
def Tile.op (x : Tile) (id : Nat) : Option TileOp := x.ops.find? (fun o => o.id == id)
/-- An operation has finished. -/
def State.endOp (s : State) (t id : Nat) : State :=
  s.setTile t { s.tile t with ops := (s.tile t).ops.filter (fun o => o.id != id) }
/-- The operation crosses its cluster's port; tiles of one cluster exchange tile-store data without it (spec/02, "Tiles and
clusters"). -/
def TileOp.usesPort (o : TileOp) (t : Nat) : Bool :=
  let away (a : Nat) : Bool := a / tsSize / 12 != t / 12 || (a + o.len - 1) / tsSize / 12 != t / 12
  match o.kind with
  | .tsRd => away o.src
  | .tsWr => away o.dst
  | _ => true

/-- The cluster port grants an operation of tile `t`: the rotating pointer moves past the winner in tile-id order (R25). A command is one
instant, so that no two requests meet (log 9). -/
def State.portGrant (s : State) (t : Nat) (o : TileOp) : State :=
  if o.usesPort t then { s with portPtr := SMap.set 0 s.portPtr (t / 12) ((t % 12 + 1) % 12) } else s

/-- An operation is issued, with the index of its instruction, and the tile goes on. -/
def State.addOp (s : State) (t : Nat) (o : TileOp) : State :=
  ((s.setTile t { s.tile t with
      ops := (s.tile t).ops ++ [{ o with id := (s.tile t).nextOp, pc := (s.tile t).pc.toNat }],
      nextOp := (s.tile t).nextOp + 1 }).portGrant t o).advance t

/-- No operation of the tile on the same stream or channel was issued before this one and is still outstanding: those finish in program
order, since each is one ordered stream (R50, R65, R104). -/
def Tile.firstOf (x : Tile) (o : TileOp) : Bool :=
  ((x.ops.find? (fun p => p.kind == o.kind && p.arg == o.arg)).map (·.id)) == some o.id
/-- The tile waits until it has no outstanding operation of the kinds. -/
def State.fence (s : State) (t : Nat) (ks : List OpKind) : State :=
  if (s.tile t).ops.any (fun o => ks.contains o.kind) then s.waitAt t .fence else s.advance t

/-- An asynchronous instruction issues: at most 16 operations are outstanding, a seventeenth waits; a range beyond the store
raises ADDR_RANGE; an overlap with an outstanding operation waits (R54, R58). `pk`: ranges of the package tile store. -/
def State.issueAsync (s : State) (t : Fin 192) (i : Instr) (own pk : List (Nat × Nat)) (g : State → State) : State :=
  s.issue t i (fun s =>
    if own.any badRange || pk.any (fun r => decide (0 < r.2) && decide (pkgSize < r.1 + r.2)) then s.tileFault t 4
    else if 16 ≤ (s.tile t).ops.length || s.heldUp t (own.map (ownRange t) ++ pk) then s
    else g s)

/-! Channels and slots. -/

/-- The peer rank of a rule of R74 for rank `r`. -/
def Image.peer (im : Image) (r rule : Nat) (p : Int) : Nat :=
  let n := im.packages
  let g := im.groupSize
  match rule with
  | 1 => (((r : Int) + p) % n).toNat
  | 2 => ((BitVec.ofNat 32 r) ^^^ (BitVec.ofInt 32 p)).toNat
  | 3 => g * (r / g) + (((r % g : Nat) : Int) + p) % g |>.toNat
  | 4 => g * ((((r / g : Nat) : Int) + p) % im.groups).toNat + r % g
  | _ => r

/-- The channel of the resident image with a number. -/
def State.chan (s : State) (n : Nat) : Option Chan := s.sched.image.bind (fun im => im.chans[n]?)
/-- The rank at the far end of a channel. -/
def State.chanPeer (s : State) (c : Chan) : Nat :=
  match s.sched.image with
  | some im => im.peer s.rank c.rule c.p
  | none => s.rank
/-- The sync object of a slot of the resident image. -/
def State.slotObj (s : State) (n : Nat) : Option Nat := s.sched.image.bind (fun im => im.slots[n]?)
/-- Bytes that have arrived on a channel. -/
def State.chanBytes (s : State) (n : Nat) : List Byte := (SMap.get [] s.chanRx n).flatMap (·.2)
/-- Bytes arrive on a channel, by a link (plus one) or from this package (0). -/
def State.chanPush (s : State) (n frm : Nat) (bs : List Byte) : State :=
  if bs.isEmpty then s else { s with chanRx := SMap.set [] s.chanRx n (SMap.get [] s.chanRx n ++ [(frm, bs)]) }

/-- The slots of a channel after its first `n` bytes have been taken, and the links whose slots that empties. -/
def takeSlots : Nat → List (Nat × List Byte) → List (Nat × List Byte) × List Nat
  | _, [] => ([], [])
  | n, (k, bs) :: rest =>
    if n = 0 then ((k, bs) :: rest, [])
    else if n < bs.length then ((k, bs.drop n) :: rest, [])
    else
      let r := takeSlots (n - bs.length) rest
      (r.1, k :: r.2)

/-- The first `n` bytes of a channel are taken; slots emptied return their credits (R65, R158). -/
def State.chanTake (s : State) (c n : Nat) : State :=
  let r := takeSlots n (SMap.get [] s.chanRx c)
  ({ s with chanRx := SMap.set [] s.chanRx c r.1 } : State).each (r.2.filter (fun k => k != 0)) (fun s k =>
    s.freeSlots (k - 1) 1 1)

/-! Regions (R75, R280). -/

/-- The page at a device-virtual address lies in a region of the schedule with the access; bits [63:48] of an address are growth bits
and ignored (R8, R271). -/
def Image.mayTouch (im : Image) (va : Nat) (write : Bool) : Bool :=
  im.regions.any (fun r => decide (r.base % 2 ^ 48 ≤ va % 2 ^ 48) && decide (va % 2 ^ 48 < r.base % 2 ^ 48 + r.len) &&
    (if write then r.wr else r.rd))
/-- Every page of a range does. -/
def Image.mayRange (im : Image) (va n : Nat) (write : Bool) : Bool :=
  (List.range ((va % 4096 + n + 4095) / 4096)).all (fun i => im.mayTouch (va / 4096 * 4096 + 4096 * i) write)

/-- A schedule meets an uncorrectable unit: the same unit a second time before the next berm record costs the package its
rank's state (R286). -/
def State.unitFault (s : State) (u : Nat) : State :=
  { s with sched := { s.sched with faultUnits := u :: s.sched.faultUnits.filter (fun v => v != u),
                                   lost := s.sched.lost || s.sched.faultUnits.contains u } }

end Sys2Proof.Machine
end

