-- ==== Sys2Proof/Machine/Clock.lean ====
section
/-! DEFINITION. One XD core clock period (R212): what passes with time whatever is commanded. It is what a step does when
no command waits (log 6, DESIGN CHOICE). -/

namespace Sys2Proof.Machine

/-- Seconds of a base are held in 48 bits (R212). -/
def baseSpan : Nat := 2 ^ 48 * 1000000000 * 65536

/-- A base advances by 0.64 ns × (1 + FREQ_ADJ × 2^-8 × 10^-9), carried to 2^-16 ns (R212); what is below that unit is kept
in 1/6,400,000,000,000 of it. -/
def Base.advance (b : Base) : Base :=
  let n := b.frac + (1048576 * (256000000000 + b.freq)).toNat
  { b with t := (b.t + n / 6400000000000) % baseSpan, frac := n % 6400000000000 }

/-- The machine tick count advances by 16/25 of a tick, and by at most 1 in 10,000 of that toward its slew (R222). While a
boundary is held, GLB_STEP_HELD counts the ticks (R80). -/
def State.tickMachine (s : State) : State :=
  let adj := max (-256) (min 256 s.slew)
  let n := (2560000 + (s.tickFrac : Int) + adj).toNat
  let k := n / 4000000
  let s1 := { s with tickFrac := n % 4000000, slew := s.slew - adj }
  let s2 := s1.put TIM_MTICK.TICKS (s1.get TIM_MTICK.TICKS + k)
  s2.when (s.bit GLB_STEP_STATE.HELD) (fun s => s.put GLB_STEP_HELD.TICKS (s.get GLB_STEP_HELD.TICKS + k))

/-- The backup-domain counter runs on its own crystal, in steps of 2^-15 s, while VBAT feeds it (R225). -/
def State.tickBackup (s : State) : State :=
  if s.vbat then
    let n := s.bkFrac + 1024
    { s with bkCount := s.bkCount + n / 48828125, bkFrac := n % 48828125 }
  else s

/-- Each tile that is busy in the step in hand has been so for a period longer (R44). -/
def State.tickBusy (s : State) : State :=
  if s.tilesRun then
    { s with tiles := SMap.mapVal {} (fun x => if x.busyNow then { x with busy := x.busy + 1 } else x) s.tiles }
  else s

/-- Bytes of a closing polder's HBM that are zeroed in a period of 0.64 ns: 4 TB/s, 2 TB/s on an LHN-1H, the least of R237 (log 236,
DESIGN CHOICE). -/
def zeroRate (p : Variant) : Nat := if p = .lhn1H then 1280 else 2560

/-- The HBM of closing polders is zeroed, and ZERO_GIB counts down (R237). -/
def State.tickZero (s : State) : State :=
  if s.zeroLeft.isEmpty then s
  else
    let s1 : State := { s with zeroLeft := SMap.mapVal 0 (fun z => max 1 (z - zeroRate s.part)) s.zeroLeft }
    s1.each (s1.zeroLeft.map (·.1)) (fun s n => s.showZero n)

/-- What runs on the clock of the XD core, D01 (R13). -/
def State.periodXd (s : State) : State :=
  (s.each (List.range 8) (fun s n => s.setBase n (s.base n).advance)).tickMachine.stopAtBoundary.tickBusy.tickZero

/-- One period of 0.64 ns. Without main power only the backup domain runs (R344), and the time bases and counters run while D01 is ON and
RESET_N is high (R381); without REFCLK the periods are those of the internal oscillator (R377). -/
def State.period (s : State) : State :=
  let s1 := s.tickBackup
  if s.mainPower then ({ s1 with clk := s1.clk + 1 } : State).when (s.get PWR_DOMAIN.STATE 1 == 3 && s.pins.resetN) State.periodXd
  else s1

end Sys2Proof.Machine
end

