-- ==== Sys2Proof/Machine/Crc.lean ====
section
/-! DEFINITION. Fields of blocks of bytes, and the checksum of images, plans and files. -/

namespace Sys2Proof.Machine

/-- `n` bytes at `off` of a block as a little-endian number. -/
def numAt (bs : List Byte) (off n : Nat) : Nat := leNat ((bs.drop off).take n)

/-- `n` bytes at `off` of a block taken as zero. -/
def zeroAt (bs : List Byte) (off n : Nat) : List Byte := bs.take off ++ List.replicate n 0 ++ bs.drop (off + n)

/-- One bit of the CRC-32C register (polynomial 0x1EDC6F41, reflected). -/
def crcBit (x : Nat) : Nat := if x % 2 = 1 then (x / 2) ^^^ 0x82F63B78 else x / 2

/-- One byte. -/
def crcByte (x : Nat) (b : Byte) : Nat := (List.range 8).foldl (fun x _ => crcBit x) (x ^^^ b.toNat)

/-- CRC-32C of a block. -/
def crc32c (bs : List Byte) : Nat := (bs.foldl crcByte 0xFFFFFFFF) ^^^ 0xFFFFFFFF

end Sys2Proof.Machine
end

