-- ==== Sys2Proof/Machine/GatherOps.lean ====
section
/-! DEFINITION. Tables, batch commands, rows, pooling and the optimiser (R96–R102, R114–R117), and the hot-row cache (R110). -/

namespace Sys2Proof.Machine

/-! FP32 operations rounded once (R30). -/

def fpAdd (a b : Nat) : Nat := (lAdd .fp32 false a b).bits
def fpSub (a b : Nat) : Nat := (lSub .fp32 false a b).bits
def fpMul (a b : Nat) : Nat := (lMul .fp32 a b).bits
def fpFma (a b c : Nat) : Nat := (lFma .fp32 false a b c).bits
def fpNeg (a : Nat) : Nat := (lNeg .fp32 false a).bits
/-- A whole number as FP32. -/
def fpNat (n : Nat) : Nat := (fFP32.round (.fin false n 0)).bits

/-- The quotient, rounded once. -/
def fpDiv (a b : Nat) : Nat :=
  (fFP32.round (match fFP32.val a, fFP32.val b with
    | .nan, _ => .nan
    | _, .nan => .nan
    | .inf _, .inf _ => .nan
    | .inf n, .fin k _ _ => .inf (n != k)
    | .fin n _ _, .inf k => .fin (n != k) 0 0
    | .fin n m e, .fin k m' e' =>
      if m' = 0 then (if m = 0 then .nan else .inf (n != k))
      else if m = 0 then .fin (n != k) 0 0
      else
        let j := Nat.log2 m' + 64
        between (n != k) (m * 2 ^ j / m') (e - e' - j) (m * 2 ^ j % m' != 0))).bits

/-- The square root, rounded once. -/
def fpSqrt (a : Nat) : Nat :=
  (fFP32.round (match fFP32.val a with
    | .nan => .nan
    | .inf n => if n then .nan else .inf false
    | .fin n m e =>
      if m = 0 then .fin n 0 0
      else if n then .nan
      else
        let x := (if e % 2 = 0 then m else 2 * m) * 2 ^ 120
        let h := (if e % 2 = 0 then e else e - 1) / 2
        between false (isqrt x) (h - 60) (decide (isqrt x * isqrt x ≠ x)))).bits

/-- A finite FP32 value. -/
def fpFinite (a : Nat) : Bool :=
  match fFP32.val a with
  | .fin _ _ _ => true
  | _ => false

/-! Tables (R96). -/

def up (n k : Nat) : Nat := (n + k - 1) / k * k
def clampN (lo hi v : Nat) : Nat := max lo (min hi v)

def tElem (t : List Byte) : Nat := if 6 < numAt t 1 1 then 0 else numAt t 1 1
def tCache (t : List Byte) : Bool := numAt t 2 1 % 2 == 1
def tFrozen (t : List Byte) : Bool := numAt t 2 1 / 2 % 2 == 1
def tScale32 (t : List Byte) : Bool := numAt t 2 1 / 4 % 2 == 1
def tShard (t : List Byte) : Nat := if 2 < numAt t 3 1 % 16 then 0 else numAt t 3 1 % 16
def tRemap (t : List Byte) : Nat := if 2 < numAt t 3 1 / 16 then 0 else numAt t 3 1 / 16
def tDim (t : List Byte) : Nat := clampN 1 4096 (numAt t 4 2)
def tRows (t : List Byte) : Nat := clampN 1 (2 ^ 48) (numAt t 8 8)
def tBase (t : List Byte) : Nat := numAt t 0x10 8 / 16 * 16
def tFirst (t : List Byte) : Nat := min 32767 (numAt t 0x18 4)
def tRanks (t : List Byte) : Nat := clampN 1 32768 (numAt t 0x1C 4)
def tRemapLen (t : List Byte) : Nat := min (2 ^ 48) (numAt t 0x20 8)
def tRemapArg (t : List Byte) : Nat := numAt t 0x28 8
def tOov (t : List Byte) : Nat := min (tRows t - 1) (numAt t 0x30 8)
def tState (t : List Byte) : Nat := numAt t 0x38 8 / 4 * 4

/-- Bits of an element by format. -/
def elemBits (e : Nat) : Nat := [32, 16, 16, 8, 8, 8, 4].getD e 32
/-- The floating-point format of formats 0–4. -/
def elemFmt (e : Nat) : Fmt := [fFP32, fBF16, fFP16, fE4M3, fE5M2].getD e fFP32

/-- Bytes of a row's elements, the offset of its trailer, the size of one trailer value, the row size, the stride (R96, R97). -/
def tElemBytes (t : List Byte) : Nat := (tDim t * elemBits (tElem t) + 7) / 8
def tTrailer (t : List Byte) : Nat := up (tElemBytes t) 4
def tScaleBytes (t : List Byte) : Nat := if tScale32 t then 4 else 2
def tRowSize (t : List Byte) : Nat := up (if tElem t < 5 then tElemBytes t else tTrailer t + 2 * tScaleBytes t) 16
def tStride (t : List Byte) : Nat := max (tRowSize t) (clampN 16 65520 (up (numAt t 6 2) 16))

/-- The hash of R99. -/
def rowHash (id remap : Nat) : Nat :=
  let h := BitVec.ofNat 64 id * 0x9F4A3C17D2B586E1#64
  let h := h ^^^ (h >>> 32)
  let h := h ^^^ BitVec.ofNat 64 remap
  let h := h * 0xE7C35B2148AD9F63#64
  (h ^^^ (h >>> 29)).toNat

/-- Owner rank and local row of a row id (R98), in a machine of `n` packages, for the package of rank `r`. -/
def rowHome (t : List Byte) (r n row : Nat) : Nat × Nat :=
  match tShard t with
  | 1 => ((tFirst t + row % tRanks t) % n, row / tRanks t)
  | 2 =>
    let p := (tRows t + tRanks t - 1) / tRanks t
    ((tFirst t + row / p) % n, row - p * (row / p))
  | _ => (r, row)

/-! Batch commands (R100). -/

def bPool (c : List Byte) : Nat := if 4 < numAt c 2 1 then 1 else numAt c 2 1
def bOut (c : List Byte) : Nat := if 3 < numAt c 3 1 % 16 then 0 else numAt c 3 1 % 16
def bGrad (c : List Byte) : Nat := if numAt c 3 1 / 16 = 1 then 1 else 0
def bTile (c : List Byte) : Nat := min 191 (numAt c 4 2)
def bDone (c : List Byte) : Nat := numAt c 6 2
def bTable (c : List Byte) : Nat := numAt c 8 4
def bBags (c : List Byte) : Nat := clampN 1 65536 (numAt c 0x0C 4)
def bIds (c : List Byte) : Nat := numAt c 0x10 8 / 8 * 8
def bOffsets (c : List Byte) : Nat := numAt c 0x18 8 / 4 * 4
def bWeights (c : List Byte) : Nat := numAt c 0x20 8 / 4 * 4
def bData (c : List Byte) : Nat := numAt c 0x28 8 / 64 * 64
def bLr (c : List Byte) : Nat := numAt c 0x30 4
def bEps (c : List Byte) : Nat := numAt c 0x34 4
def bSeq (c : List Byte) : Nat := numAt c 0x38 4
def bAdagrad (c : List Byte) : Bool := numAt c 0x3C 1 % 16 == 1
def bStoch (c : List Byte) : Bool := numAt c 0x3D 1 % 2 == 1
def bPin (c : List Byte) : Bool := numAt c 0x3D 1 / 2 % 2 == 1

/-- OFFSETS as they are used: the first 0, each later one from the one before it to 2^24 (R101). -/
def clampOffs (l : List Nat) : List Nat :=
  (l.drop 1).foldl (fun acc o => acc ++ [max (acc.getLast?.getD 0) (min o (2 ^ 24))]) [0]

/-! Rows (R97). -/

/-- Element `i` of a row as its bits. -/
def elemAt (t row : List Byte) (i : Nat) : Nat :=
  let w := elemBits (tElem t)
  bitsOf (numAt row (i * w / 8) ((w + 7) / 8)) (i * w % 8) w

/-- A value of the trailer, as FP32: 0 the scale, 1 the bias. -/
def trailerAt (t row : List Byte) (k : Nat) : Nat :=
  let x := numAt row (tTrailer t + k * tScaleBytes t) (tScaleBytes t)
  if tScale32 t then x else (fFP32.round (fFP16.val x)).bits

/-- The elements of a row, decoded to FP32. -/
def rowVals (t row : List Byte) : List Nat :=
  (List.range (tDim t)).map (fun i =>
    if tElem t < 5 then (fFP32.round ((elemFmt (tElem t)).val (elemAt t row i))).bits
    else
      let q := sint (elemBits (tElem t)) (elemAt t row i)
      fpFma (fFP32.round (.fin (decide (q < 0)) q.natAbs 0)).bits (trailerAt t row 0) (trailerAt t row 1))

/-! Pooling (R102). -/

/-- The pooled row of a bag: `rows` decoded, with their weights, in ascending list position. -/
def poolRows (pool dim : Nat) (rows : List (List Nat)) (wts : List Nat) : List Nat :=
  match rows with
  | [] => List.replicate dim 0
  | r :: rs =>
    match pool with
    | 3 => rs.foldl (fun acc x => List.zipWith (fun a b => (lMax .fp32 a b).bits) acc x) (r.map (fun a => (lMax .fp32 a a).bits))
    | 4 =>
      (List.zip rs (wts.drop 1)).foldl (fun acc x => List.zipWith (fun a b => fpFma x.2 b a) acc x.1)
        (r.map (fun b => fpMul (wts.headD 0) b))
    | 2 => (rs.foldl (fun acc x => List.zipWith fpAdd acc x) r).map (fun a => fpDiv a (fpNat rows.length))
    | _ => rs.foldl (fun acc x => List.zipWith fpAdd acc x) r

/-- Bytes of an output element by format (R100), and of an output row (R104). -/
def outBytes (f : Nat) : Nat := [4, 2, 2, 1].getD f 4
def outRow (f dim : Nat) : Nat := up (dim * outBytes f) 64

/-- A pooled row in the output format: nearest-even, saturating (R31). -/
def packRow (f : Nat) (vals : List Nat) : List Byte :=
  let enc (v : Nat) : Nat :=
    if f = 0 then (lMax .fp32 v v).bits
    else (([fFP32, fBF16, fFP16, fE4M3].getD f fFP32).encode .rne true false (fFP32.val v)).1
  let bs := vals.flatMap (fun v => leBytes (outBytes f) (enc v))
  bs ++ List.replicate (outRow f vals.length - bs.length) 0

/-- FP32 values of a gradient row. -/
def fpRow (bs : List Byte) (dim : Nat) : List Nat := (List.range dim).map (fun i => numAt bs (4 * i) 4)

/-! Sparse update (R114, R116, R117). -/

/-- For POOL = MAX, the position in the bag that supplied the maximum of one element: the first. -/
def maxPos (xs : List Nat) : Nat :=
  ((List.zip (List.range xs.length) xs).foldl (fun (m : Nat × Nat) p =>
    if p.1 = 0 then (p.2, 0) else if (lMax .fp32 m.1 p.2).bits != (lMax .fp32 m.1 m.1).bits then (p.2, p.1) else m) (0, 0)).2

/-- The contribution of position `i` of a bag of length `l` with gradient `g` (R114). -/
def contribution (pool l i w : Nat) (rows : List (List Nat)) (g : List Nat) : List Nat :=
  match pool with
  | 2 => g.map (fun a => fpDiv a (fpNat l))
  | 3 => (List.zip (List.range g.length) g).map (fun p => if maxPos (rows.map (fun r => r.getD p.1 0)) = i then p.2 else 0)
  | 4 => g.map (fun a => fpMul w a)
  | _ => g

/-- Contributions of equal row id merged, summed in ascending list position from the first exactly. -/
def mergeRows : List (Nat × List Nat) → List (Nat × List Nat) → List (Nat × List Nat)
  | acc, [] => acc
  | acc, (r, g) :: rest =>
    if acc.any (fun p => p.1 == r) then
      mergeRows (acc.map (fun p => if p.1 = r then (p.1, List.zipWith fpAdd p.2 g) else p)) rest
    else mergeRows (acc ++ [(r, g)]) rest

/-- A gradient in the format of the links, and back. -/
def packGrad (f : Nat) (g : List Nat) : List Byte :=
  if f = 1 then g.flatMap (fun v => leBytes 2 (fBF16.encode .rne false false (fFP32.val v)).1) else g.flatMap (leBytes 4)
def unpackGrad (f dim : Nat) (bs : List Byte) : List Nat :=
  if f = 1 then (List.range dim).map (fun i => (fFP32.round (fBF16.val (numAt bs (2 * i) 2))).bits) else fpRow bs dim

/-- Bytes of a contribution in the sort area (R114). -/
def contribBytes (f dim : Nat) : Nat := up (16 + dim * (if f = 1 then 2 else 4)) 16
/-- A contribution as it stands in the sort area and on the links: its header, its gradient, filled up to a multiple of 16 (R114). -/
def Contrib.bytes (c : Contrib) : List Byte :=
  let body := leBytes 8 c.row ++ leBytes 4 c.rank ++ leBytes 4 0 ++ c.grad
  body ++ List.replicate (up body.length 16 - body.length) 0

/-- The optimiser update of a row: the new values and the new state (R116). -/
def optimise (c : List Byte) (dim : Nat) (w g : List Nat) (st : Nat) : List Nat × Nat :=
  if bAdagrad c then
    let q := g.foldl (fun acc x => fpFma x x acc) 0
    let st' := fpAdd st (fpDiv q (fpNat dim))
    let k := fpNeg (fpDiv (bLr c) (fpAdd (fpSqrt st') (bEps c)))
    (List.zipWith (fun a b => fpFma k b a) w g, st')
  else (List.zipWith (fun a b => fpFma (fpNeg (bLr c)) b a) w g, st)

/-- Bytes with those at `off` replaced. -/
def putBytes (bs : List Byte) (off : Nat) (x : List Byte) : List Byte := bs.take off ++ x ++ bs.drop (off + x.length)

/-- The updated row in the table's format, over the old row's bytes (R117). -/
def packBack (t c old : List Byte) (loc : Nat) (w : List Nat) : List Byte :=
  let e := tElem t
  if e < 5 then
    let n := elemBits e / 8
    let enc (p : Nat × Nat) : Nat :=
      if e = 0 then p.2
      else
        let mode := if bStoch c then RMode.stoch (stochBits 0 (BitVec.ofNat 64 (bSeq c)) loc (8 * (p.1 * n))) else .rne
        ((elemFmt e).encode mode true false (fFP32.val p.2)).1
    putBytes old 0 ((List.zip (List.range w.length) w).flatMap (fun p => leBytes n (enc p)))
  else
    let lim := if e = 5 then 127 else 7
    let hi := w.foldl (fun a b => (lMax .fp32 a b).bits) (w.headD 0)
    let lo := w.foldl (fun a b => (lMin .fp32 a b).bits) (w.headD 0)
    let trim (x : Nat) : Nat := if tScale32 t then x else (fFP16.encode .rne false false (fFP32.val x)).1
    let wide (x : Nat) : Nat := if tScale32 t then x else (fFP32.round (fFP16.val x)).bits
    let scale := trim (fpDiv (fpSub hi lo) (fpNat (2 * lim)))
    let bias := trim (fpAdd (fpDiv hi (fpNat 2)) (fpDiv lo (fpNat 2)))
    let q (x : Nat) : Int :=
      if (fFP32.val (wide scale)).eq (.fin false 0 0) then 0
      else max (-lim) (min lim (sint 32 (encodeInt 32 .rne (fFP32.val (fpDiv (fpSub x (wide bias)) (wide scale)))).1))
    let qs := w.map (fun x => uint (elemBits e) (q x))
    let body := if e = 5 then qs.flatMap (leBytes 1)
      else (List.range (tElemBytes t)).flatMap (fun i => leBytes 1 (qs.getD (2 * i) 0 + 16 * qs.getD (2 * i + 1) 0))
    putBytes (putBytes old 0 body) (tTrailer t) (leBytes (tScaleBytes t) scale ++ leBytes (tScaleBytes t) bias)

/-! The hot-row cache (R110–R112). -/

/-- Sets of the cache. -/
def cacheSets : Nat := 49152

/-- A line of the cache, by set and way. -/
def State.line (s : State) (set w : Nat) : CLine := SMap.get {} s.cache (16 * set + w)
def State.setLine (s : State) (set w : Nat) (l : CLine) : State := { s with cache := SMap.set {} s.cache (16 * set + w) l }

/-- The ways of a polder: those after the lower-numbered polders'. -/
def State.ownWays (s : State) (pol : Nat) : List Nat :=
  let first := ((List.range pol).map s.waysOf).sum
  (List.range (s.waysOf pol)).map (first + ·)

/-- The way of a polder that holds the line. -/
def State.findLine (s : State) (pol set : Nat) (remote : Bool) (tag : List Nat) : Option Nat :=
  if !s.bit GTH_CACHE_CTRL.EN then none
  else (s.ownWays pol).find? (fun w => (s.line set w).remote == remote && (s.line set w).tag == tag)

/-- A hit: the use count grows, up to 15. -/
def State.hitLine (s : State) (set w : Nat) : State :=
  s.setLine set w { s.line set w with use := min 15 ((s.line set w).use + 1) }

/-- A miss: the line goes into the unpinned way of the polder with the lowest use count, and among equals the lowest. -/
def State.fillLine (s : State) (pol set : Nat) (remote : Bool) (tag : List Nat) (bs : List Byte) : State :=
  if !s.bit GTH_CACHE_CTRL.EN then s
  else
    let s1 := { s with cacheMiss := s.cacheMiss + 1 }
    match (s.ownWays pol).filter (fun w => !(s.line set w).pin) with
    | [] => s1
    | w :: ws =>
      let v := ws.foldl (fun m w => if (s.line set w).use < (s.line set m).use then w else m) w
      s1.setLine set v { remote := remote, tag := tag, bytes := bs }

/-- A line pinned, unless that leaves the polder no unpinned way in the set. -/
def State.pinLine (s : State) (pol set : Nat) (remote : Bool) (tag : List Nat) : State :=
  match s.findLine pol set remote tag with
  | none => s
  | some w =>
    if ((s.ownWays pol).filter (fun x => x != w && !(s.line set x).pin)).isEmpty then s
    else s.setLine set w { s.line set w with pin := true }

/-- One piece of a row within a 128-byte line of its own HBM, read through the cache. -/
def State.readLine (s : State) (pol va n : Nat) (pin : Bool) : MemRes (List Byte × State) :=
  match s.xlat pol va false with
  | .error e => .error e
  | .ok x =>
    if x.target ≠ 0 then (s.readAt pol va x n).map (fun bs => (bs, s))
    else
      let l := x.addr / 128
      let set := l % cacheSets
      let off := x.addr % 128
      let pinned (s : State) : State := s.when pin (fun s => s.pinLine pol set false [l])
      match s.findLine pol set false [l] with
      | some w => .ok (((s.line set w).bytes.drop off).take n, pinned (s.hitLine set w))
      | none =>
        let s1 := s.each (unitsOf (128 * l) 128) (fun s u => s.meetUnit u)
        match s1.readAt pol va x n with
        | .error e => .error e
        | .ok bs =>
          if (unitsOf (128 * l) 128).any s1.poisoned then .ok (bs, s1)
          else .ok (bs, pinned (s1.fillLine pol set false [l] (s1.hbm.read (128 * l) 128)))

/-- The pieces of a range that lie in one 128-byte line each. -/
def linePieces : Nat → Nat → Nat → List (Nat × Nat)
  | 0, _, _ => []
  | fuel + 1, va, n =>
    if n = 0 then []
    else
      let k := min n (128 - va % 128)
      (va, k) :: linePieces fuel (va + k) (n - k)

/-- A row of this package's device memory: through the cache where the table allows it. -/
def State.readRow (s : State) (pol : Nat) (cached pin : Bool) (va n : Nat) : MemRes (List Byte × State) :=
  if !cached then ((s.demand pol va n).vread pol va n).map (fun bs => (bs, s.demand pol va n))
  else
    (linePieces (n / 128 + 2) va n).foldl (fun (o : MemRes (List Byte × State)) p =>
      match o with
      | .error e => .error e
      | .ok (acc, s) => (s.readLine pol p.1 p.2 pin).map (fun r => (acc ++ r.1, r.2))) (.ok ([], s))

/-- Set and tag of line `i` of a row of another package. -/
def remoteKey (pol table owner loc i : Nat) : Nat × List Nat :=
  (rowHash (loc * 64 + i) (owner * 2 ^ 32 + pol * 2 ^ 29 + table) % cacheSets, [pol, table, owner, loc, i])

/-- The lines of a row of another package that are in the cache are hit; its bytes where all of them are. -/
def State.cachedRow (s : State) (pol table owner loc n : Nat) : Option (List Byte) × State :=
  (List.range ((n + 127) / 128)).foldl (fun (o : Option (List Byte) × State) i =>
    let (set, tag) := remoteKey pol table owner loc i
    match o.2.findLine pol set true tag with
    | none => (none, o.2)
    | some w => (o.1.map (· ++ (o.2.line set w).bytes), o.2.hitLine set w)) (some [], s)

/-- A row of another package enters the cache, as far as it is not there; its lines are pinned where asked. -/
def State.cacheRow (s : State) (pol table owner loc : Nat) (pin : Bool) (bs : List Byte) : State :=
  s.each (List.range ((bs.length + 127) / 128)) (fun s i =>
    let (set, tag) := remoteKey pol table owner loc i
    (s.when (s.findLine pol set true tag).isNone (fun s => s.fillLine pol set true tag ((bs.drop (128 * i)).take 128))).when pin
      (fun s => s.pinLine pol set true tag))

/-- A SCATTER_ADD writes through: lines that hold bytes of the range take the new ones (R111). -/
def State.writeThrough (s : State) (pol va : Nat) (bs : List Byte) : State :=
  (linePieces (bs.length / 128 + 2) va bs.length).foldl (fun s p =>
    match s.xlat pol p.1 false with
    | .error _ => s
    | .ok x =>
      let l := x.addr / 128
      let new := (bs.drop (p.1 - va)).take p.2
      if x.target ≠ 0 then s
      else s.each (List.range 16) (fun s w =>
        let ln := s.line (l % cacheSets) w
        s.when (!ln.remote && ln.tag == [l]) (fun s =>
          s.setLine (l % cacheSets) w { ln with bytes := putBytes ln.bytes (x.addr % 128) new }))) s

end Sys2Proof.Machine
end

