-- ==== Sys2Proof/Machine/Image.lean ====
section
/-! DEFINITION. The schedule image byte for byte (R70–R75) and the checks of R76. -/

namespace Sys2Proof.Machine

/-- Why an image is refused: the check code, the tile of check 0x0C, the entry or word index (R76, R263). -/
structure Refused where
  code : Nat
  index : Nat := 0
  tile : Nat := 0
  deriving DecidableEq, Repr

/-- DETAIL of IMAGE_REFUSED. -/
def Refused.detail (r : Refused) : Nat := r.code + r.tile * 256 + r.index % 2 ^ 32 * 65536

/-- The header (R71). -/
structure Header where
  magic : Nat
  fmt : Nat
  arch : Nat
  hdrSize : Nat
  size : Nat
  crc : Nat
  id : Nat
  caps : Nat
  horizon : Nat
  packages : Nat
  groups : Nat
  groupSize : Nat
  shape : Nat
  torus : List Nat
  lanePlan : Nat
  stepCount : Nat
  stepOff : Nat
  iterations : Nat
  tileOff : Nat
  chanCount : Nat
  chanOff : Nat
  slotCount : Nat
  slotOff : Nat
  regionCount : Nat
  regionOff : Nat
  bufTotal : Nat
  mirrorRule : Nat
  mirrorP : Int
  deriving DecidableEq, Repr

/-- The header of an image. -/
def Header.of (b : List Byte) : Header :=
  { magic := numAt b 0x000 4, fmt := numAt b 0x004 1 % 16, arch := numAt b 0x005 1, hdrSize := numAt b 0x006 2,
    size := numAt b 0x008 4, crc := numAt b 0x00C 4, id := numAt b 0x010 8, caps := numAt b 0x018 4,
    horizon := numAt b 0x01C 4, packages := numAt b 0x020 4, groups := numAt b 0x024 2, groupSize := numAt b 0x026 1,
    shape := numAt b 0x027 1, torus := [numAt b 0x028 2, numAt b 0x02A 2, numAt b 0x02C 2], lanePlan := numAt b 0x030 8,
    stepCount := numAt b 0x038 4, stepOff := numAt b 0x03C 4, iterations := numAt b 0x040 8, tileOff := numAt b 0x048 4,
    chanCount := numAt b 0x04C 4, chanOff := numAt b 0x050 4, slotCount := numAt b 0x054 4, slotOff := numAt b 0x058 4,
    regionCount := numAt b 0x05C 4, regionOff := numAt b 0x060 4, bufTotal := numAt b 0x064 4,
    mirrorRule := numAt b 0x070 1, mirrorP := sint 32 (numAt b 0x074 4) }

/-- A step-table entry as it stands in the image (R72). -/
structure StepRow where
  budget : Nat
  flags : Nat
  fallback : Nat
  retry : Nat
  entryOff : Nat
  restoreOff : Nat
  restoreBudget : Nat
  deriving DecidableEq, Repr

def StepRow.berm (r : StepRow) : Bool := r.flags % 2 == 1
def StepRow.classB (r : StepRow) : Bool := r.flags / 2 % 2 == 1
def StepRow.mirrored (r : StepRow) : Bool := r.flags / 4 % 2 == 1

/-- Step-table entry `i`. -/
def stepRow (b : List Byte) (h : Header) (i : Nat) : StepRow :=
  let o := h.stepOff + 32 * i
  { budget := numAt b o 4, flags := numAt b (o + 4) 2, fallback := numAt b (o + 8) 4, retry := numAt b (o + 12) 4,
    entryOff := numAt b (o + 16) 4, restoreOff := numAt b (o + 20) 4, restoreBudget := numAt b (o + 24) 4 }

/-- Tile-section entry `t` (R73). -/
def sectionOf (b : List Byte) (h : Header) (t : Nat) : Section :=
  let o := h.tileOff + 16 * t
  { off := numAt b o 4, words := numAt b (o + 4) 4, seed := BitVec.ofNat 64 (numAt b (o + 8) 8) }

/-- The 192 entries of an entry or restore table. -/
def entryTable (b : List Byte) (off : Nat) : List Nat := (List.range 192).map (fun t => numAt b (off + 2 * t) 2)

/-- A channel-table entry (R74), with its DIR as it stands there. -/
def chanRow (b : List Byte) (h : Header) (i : Nat) : Nat × Chan :=
  let o := h.chanOff + 16 * i
  (numAt b o 1,
   { send := numAt b o 1 == 0, localTile := numAt b (o + 1) 1, peerTile := numAt b (o + 2) 1, rule := numAt b (o + 3) 1,
     p := sint 32 (numAt b (o + 4) 4), buffer := numAt b (o + 8) 4, peerChan := numAt b (o + 12) 2 })

/-- A slot's object; bits [31:14] are growth bits (R75). -/
def slotRow (b : List Byte) (h : Header) (i : Nat) : Nat := numAt b (h.slotOff + 8 * i) 4 % 16384

/-- A region-table entry (R75). -/
def regionRow (b : List Byte) (h : Header) (i : Nat) : Region :=
  let o := h.regionOff + 24 * i
  { base := numAt b o 8, len := numAt b (o + 8) 8, rd := numAt b (o + 16) 1 % 2 == 1, wr := numAt b (o + 16) 1 / 2 % 2 == 1 }

/-- The first index below `n` at which a check fails. -/
def firstBad (code n : Nat) (bad : Nat → Bool) : Option Refused :=
  ((List.range n).find? bad).map (fun i => { code := code, index := i })

/-- A check without an index. -/
def failIf (code : Nat) (bad : Bool) : Option Refused := if bad then some { code := code } else none

/-- A table of `count` entries of `unit` bytes is misplaced. -/
def tableBad (h : Header) (off count unit : Nat) : Bool :=
  count != 0 && (off % 8 != 0 || decide (h.size < off + count * unit))

/-- Every peer a rule of R74 names is a rank of the machine. -/
def ruleOk (h : Header) (rule : Nat) (p : Int) : Bool :=
  decide (rule ≤ 4) && (rule != 2 || (List.range h.packages).all (fun r =>
    decide (((BitVec.ofNat 32 r) ^^^ (BitVec.ofInt 32 p)).toNat < h.packages)))

/-- Check 0x02, HEADER. -/
def checkHeader (b : List Byte) (h : Header) : Option Refused :=
  ((failIf 2 (h.magic != 0x4953484C || h.hdrSize != 256 || h.size != b.length ||
      tableBad h h.stepOff h.stepCount 32 || tableBad h h.tileOff 192 16 || tableBad h h.chanOff h.chanCount 16 ||
      tableBad h h.slotOff h.slotCount 8 || tableBad h h.regionOff h.regionCount 24)).or
    (firstBad 2 192 (fun t =>
      let e := sectionOf b h t
      e.off % 8 != 0 || (e.words != 0 && decide (h.size < e.off + 8 * e.words))))).or
    (firstBad 2 h.stepCount (fun i =>
      let e := stepRow b h i
      (e.berm && (e.entryOff % 8 != 0 || decide (h.size < e.entryOff + 384))) ||
      (e.mirrored && (e.restoreOff % 8 != 0 || decide (h.size < e.restoreOff + 384)))))

/-- Check 0x06: a capability the image needs is absent (R4). -/
def capAbsent (p : Variant) (caps : Nat) : Bool :=
  (caps % 2 == 1 && !p.hz) || (caps / 2 % 2 == 1 && p.engines != 4) || (caps / 4 % 2 == 1 && p.stackCount != 8)

/-- Check 0x07 against the machine in force; it is repeated at a start (R92). -/
def shapeBad (s : State) (packages groups groupSize shape : Nat) (torus : List Nat) : Bool :=
  packages != s.ranks || packages == 0 || decide (32768 < packages) ||
  groups != s.groups || groups == 0 || decide (512 < groups) ||
  groupSize != s.groupSize || groupSize == 0 || decide (64 < groupSize) || (s.part == .lhn1H && decide (32 < groupSize)) ||
  decide (1 < shape) || shape != b2n s.torus ||
  (if shape = 1 then torus.foldl (· * ·) 1 != packages else torus != [0, 0, 0])

/-- The first tile whose entry is not below its WORDS; tiles without words are not checked (R72, R73). -/
def entriesBad (b : List Byte) (h : Header) (off : Nat) : Bool :=
  (List.range 192).any (fun t =>
    let w := (sectionOf b h t).words
    w != 0 && decide (w ≤ numAt b (off + 2 * t) 2))

/-- Check 0x0A for one step-table entry (R72). -/
def stepBad (b : List Byte) (h : Header) (i : Nat) : Bool :=
  let e := stepRow b h i
  decide (e.budget < 1000) || decide (1000000000 < e.budget) || (i == 0 && !e.berm) ||
  (e.classB && h.caps % 2 == 0) || (e.mirrored && (!e.berm || h.mirrorRule == 0)) ||
  (e.fallback != 0 && !e.classB) || decide (e.budget < e.fallback + e.retry) ||
  (e.berm && entriesBad b h e.entryOff) ||
  (e.mirrored && (entriesBad b h e.restoreOff || decide (e.restoreBudget < 1000) || decide (1000000000 < e.restoreBudget)))

/-- Word `i` of tile `t`'s section. -/
def imageWord (b : List Byte) (h : Header) (t i : Nat) : Word := BitVec.ofNat 64 (numAt b ((sectionOf b h t).off + 8 * i) 8)

/-- A channel entry below CHANNEL_COUNT is a send (or receive) channel of the tile. -/
def chanOf (b : List Byte) (h : Header) (t n : Nat) (dir : Nat) : Bool :=
  decide (n < h.chanCount) && (chanRow b h n).1 == dir && (chanRow b h n).2.localTile == t

/-- The MAJOR is one R51 defines. -/
def majorOk (caps major : Nat) : Bool := decide (1 ≤ major) && decide (major ≤ 15) && (major != 14 || caps % 2 == 1)

/-- Check 0x0C for one word of a section of `words` words. -/
def wordBad (b : List Byte) (h : Header) (t words : Nat) (w : Word) : Bool :=
  let f := TF.ofWord w
  let major := (w.extractLsb' 58 6).toNat
  let minor := (w.extractLsb' 52 6).toNat
  !majorOk h.caps major ||
  (major == 1 && decide (1 ≤ minor) && decide (minor ≤ 6) && decide (words ≤ f.immf 0 15)) ||
  (major == 12 && minor == 1 && !chanOf b h t (f.immf 0 16) 0) ||
  (major == 12 && minor == 2 && !chanOf b h t (f.immf 0 16) 1) ||
  (major == 13 && minor == 1 && f.modBit 0 && decide (h.chanCount ≤ f.immf 12 16)) ||
  (major == 13 && (minor == 1 || minor == 2) && decide (h.slotCount ≤ f.immf 0 12))

/-- Check 0x0C, over tiles and words in ascending order. -/
def checkWords (b : List Byte) (h : Header) : Option Refused :=
  (List.range 192).findSome? (fun t =>
    let n := (sectionOf b h t).words
    (firstBad 12 n (fun i => wordBad b h t n (imageWord b h t i))).map (fun r => { r with tile := t }))

/-- Check 0x0D for one channel entry (R74). -/
def chanBad (b : List Byte) (h : Header) (i : Nat) : Bool :=
  let (dir, c) := chanRow b h i
  decide (1 < dir) || decide (191 < c.localTile) || decide (191 < c.peerTile) || !ruleOk h c.rule c.p ||
  c.buffer % 64 != 0 || decide (c.buffer < 64) || decide (1048576 < c.buffer)

/-- Bytes of the scheduled buffer pool. -/
def linkPool : Nat := 33554432

/-- The bytes from `a` to `e` lie in embanked pages of the polder, whose locked translations cover at most `fuel` pages. -/
def State.embanked (s : State) (pol : Nat) : Nat → Nat → Nat → Bool
  | 0, a, e => decide (e ≤ a)
  | fuel + 1, a, e =>
    if e ≤ a then true
    else match s.lockedAt pol a with
      | some l => s.embanked pol fuel (l.va + l.size) e
      | none => false

/-- Check 0x0F for one region entry (R75); bits [63:48] of its address are ignored (R8, R271). -/
def regionBad (s : State) (pol : Nat) (b : List Byte) (h : Header) (i : Nat) : Bool :=
  let r := regionRow b h i
  r.base % 4096 != 0 || r.len % 4096 != 0 || !s.embanked pol (s.locked.length + 1) (r.base % 2 ^ 48) (r.base % 2 ^ 48 + r.len)

/-- The checks of R76 in the order of its table; the first that fails refuses the image. -/
def checkImage (s : State) (pol : Nat) (b : List Byte) : Option Refused :=
  let h := Header.of b
  List.findSome? (fun c => c ()) [
    fun (_ : Unit) => failIf 1 s.schedBusy,
    fun _ => checkHeader b h,
    fun _ => failIf 3 (h.fmt != 1),
    fun _ => failIf 4 (crc32c (zeroAt b 0x0C 4) != h.crc),
    fun _ => failIf 5 (h.arch == 0 || decide (s.get GLB_PLD_STAT.ARCH pol < h.arch)),
    fun _ => failIf 6 (capAbsent s.part h.caps),
    fun _ => failIf 7 (shapeBad s h.packages h.groups h.groupSize h.shape h.torus),
    fun _ => failIf 8 (BitVec.ofNat 64 h.lanePlan != s.plan.id),
    fun _ => failIf 9 (decide (h.horizon < 500) || decide (20000 < h.horizon) || !ruleOk h h.mirrorRule h.mirrorP),
    fun _ => failIf 10 (h.stepCount == 0 || decide (65536 < h.stepCount) || h.iterations == 0 ||
      decide (2 ^ 40 < h.iterations)),
    fun _ => firstBad 10 h.stepCount (stepBad b h),
    fun _ => firstBad 11 192 (fun t => decide (32768 < (sectionOf b h t).words)),
    fun _ => checkWords b h,
    fun _ => failIf 13 (decide (65536 < h.chanCount)),
    fun _ => firstBad 13 h.chanCount (chanBad b h),
    fun _ => failIf 13 (h.bufTotal != ((List.range h.chanCount).map (fun i => (chanRow b h i).2.buffer)).sum ||
      decide (linkPool - s.plan.reserve < h.bufTotal)),
    fun _ => failIf 14 (decide (4096 < h.slotCount)),
    fun _ => firstBad 14 h.slotCount (fun i => !s.ownsObj pol (slotRow b h i)),
    fun _ => failIf 15 (decide (1024 < h.regionCount)),
    fun _ => firstBad 15 h.regionCount (regionBad s pol b h)]

/-- The image that bytes which pass the checks describe. -/
def Image.of (pol src : Nat) (b : List Byte) : Image :=
  let h := Header.of b
  { id := BitVec.ofNat 64 h.id, crc := BitVec.ofNat 32 h.crc, owner := pol, src := src, horizon := h.horizon,
    packages := h.packages, groups := h.groups, groupSize := h.groupSize, shape := h.shape, torus := h.torus,
    lanePlan := BitVec.ofNat 64 h.lanePlan, iterations := h.iterations, mirrorRule := h.mirrorRule, mirrorP := h.mirrorP,
    caps := h.caps,
    steps := (List.range h.stepCount).map (fun i =>
      let e := stepRow b h i
      { budget := e.budget, berm := e.berm, classB := e.classB, mirrored := e.mirrored,
        entry := if e.berm then entryTable b e.entryOff else [],
        restore := if e.mirrored then entryTable b e.restoreOff else [], restoreBudget := e.restoreBudget }),
    sections := (List.range 192).map (sectionOf b h),
    chans := (List.range h.chanCount).map (fun i => (chanRow b h i).2),
    slots := (List.range h.slotCount).map (slotRow b h),
    regions := (List.range h.regionCount).map (regionRow b h) }

/-- The instruction words a section gives a tile: WORDS words, the rest of its store zero (R73). -/
def sectionWords (b : List Byte) (e : Section) : List Word :=
  (List.range e.words).map (fun i => BitVec.ofNat 64 (numAt b (e.off + 8 * i) 8))

end Sys2Proof.Machine
end

