-- ==== Sys2Proof/Machine/Flits.lean ====
section
/-! DEFINITION. Flits as bytes (R155): 12 bytes of header, 256 of payload, a CRC-32C over both. The bytes of a field stand in ascending
significance (log 103, DEDUCED). -/

namespace Sys2Proof

open Machine

/-- The LENGTH field of a payload of `n` bytes, in units of 8 bytes; 0 means 256. -/
def lengthCode (n : Nat) : Nat := (n + 7) / 8 % 32

/-- Header and payload of a flit; the bytes beyond its LENGTH are zero. -/
def Flit.body (f : Flit) : List Byte :=
  leBytes 1 f.typ.toNat ++ leBytes 1 (f.vc.toNat + 4 * lengthCode f.payload.length) ++ leBytes 2 f.seq.toNat ++
  leBytes 2 f.ack.toNat ++ leBytes 2 (f.cr.toNat + 2 ^ 14 * f.crVc.toNat) ++ leBytes 4 f.tag.toNat ++
  f.payload ++ List.replicate (256 - f.payload.length) 0

/-- The 272 bytes of a flit. -/
def Flit.bytes (f : Flit) : List Byte := f.body ++ leBytes 4 (crc32c f.body)

/-- The flit that received bytes spell: none where the CRC fails. A LENGTH above 256 bytes reads on in zeros. -/
def Flit.ofWire (w : Wire) : Option Flit :=
  let n (off k : Nat) := numAt w.bytes off k
  if w.bytes.length ≠ 272 ∨ n 268 4 ≠ crc32c (w.bytes.take 268) then none
  else
    let len := if n 1 1 / 4 = 0 then 256 else 8 * (n 1 1 / 4)
    some { typ := BitVec.ofNat 8 (n 0 1), vc := BitVec.ofNat 2 (n 1 1), seq := BitVec.ofNat 16 (n 2 2), ack := BitVec.ofNat 16 (n 4 2),
           crVc := BitVec.ofNat 2 (n 6 2 / 2 ^ 14), cr := BitVec.ofNat 14 (n 6 2), tag := BitVec.ofNat 32 (n 8 4),
           payload := (((w.bytes.drop 12).take 256) ++ List.replicate 256 0).take len,
           ann := w.ann, trl := w.trl, corr := w.corr }

/-- The numbers of a ready message. -/
def Ready.nums (m : Ready) : List Nat :=
  [m.rank, m.tick, m.imageId.toNat, m.crc.toNat, m.refused.toNat, m.kind, m.target, m.start, m.epoch]

end Sys2Proof

namespace Sys2Proof.Machine

/-! Messages as flits. -/

/-- The numbers of a message of link management or step control. -/
def Msg.nums : Msg → List Nat
  | .hold b => [0, b]
  | .release b r => [1, b, r]
  | .abort b => [2, b]
  | .report l m st e => [3, l, m.elim 0 (· + 1), st, e]
  | .ready m => 4 :: m.nums
  | .preempt n c => [5, n, c.toNat]
  | .linkState j p up => [6, j, p, up.toNat]
  | _ => []

/-- The common header of IEEE 1588-2019 with versionPTP 2: the message's type, length, domain, correctionField and sequenceId (R215;
log 224, PRESUMED: the layout is the standard's). -/
def ptpHeader (k typ len dom corr seq : Nat) : List Byte :=
  leBytes 1 typ ++ [2] ++ beBytes 2 len ++ leBytes 1 dom ++ List.replicate 3 0 ++ beBytes 8 corr ++ List.replicate 4 0 ++
  (List.range 10).map (Config.portIdentity k) ++ beBytes 2 seq ++ List.replicate 2 0

/-- A time message: its type and length, and its bytes. A Sync has the whole nanoseconds of its stamp in originTimestamp and the rest
in correctionField, a Pdelay_Resp the turnaround in correctionField (R216). -/
def Msg.time (k : Nat) : Msg → Option (Nat × Nat × List Byte)
  | .sync d q o => some (0, 44, ptpHeader k 0 44 d (o % 65536) q ++ beBytes 6 (o / 65536 / 1000000000) ++
      beBytes 4 (o / 65536 % 1000000000))
  | .pdelayReq q => some (2, 54, ptpHeader k 2 54 0 0 q ++ List.replicate 20 0)
  | .pdelayResp q t => some (3, 54, ptpHeader k 3 54 0 t q ++ List.replicate 20 0)
  | _ => none

/-- Bytes filled up to the next multiple of 8. -/
def pad8 (bs : List Byte) : List Byte := bs ++ List.replicate ((8 - bs.length % 8) % 8) 0

/-- The flit of a message on VC 0 of link `k` under a SEQ and an acknowledgement. -/
def Msg.flit (k seq ack : Nat) (m : Mgmt) : Flit :=
  let f : Flit := { typ := 4, vc := 0, seq := BitVec.ofNat 16 seq, ack := BitVec.ofNat 16 ack }
  match m.msg, m.msg.time k with
  | .nak lacks, _ => { f with typ := 3, ack := BitVec.ofNat 16 lacks }
  | .resync _ _, _ => { f with typ := 6 }
  | .credits c n, _ => { f with typ := 2, crVc := BitVec.ofNat 2 c, cr := BitVec.ofNat 14 n }
  | .announce c n, _ => { f with typ := 2, crVc := BitVec.ofNat 2 c, cr := BitVec.ofNat 14 n, ann := true }
  | _, some (typ, len, bs) => { f with typ := 5, tag := Config.timeTag typ len, payload := pad8 bs }
  | msg, none =>
    let xs := m.rank :: m.seq :: msg.nums
    { f with tag := Config.mgmtTag xs, payload := (List.range (8 * ((Config.mgmtUnits xs).val + 1))).map (Config.mgmtByte xs) }

/-- The 8 bytes of a trailer (R178). -/
def trailerBytes (t : Nat × Nat × Nat) : List Byte := leBytes 8 (t.1 % 32768 + t.2.1 % 32768 * 2 ^ 16 + t.2.2 % 2 ^ 32 * 2 ^ 32)

/-- The flit of data on VC 1 or VC 2. -/
def Pkt.flit (vc seq ack : Nat) (p : Pkt) : Flit :=
  { typ := 1, vc := BitVec.ofNat 2 vc, seq := BitVec.ofNat 16 seq, ack := BitVec.ofNat 16 ack, tag := p.tag,
    payload := pad8 p.bytes ++ (p.trailer.map trailerBytes).getD [], trl := p.trailer.isSome }

end Sys2Proof.Machine
end

