-- ==== Sys2Proof/Machine/LaneOps.lean ====
section
/-! DEFINITION. Lane plans and their checks (R142–R148), lanes and links that come up and go down (R150–R154, R162), the link
layer's books (R155–R164). -/

namespace Sys2Proof.Machine

/-! The plan (R145–R147). Growth bits are ignored (R8, R9). -/

/-- A lane entry from its 4 bytes. -/
def laneOf (bs : List Byte) (l : Nat) : LaneE :=
  let a := 0x40 + 4 * l
  let role := numAt bs (a + 2) 1
  { en := numAt bs a 1 % 2 == 1, exit := bitsOf (numAt bs a 1) 1 2, link := numAt bs (a + 1) 1 % 128,
    role := if 3 < role then 0 else role }

/-- A link entry from its 16 bytes. -/
def linkOf (bs : List Byte) (k : Nat) : LinkE :=
  let a := 0x840 + 16 * k
  { peer := numAt bs a 4 % 32768, peerLink := numAt bs (a + 4) 1 % 128,
    minLanes := max 1 (min 64 (numAt bs (a + 5) 1)), unschedMin := min 8 (numAt bs (a + 6) 1),
    sched := numAt bs (a + 8) 2, unsched := numAt bs (a + 0xA) 2 }

/-- The plan that 4,160 bytes spell. -/
def Plan.of (bs : List Byte) : Plan :=
  { id := BitVec.ofNat 64 (numAt bs 0x10 8), rank := numAt bs 0x0C 4 % 32768, reserve := numAt bs 0x18 4,
    lanes := (List.range 512).map (laneOf bs), links := (List.range (numAt bs 5 1)).map (linkOf bs) }

/-- The first lit entry that shares exit, wavelength and direction with an earlier one (R144). -/
def Plan.clash (p : Plan) : Option Nat :=
  p.lit.find? (fun l => p.lit.any (fun j => decide (j < l) && isTx j == isTx l && waveOf j == waveOf l &&
    exitOf j (p.lane j).exit == exitOf l (p.lane l).exit))

/-- A link that breaks check 0x07. -/
def Plan.badLink (p : Plan) : Option Nat :=
  (List.range p.links.length).find? (fun k => [true, false].any (fun tx =>
    (p.lanesOf k tx).isEmpty || decide (64 < (p.lanesOf k tx).length)))

/-- The check of R148 that a plan fails first, with the offending entry; `busy`: check 0x01. The ranks that check 0x08 names lie in
0–32,767 once their growth bits are ignored (R8, R145, R147; log 100, DEDUCED). -/
def planCheck (part : Variant) (busy : Bool) (bs : List Byte) : Option (Nat × Nat) :=
  let p := Plan.of bs
  let n := numAt bs 5 1
  let reserve := numAt bs 0x18 4
  if busy then some (1, 0)
  else if numAt bs 0 4 ≠ 0x504C484C ∨ numAt bs 6 2 ≠ 4160 ∨ n = 0 ∨ 128 < n then some (2, 0)
  else if numAt bs 4 1 % 16 ≠ 1 then some (3, 0)
  else if numAt bs 8 4 ≠ crc32c (zeroAt bs 8 4) then some (4, 0)
  else match p.lit.find? (fun l => !part.hasLane l) with
  | some l => some (5, l)
  | none =>
  match p.clash with
  | some l => some (6, l)
  | none =>
  match p.lit.find? (fun l => decide (n ≤ (p.lane l).link)) with
  | some l => some (7, l)
  | none =>
  match p.badLink with
  | some k => some (7, k)
  | none =>
  if reserve % 65536 ≠ 0 ∨ 16777216 < reserve then some (8, 0)
  else if 8388608 < ((p.links.map (·.unsched)).sum + 16 * n) * 256 then some (9, 0) else none

/-! Links. -/

/-- The state of a link changes, and the machine learns of it (R176). -/
def State.setLinkSt (s : State) (k st : Nat) : State :=
  if s.get LNK_STATE.STATE k = st then s
  else (s.put LNK_STATE.STATE st k).flood (.linkState k (s.planLink k).peer (st == 2 || st == 3))

/-- Lanes of a link that are up, and the counts of them that LNK_STATE shows. -/
def State.goodLanes (s : State) (k : Nat) (tx : Bool) : List Nat :=
  (s.plan.lanesOf k tx).filter (fun l => s.get LSW_LANE.STATE l == 3)
def State.recount (s : State) (k : Nat) : State :=
  (s.put LNK_STATE.LANES_TX (s.goodLanes k true).length k).put LNK_STATE.LANES_RX (s.goodLanes k false).length k
/-- Each direction has at least MIN_LANES good lanes. -/
def State.enoughLanes (s : State) (k : Nat) : Bool :=
  [true, false].all (fun tx => decide ((s.planLink k).minLanes ≤ (s.goodLanes k tx).length))
/-- UP where every lane of the plan is good, else DEGRADED (R162). -/
def State.upState (s : State) (k : Nat) : Nat :=
  if [true, false].all (fun tx => (s.goodLanes k tx).length == (s.plan.lanesOf k tx).length) then 2 else 3

/-- Data finds its link anew: with a trailer, in pieces that leave room for one, where the new link does not end at its
destination (R177, R178). Without a route it is lost. -/
def State.requeue (s : State) (vc : Nat) (p : Pkt) : State :=
  match s.routeLink ((p.trailer.map (·.1)).getD s.rank) p.dst with
  | none =>
    let s1 := (s.noRoute p.dst).when (p.frm != 0) (fun s => s.freeSlots (p.frm - 1) vc 1)
    s1.when (vc == 1) (fun s => s.schedFault)
  | some j =>
    if p.trailer.isSome || (s.planLink j).peer == p.dst then s.queuePkt j vc p
    else
      s.each (pieces 248 (p.bytes.length + 1) p.bytes) (fun s b =>
        let (tr, s) := s.trailer vc p.dst
        s.queuePkt j vc { p with bytes := b, trailer := some tr })

/-- The data a link still has to carry: what is unacknowledged first, then what waits. -/
def Link.carried (x : Link) : List (Nat × Pkt) :=
  x.retry.filterMap (fun r => r.pkt.map (fun p => (r.vc, p))) ++ x.q1.map (fun p => (1, p)) ++ x.q2.map (fun p => (2, p))

/-- Ranks of the machine that the resident schedule can reach. -/
def State.reached (s : State) : List Nat := (List.range ((s.sched.image.map (·.packages)).getD 0)).filter s.reach

/-- What is known of the links changes: a rank that a busy schedule can no longer reach is a schedule fault (R177, R180). -/
def State.watchReach (s : State) (g : State → State) : State :=
  let was := if s.schedBusy then s.reached else []
  let s1 := g s
  let gone := was.filter (fun r => !s1.reach r)
  (s1.each gone (fun s r => s.noRoute r)).when (!gone.isEmpty) (fun s => s.schedFault)

/-- What a link keeps when it stops carrying flits: none of the flits it held, and no exchange under way (R162, R226). -/
def Link.stop (x : Link) : Link :=
  { x with q0 := [], q1 := [], q2 := [], retry := [], replay := none, stripe := 0, nakOut := false, last := none, stalled := false,
           resyncOut := false, resyncSeq := none, joining := [], pdOut := none }

/-- A link stops carrying flits: its unacknowledged flits and what waits go on their new routes (R162, R177, R178, R180). -/
def State.linkDown (s : State) (k st : Nat) : State :=
  s.watchReach (fun s =>
    let x := s.link k
    (((s.setLink k x.stop).setLinkSt k st).recount k).each x.carried (fun s p => s.requeue p.1 p.2))

/-- RESYNC: this end offers its next SEQ and last ACK (R162, R163). The stripe begins anew. -/
def State.resync (s : State) (k : Nat) : State :=
  let s1 := s.setLink k { s.link k with resyncOut := true, stripe := 0 }
  s1.sendTo k (.resync (s.link k).txSeq (s.link k).rxSeq)

/-- The lanes of a link that carries flits have changed: it restripes, or goes DOWN (R162). -/
def State.relink (s : State) (k : Nat) : State :=
  if !s.linkUp k then s.recount k
  else if s.enoughLanes k then ((s.recount k).setLinkSt k (s.upState k)).resync k
  else s.linkDown k 0

/-! Lanes that fail (R154). -/

/-- A lane is marked failed and its event raised (R301: causes 1–4). -/
def State.failLane (s : State) (l cause : Nat) : State :=
  ((s.put LSW_LANE.FAILED 1 l).put LSW_LANE.STATE 0 l).raise0 17 (detail [(0, l), (9, cause)])

/-- A training attempt of a lane fails: after the third the lane is failed. -/
def State.trainFail (s : State) (l cause : Nat) : State :=
  let n := SMap.get 0 s.laneTries l + 1
  let s1 := { s with laneTries := SMap.set 0 s.laneTries l (if n < 3 then n else 0) }
  if n < 3 then s1 else s1.failLane l cause

/-- A lane passes training. -/
def State.trainPass (s : State) (l : Nat) : State :=
  ({ s with laneTries := SMap.set 0 s.laneTries l 0 } : State).put LSW_LANE.STATE 3 l

/-- A lane is in the plan, asked for and not failed; it can be used where its exit has full power (R165). -/
def State.wanted (s : State) (l : Nat) : Bool :=
  (s.plan.lane l).en && s.part.hasLane l && s.bit LSW_LANE.EN_REQ l && !s.bit LSW_LANE.FAILED l
def State.usable (s : State) (l : Nat) : Bool := s.wanted l && !s.bit LSW_LANE.APR l
/-- The STATE in which a lane begins: it moves, is muted while its exit has reduced power, or is off. -/
def State.freshLane (s : State) (l : Nat) : Nat := if s.usable l then 1 else if s.wanted l then 4 else 0

/-- A lane leaves its link with state `st`; its link restripes or goes DOWN. -/
def State.dropLane (s : State) (l st : Nat) : State :=
  let s1 := s.put LSW_LANE.STATE st l
  if s.get LSW_LANE.STATE l = 3 then s1.relink (s.plan.lane l).link else s1

/-- A lane is lost: failed where its loop failed, else it trains again (R153, R162). -/
def State.loseLane (s : State) (l cause : Nat) : State :=
  if cause = 2 then (s.failLane l 2).when (s.get LSW_LANE.STATE l == 3) (fun s => s.relink (s.plan.lane l).link)
  else s.dropLane l 2

/-- A link trains again: meanwhile it counts as lost (R164). Its lanes have three attempts; one that still moves trains when it has
settled (R151). -/
def State.retrain (s : State) (k : Nat) : State :=
  let ls := (s.plan.lanesOf k true ++ s.plan.lanesOf k false).filter s.usable
  let s1 := s.each ls (fun s l =>
    ({ s with laneTries := SMap.set 0 s.laneTries l 0 } : State).when (s.get LSW_LANE.STATE l != 1) (fun s => s.put LSW_LANE.STATE 2 l))
  let s2 := if s.linkUp k then s1.linkDown k 4 else (s1.setLinkSt k 4).recount k
  s2.setLink k { s2.link k with viol := 0, avail0 := 0, avail1 := 0, avail2 := 0 }

/-! The books of a link (R155, R159, R160). -/

/-- How far SEQ `a` stands after `b`, modulo 2^16. -/
def seqAhead (a b : Nat) : Nat := (a + 65536 - b % 65536) % 65536

/-- Slots of a virtual channel this package announces on a link (R147). -/
def State.announced (s : State) (k vc : Nat) : Nat :=
  match vc with
  | 0 => 16
  | 1 => (s.planLink k).sched
  | _ => (s.planLink k).unsched
/-- Slots of a virtual channel that are held here, and credits the sender has. -/
def Link.held (x : Link) (vc : Nat) : Nat := if vc = 0 then x.held0 else if vc = 1 then x.held1 else x.held2
def Link.avail (x : Link) (vc : Nat) : Nat := if vc = 0 then x.avail0 else if vc = 1 then x.avail1 else x.avail2
def Link.setAvail (x : Link) (vc n : Nat) : Link :=
  if vc = 0 then { x with avail0 := n } else if vc = 1 then { x with avail1 := n } else { x with avail2 := n }
def Link.hold (x : Link) (vc : Nat) : Link :=
  if vc = 0 then { x with held0 := x.held0 + 1 } else if vc = 1 then { x with held1 := x.held1 + 1 }
  else { x with held2 := x.held2 + 1 }

/-- The free slots of a channel are announced anew; returns of it that wait are part of them (R163, R167). A credit field holds
14 bits. -/
def State.announce (s : State) (k vc : Nat) : State :=
  let x := s.link k
  let n := s.announced k vc - x.held vc
  let keep := x.q0.filter (fun m => match m.msg with
    | .credits c _ => c != vc
    | _ => true)
  let more := (List.replicate (n / 16383 - (if n % 16383 = 0 then 1 else 0)) (⟨s.rank, 0, .credits vc 16383⟩ : Mgmt))
  let first := if n % 16383 = 0 then min n 16383 else n % 16383
  s.setLink k { x with q0 := keep ++ [⟨s.rank, 0, .announce vc first⟩] ++ more }

/-- A RESYNC takes no credit (R158). -/
def Sent.takesCredit (r : Sent) : Bool := r.mgmt.isSome || r.pkt.isSome
/-- How far a SEQ stands after the oldest flit in the retry buffer. -/
def Link.lacks (x : Link) (seq : Nat) : Nat := seqAhead seq ((x.retry.head?.map (·.seq)).getD x.txSeq)
/-- The oldest `n` flits are acknowledged: they leave the retry buffer, and a replay under way goes on after them. -/
def Link.acked (x : Link) (n : Nat) : Link :=
  if x.retry.length < n then x
  else { x with retry := x.retry.drop n, replay := x.replay.bind (fun i => if n < x.retry.length then some (i - n) else none) }
/-- A replay from the oldest flit: one under way begins again, from the earlier of the two SEQs (R160, R167). -/
def Link.again (x : Link) : Link := { x with replay := if x.retry.isEmpty then none else some 0 }

/-- The acknowledgement and the credits of a flit that arrived good (R155, R158, R159). -/
def State.books (s : State) (k : Nat) (f : Flit) : State :=
  let x := s.link k
  let y := x.acked (x.lacks f.ack.toNat)
  let vc := f.crVc.toNat
  let z := if 3 ≤ vc then y
    else if f.ann then y.setAvail vc (f.cr.toNat - (y.retry.filter (fun r => r.vc == vc && r.takesCredit)).length)
    else y.setAvail vc (y.avail vc + f.cr.toNat)
  (s.setLink k { z with stalled := z.stalled && decide (z.avail1 = 0) }).bump LNK_ERR.CORR_SYM k 0 f.corr

/-- The receiver discards what follows and asks for a replay from a SEQ (R160). -/
def State.sendNak (s : State) (k seq : Nat) (last : Option Nat) : State :=
  (s.setLink k { s.link k with nakOut := true, last := last }).sendTo k (.nak seq)

/-- The time of WINDOW_MS in core clock periods. -/
def State.violWindow (s : State) : Nat := s.get LNK_VIOL_CFG.WINDOW_MS * 1562500

/-- A violation by the partner of a link: counted by type (1–5 in the order of R163); the first in a window raises the event. -/
def State.violation (s : State) (k type : Nat) : State :=
  let s1 := match type with
    | 1 => s.bump LNK_VIOL.MALFORMED k
    | 2 => s.bump LNK_VIOL.CREDIT_OVF k
    | 3 => s.bump LNK_VIOL.OOS_RETRY k
    | 4 => s.bump LNK_VIOL.UNKNOWN_TYPE k
    | _ => s.bump LNK_VIOL.TIME_MSG k
  let x := s1.link k
  if x.violWin = false ∨ x.violAt + s.violWindow ≤ s.clk then
    (s1.setLink k { x with viol := 1, violAt := s.clk, violWin := true }).raise0 18 (detail [(0, k), (8, type)])
  else s1.setLink k { x with viol := x.viol + 1 }

/-- Flits that the far end can have unacknowledged (R160). -/
def State.window (s : State) (k : Nat) : Nat := 192 * max 1 (s.get LNK_STATE.LANES_RX k)

/-- Where a SEQ stands at the receiver: the next, one already here, one after a flit it lacks, one discarded while a replay is
awaited, or outside what the retry can hold. -/
inductive Seen where
  | next | old | gap | follows | outside
  deriving DecidableEq, Repr

/-- The place of a SEQ. While a replay is awaited, a step back that is not to the SEQ asked for is a replay that starts wrong. -/
def Link.seen (x : Link) (win seq : Nat) : Seen :=
  let a := seqAhead seq x.rxSeq
  if a = 0 then .next
  else if a < win then
    if !x.nakOut then .gap
    else if x.last.any (fun l => decide (a ≤ seqAhead l x.rxSeq)) then .outside
    else .follows
  else if 65536 - win ≤ a then .old
  else .outside

/-- A flit that carries the next SEQ without using it tells the receiver what it lacks (R155, R160). -/
def State.seqHint (s : State) (k : Nat) (f : Flit) : State :=
  match (s.link k).seen (s.window k) f.seq.toNat with
  | .gap => s.sendNak k (s.link k).rxSeq none
  | .outside => if (s.link k).nakOut then s else (s.violation k 3).resync k
  | _ => s

/-! Flits received (R155, R160, R163). -/

/-- A flit of `typ` and virtual channel `vc` that uses a SEQ is taken: it is the next, breaks no rule of R163 (`bad`: its TAG or LENGTH
does), and finds a free slot. -/
def State.takes (s : State) (k typ vc : Nat) (bad : Bool) (f : Flit) : Bool :=
  s.linkUp k && (s.link k).seen (s.window k) f.seq.toNat == .next && !bad && f.vc != 3 && f.vc.toNat == vc &&
    decide (f.payload.length ≤ 256) && decide ((s.link k).held vc < s.announced k vc) && f.typ.toNat == typ

/-- `n` flits are taken: their books are read, and they use up their SEQs. -/
def State.took (s : State) (k n : Nat) (f : Flit) : State :=
  let x := (s.books k f).link k
  (s.books k f).setLink k { x with rxSeq := (x.rxSeq + n) % 65536, nakOut := false, last := none }

/-- A flit that is not taken: one that is here already or follows one that is lacking is discarded; a gap asks for a replay; a
violation is answered by type, in the order of R163. A flit on another channel than its message's counts as malformed (log 226,
DEDUCED). -/
def State.refuseFlit (s : State) (k vc : Nat) (bad : Bool) (f : Flit) : State :=
  let x := s.link k
  let seq := f.seq.toNat
  if !s.linkUp k then s
  else
    match x.seen (s.window k) seq with
    | .old => s
    | .follows => s.setLink k { x with last := some seq }
    | .gap => s.sendNak k x.rxSeq (some seq)
    | r =>
      if bad || f.vc == 3 || f.vc.toNat != vc || decide (256 < f.payload.length) then (s.violation k 1).sendNak k seq none
      else if s.announced k vc ≤ x.held vc then ((s.violation k 2).sendNak k seq none).announce k vc
      else if r = .outside then (s.violation k 3).resync k
      else if 6 < f.typ.toNat then (s.violation k 4).sendNak k seq none
      else s

/-- A flit that uses a SEQ arrives; `g` goes on where it is taken. -/
def State.receive (s : State) (k typ vc n : Nat) (bad : Bool) (f : Flit) (g : State → State) : State :=
  if s.takes k typ vc bad f then g (s.took k n f) else s.refuseFlit k vc bad f

/-- How far a trailer number stands after the next to be delivered (R178). -/
def State.trailAhead (s : State) (src vc n : Nat) : Nat := (n + 2 ^ 32 - SMap.get 0 s.trailRx (4 * src + vc)) % 2 ^ 32

/-- A message that has a row of its own arrives in `n` flits of a channel from rank `src`. Its slots are free again at once (R158); one
whose trailer number has been delivered is a repeat (R178, R295). Data goes to a unit of the XD core, whose clock it restarts (R323). -/
def State.onMsg (s : State) (a : Via) (typ vc n src : Nat) (g : State → State) : State :=
  s.receive a.k typ vc n false a.f (fun s =>
    let s1 := (s.when (typ == 1) State.wakeXd).sendTo a.k (.credits vc n)
    match a.trailer with
    | none => g s1
    | some t =>
      if 2 ^ 31 ≤ s1.trailAhead src vc t then s1
      else g { s1 with trailRx := SMap.set 0 s1.trailRx (4 * src + vc) ((t + 1) % 2 ^ 32) })

/-- A flooded message arrives: the first time it is forwarded on every other link that is up and acted on; a repeat is ignored
(R179). -/
def State.onFlood (s : State) (a : Via) (rank seq : Nat) (m : Msg) (g : State → State) : State :=
  s.onMsg a 4 0 1 rank (fun s =>
    if s.seen.contains (rank, seq) then s
    else g (({ s with seen := (rank, seq) :: s.seen } : State).each (s.upLinks.filter (fun j => j != a.k.val)) (fun s' j =>
      s'.sendMgmt j ⟨rank, seq, m⟩)))

/-- A flit whose CRC fails or that touches uncorrected codewords is discarded (R156, R160). -/
def State.badFlit (s : State) (k codewords : Nat) : State :=
  if !s.linkUp k then s else (s.bump LNK_ERR.UNCORR k 0 codewords).sendNak k (s.link k).rxSeq none

/-- A flit of the link layer itself arrives, also while the link trains; its books are read in any case (log 226, DEDUCED). -/
def State.onControl (s : State) (k typ : Nat) (w : Wire) (g : State → Flit → State) : State :=
  match Flit.ofWire w with
  | none => s.badFlit k 0
  | some f =>
    if !(s.linkUp k || s.get LNK_STATE.STATE k == 1 || s.get LNK_STATE.STATE k == 4) then s
    else if f.vc = 3 then (s.violation k 1).sendNak k f.seq.toNat none
    else if 6 < f.typ.toNat then (s.violation k 4).sendNak k f.seq.toNat none
    else if f.typ.toNat ≠ typ then s
    else g (s.books k f) f

/-- A retry of a link, counted there and in the step (R82, R160). -/
def State.countRetry (s : State) (k : Nat) : State :=
  let s1 := s.bump LNK_ERR.RETRY k
  { s1 with sched := { s1.sched with retrans := s1.sched.retrans + 1 } }

/-! Re-cables (R149, R150). -/

/-- A re-cable ends before its commit: the old plan stays in force with its links as they were. Causes: 1 cancel, 2 laser
shutdown, 3 switch control failure. -/
def State.abandonRecable (s : State) (cause index : Nat) : State :=
  match s.recable with
  | none => s
  | some r =>
    if r.committed then s
    else
      let s1 := ({ s with recable := none } : State).put LSW_STATUS.STATE 0
      match r.desc with
      | some d => s1.endDesc d stRecableAbandoned (cause + 65536 * index) 0
      | none => s1

/-- A link is still to be trained: one of its lanes moves or trains. -/
def State.linkPending (s : State) (k : Nat) : Bool :=
  [0, 1, 4].contains (s.get LNK_STATE.STATE k) && [true, false].any (fun tx =>
    (s.plan.lanesOf k tx).any (fun l => s.get LSW_LANE.STATE l == 1 || s.get LSW_LANE.STATE l == 2))

/-- A committed re-cable ends when no link is still to be trained (R150). -/
def State.settleRecable (s : State) : State :=
  match s.recable with
  | none => s
  | some r =>
    if !r.committed || (List.range s.plan.links.length).any s.linkPending then s
    else
      let s1 := ({ s with recable := none } : State).put LSW_STATUS.STATE 0
      match r.desc with
      | some d => s1.endDesc d stSuccess 0 0
      | none => s1

/-- A lane whose entry and peer stay the same is not muted (R150). -/
def laneStays (old new : Plan) (l : Nat) : Bool :=
  (old.lane l).en && old.lane l == new.lane l &&
    (old.linkAt (old.lane l).link).peer == (new.linkAt (new.lane l).link).peer
/-- A link stays up throughout: it keeps its peer and has a lane that stays (R150; log 222, DEDUCED). -/
def State.linkStays (s : State) (new : Plan) (k : Nat) : Bool :=
  s.linkUp k && decide (k < new.links.length) &&
    [true, false].any (fun tx => (new.lanesOf k tx).any (fun l => laneStays s.plan new l && s.get LSW_LANE.STATE l == 3))
/-- A link keeps everything in a re-cable: transmission on it does not stop (R150). -/
def State.linkSame (s : State) (new : Plan) (k : Nat) : Bool :=
  s.planLink k == new.linkAt k && [true, false].all (fun tx => s.plan.lanesOf k tx == new.lanesOf k tx &&
    (s.plan.lanesOf k tx).all (fun l => s.plan.lane l == new.lane l))

/-- The calibrated set-point of a lane element for an exit choice (R187, R189). -/
def State.exitPoint (s : State) (l k : Nat) : Int := (s.loop l).cal.getD k 0

/-- A loop leaves HOLD for AUTO: its integrator is preset, and it uses its registers again (R191, R192). -/
def State.leaveHold (s : State) (i : Nat) : State :=
  ((s.put SCU_LOOP_CTRL.MODE 0 i).when (s.get SCU_LOOP_STAT.STATE i == 3) (fun s => s.put SCU_LOOP_STAT.STATE 1 i)).setLoop i
    { s.loop i with preset := true, coef := none, spHeld := none }

/-- A move to `new` along a profile starts after `wait` samples; until then the loop goes on as it does (R189, R190). -/
def Loop.moveTo (x : Loop) (new : Int) (prof wait : Nat) : Loop :=
  { x with due := x.due ++ [{ old := x.sp, new := new, t := 0, prof := some prof, wait := wait }] }

/-- A re-cable starts a parked element again. One of source 3 moves to the exit of the plan in force along RECABLE_PROFILE, after `wait`
samples; its HOLD is released, a MANUAL element does not move (R189, R195, R208). -/
def State.moveElement (s : State) (l wait : Nat) : State :=
  if !s.part.hasLoop l then s
  else
    let parked := s.get SCU_LOOP_STAT.STATE l == 5 || s.get SCU_LOOP_STAT.STATE l == 6
    let s1 := s.when parked (fun s => s.setLoop l { s.loop l with restart := true })
    if s.get SCU_LOOP_CTRL.SPSRC l ≠ 3 then s1
    else
      let s2 := s1.when (s.get SCU_LOOP_CTRL.MODE l == 2) (fun s => s.leaveHold l)
      s2.setLoop l ((s2.loop l).moveTo (s.exitPoint l (s.plan.lane l).exit) (s.get SCU_CTRL.RECABLE_PROFILE) wait)

/-- A lane entry of the plan in force: what LSW_LANE shows of it, with APR where its exit is at the reduced level (R165). -/
def State.showLane (s : State) (l : Nat) : State :=
  let e := s.plan.lane l
  let x := exitOf l e.exit
  (((s.put LSW_LANE.EXIT (if e.en then x else 0) l).put LSW_LANE.LINK (if e.en then e.link else 0) l).put LSW_LANE.FAILED 0 l).put
    LSW_LANE.APR (b2n (e.en && s.aprExits.contains x)) l

/-- A package that takes another rank joins the machine anew (R182, R222). -/
def State.newRank (s : State) (old : Nat) : State :=
  s.when (s.rank != old) (fun s => ({ s with joined := false } : State).put TIM_MTICK_STAT.ALIGNED 0)

/-- The plan `new` is in force (R149, R182): lanes that move are muted and their elements move; links that do not stay go DOWN, and the
data in their queues and retry buffers is kept. A link whose plan is the same is left as it is. -/
def State.putPlan (s : State) (new : Plan) (wait : Nat) : State :=
  let old := s.plan
  let stay := (List.range 128).filter (s.linkStays new)
  let same := (List.range new.links.length).filter (fun k => !stay.contains k && s.linkSame new k)
  let s1 := s.each ((List.range old.links.length).filter (fun k => !stay.contains k && !same.contains k)) (fun s k => s.setLinkSt k 0)
  let s2 := (({ s1 with plan := new, laneTries := [] } : State).setReg .LSW_PLAN_ID 0 0 new.id).newRank old.rank
  let s3 := s2.each ((List.range 512).filter s.part.hasLane) (fun s l =>
    let s' := s.showLane l
    if laneStays old new l && [2, 3].contains (s.get LSW_LANE.STATE l) then s'
    else
      let s'' := s'.when (old.lane l != new.lane l || s.bit LSW_LANE.FAILED l) (fun s => s.moveElement l wait)
      s''.put LSW_LANE.STATE (s''.freshLane l) l)
  s3.each (List.range 128) (fun s k =>
    if stay.contains k then
      ((s.recount k).setLinkSt k (s.upState k)).when (old.linkAt k != new.linkAt k) (fun s => s.each [1, 2] (fun s vc => s.announce k vc))
    else if same.contains k then s.recount k
    else
      let x := s.link k
      let s' := s.setReg .LNK_STATE k 0 0
      if k < new.links.length then
        s'.setLink k { q1 := (x.carried.filter (fun p => p.1 == 1)).map (·.2), q2 := (x.carried.filter (fun p => p.1 == 2)).map (·.2),
                       held1 := x.held1, held2 := x.held2 }
      else (s'.setLink k {}).each x.carried (fun s p => s.requeue p.1 p.2))

end Sys2Proof.Machine
end

