-- ==== Sys2Proof/Machine/SchedOps.lean ====
section
/-! DEFINITION. What the commands of a schedule share: berm records and host deltas (R85, R298), the start of a step (R49, R69,
R78), the ends of a run (R89, R90), ready messages (R91, R92), rollback (R87). -/

namespace Sys2Proof.Machine

/-! Sync objects of the slot table (R298, R300). -/

/-- A SYNC_ADD of a host applied to an object enters the host deltas of the polder's berm records. -/
def State.hostDelta (s : State) (pol obj : Nat) (v : Word) : State :=
  let add (b : Berm) : Berm := { b with deltas := SMap.set 0 b.deltas obj (SMap.get 0 b.deltas obj + v) }
  let own := (s.sched.image.map (fun im => im.owner == pol)).getD false
  { s with sched := { s.sched with
      berm := if own then s.sched.berm.map add else s.sched.berm
      bermMirror := if own then s.sched.bermMirror.map add else s.sched.bermMirror
      keptBerm := s.sched.keptBerm.map (fun k =>
        if k.1 = pol then (k.1, k.2.1, k.2.2.1, add k.2.2.2.1, k.2.2.2.2.map add) else k) } }

/-- The slots' objects take the record's values plus the host deltas, in ascending slot order, while RESTORING reads 1; the
polder's watches are evaluated once, afterwards (R298, R300). -/
def State.restoreSync (s : State) (im : Image) (b : Berm) : State :=
  let s1 := s.put SYN_STAT.RESTORING 1 im.owner
  let s2 := s1.each (List.zip im.slots b.vals) (fun s p => s.setObj p.1 (p.2 + SMap.get 0 b.deltas p.1))
  let s3 := (s2.put SYN_STAT.RESTORING 0 im.owner).each (List.range 128) (fun s w =>
    s.when (im.slots.contains (s.get SYN_WATCH.OBJ im.owner w)) (fun s => s.evalWatch im.owner w))
  let clr (b : Berm) : Berm := { b with deltas := [] }
  { s3 with sched := { s3.sched with berm := s3.sched.berm.map clr, bermMirror := s3.sched.bermMirror.map clr } }

/-! Berm records (R85, R118). -/

/-- Engines of the schedule's polder, whose journals a berm record empties (R118; log 227, DEDUCED). -/
def State.polderEngines (s : State) : List Nat :=
  (List.range 16).filter (fun n => s.sched.image.isSome && s.get GTH_ASSIGN.OWNER n == s.owner)

/-- The record of berm step `n` with its start value is taken and committed: it replaces the previous one, an earlier mirrored
one is kept beside it, and the journals are emptied. A berm step that is entered again after a rollback has its record already: the
units that have faulted since stay noted (R286). What is kept of another image stays (R89). -/
def State.commitBerm (s : State) (im : Image) (n start : Nat) : State :=
  let mir := ((im.step n).map (·.mirrored)).getD false
  let r : Berm := { step := n, start := start, vals := im.slots.map s.obj, mirrored := mir }
  let again := (s.sched.berm.map (·.step)) == some n
  let s1 := { s with sched := { s.sched with
    berm := some r, bermMirror := if mir then none else s.mirrorBerm,
    faultUnits := if again then s.sched.faultUnits else [],
    keptBerm := s.sched.keptBerm.filter (fun k => !(k.1 == im.owner && k.2.1 == im.id && k.2.2.1 == im.crc)) } }
  (s1.put GLB_STEP_BERM.STEP n).each s1.polderEngines (fun s e => s.setEngine e { s.engine e with journal := [] })

/-! Steps. -/

/-- Every tile with words starts at its entry with registers and FLAGS zero and the SEED of the image; the others are retired
(R49, R73). -/
def State.startTiles (s : State) (im : Image) (entries : List Nat) : State :=
  s.each (List.range 192) (fun s t =>
    match im.sections[t]? with
    | some e => s.setTile t (if e.words = 0 then {} else
        { pc := BitVec.ofNat 15 (entries.getD t 0), seed := e.seed, st := .running })
    | none => s)

/-- Every complete tile continues at PC + 1 (R69). -/
def State.nextTiles (s : State) : State :=
  s.each (List.range 192) (fun s t => s.when ((s.tile t).st == .complete) (fun s => s.advance t))

/-- The step unit turns to step `n` with its start value; `b` is the boundary crossed. Nothing has reported done. -/
def State.openStep (s : State) (n start b : Nat) : State :=
  let s1 := (((s.put GLB_STEP_NOW.STEP n).put GLB_STEP_STATE.HELD 0).put GLB_STEP_STATE.HOLDING 0).put
    GLB_STEP_STATE.HOLDERS 0
  let s2 := s1.each [0, 1] (fun s e => s.setHz e { s.hzEng e with stepFlags := 0, degRaised := false })
  { s2 with
    tiles := SMap.mapVal {} (fun x => { x with busy := 0 }) s2.tiles
    sched := { s2.sched with startVal := start, crossed := b, frozen := none, join0 := false, join1 := false,
                             clusterFb := [], holds := [], releases := [], late := false, lateHolds := [], lateReleases := [],
                             retrans := 0, maxTj := s2.tj } }

/-- Clusters whose tiles are all done from the start report at once (R73). -/
def State.reportClusters (s : State) : State := s.each (List.range 16) (fun s c => s.clusterReport c)

/-- Step `n` starts: a berm step from its entries, with its record committed; any other where the tiles stand. -/
def State.enterStep (s : State) (im : Image) (n start b : Nat) : State :=
  let s1 := s.openStep n start b
  (match im.step n with
   | some e => if e.berm then (s1.startTiles im e.entry).commitBerm im n start else s1.nextTiles
   | none => s1).reportClusters

/-- What a run leaves when it stops: nothing held, nothing waited for. -/
def State.closeRun (s : State) : State :=
  let s1 := ((s.put GLB_STEP_STATE.HELD 0).put GLB_STEP_STATE.HOLDING 0).put GLB_STEP_STATE.HOLDERS 0
  { s1 with sched := { s1.sched with frozen := none, holds := [], releases := [], late := false, lateHolds := [],
                                     lateReleases := [], restoring := false, go := none, reports := [], target := none,
                                     lostRanks := [], preempt := none, stopAt := false } }

/-- The run has come to rest at boundary `b`: a hold for it may still arrive (R83). -/
def State.restAt (s : State) (b : Nat) : State := { s with sched := { s.sched with startVal := b, crossed := b } }

/-- The pre-emption descriptors end. -/
def State.endPreempts (s : State) (status det : Nat) : State :=
  ({ s with sched := { s.sched with preDescs := [] } } : State).each s.sched.preDescs (fun s d => s.endDesc d status det 0)

/-- The run stops at the boundary `b` into berm step `n`, whose record is committed: PREEMPTED, or unloaded after a cancel (R89,
R90). -/
def State.stopRun (s : State) (im : Image) (n start b : Nat) : State :=
  let s1 := (((s.commitBerm im n start).closeRun).restAt b).endPreempts stSuccess n
  if s.sched.cancelled then
    ((s1.put GLB_STEP_STATE.STATE 1).endRun (s.stopStatus stCancelledAfter) (s.stopDetail n)).unload
  else
    let s2 := (s1.put GLB_STEP_STATE.STATE 5).endRun stPreempted n
    match s2.sched.berm with
    | some r => { s2 with sched := { s2.sched with keptBerm := s2.sched.keptBerm ++ [(im.owner, im.id, im.crc, r, s2.sched.bermMirror)] } }
    | none => s2

/-- The last step is done (R90, R263). -/
def State.finishRun (s : State) (im : Image) : State :=
  let s1 := ((s.closeRun.restAt s.boundary).put GLB_STEP_STATE.STATE 6).endRun stSuccess (im.total - 1)
  (({ s1 with sched := { s1.sched with cancelled := false } } : State).endPreempts stSchedState 6).unloadClosing

/-- The schedule ends FAILED (R286). -/
def State.failRun (s : State) : State :=
  let s1 := (s.closeRun.put GLB_STEP_STATE.STATE 7).endRun stSchedFailed (s.get GLB_STEP_BERM.STEP)
  (({ s1 with sched := { s1.sched with cancelled := false } } : State).endPreempts stSchedState 7).unloadClosing

/-- The epoch advances (R81). -/
def State.nextEpoch (s : State) : State := s.put GLB_STEP_STATE.EPOCH (s.get GLB_STEP_STATE.EPOCH + 1)

/-- The step counter reads `v` at machine tick count `t`. -/
def State.setOffset (s : State) (t v : Nat) : State :=
  let o := (t + 2 ^ 64 - v % 2 ^ 64) % 2 ^ 64
  if s.sched.restoring then { s with sched := { s.sched with restoreOff := o } } else s.put GLB_STEP_OFFSET.OFFSET o

/-- No restore step is in hand. -/
def State.noRestore (s : State) : State := { s with sched := { s.sched with restoring := false } }

/-- The target berm step of a rollback starts at machine tick count `t` in the epoch that the rollback settled, or the run stops there
(R81, R87, R89). -/
def State.startTarget (s : State) (im : Image) (n start b t : Nat) : State :=
  let epoch := (s.sched.target.map (·.epoch)).getD (s.get GLB_STEP_STATE.EPOCH + 1)
  let s1 : State := { s with sched := { s.sched with restoring := false, reports := [], target := none, lost := false, lostRanks := [] } }
  let s2 := (s1.setOffset t start).put GLB_STEP_STATE.EPOCH epoch
  if s.sched.stopAt || (s.sched.preempt.map (fun m => decide (m ≤ n))).getD false then s2.stopRun im n start b
  else (s2.put GLB_STEP_STATE.STATE 3).enterStep im n start b

/-- The counter stands at the boundary of the step in hand, and the package goes on from it (R78, R80). -/
def State.cross (s : State) : State :=
  match s.sched.image with
  | none => s
  | some im =>
    let b := s.boundary
    if s.sched.restoring then s.startTarget im s.stepNo s.sched.startVal b ((s.stepOffset + b) % 2 ^ 64)
    else
      let n := s.stepNo + 1
      let berm := ((im.step n).map (·.berm)).getD false
      if im.total ≤ n then s.finishRun im
      else if berm && (s.sched.preempt.map (fun m => decide (m ≤ n))).getD false then s.stopRun im n b b
      else s.enterStep im n b b

/-! Start and resume (R91, R92). -/

/-- The check code of R92 that fails now, or 0. -/
def State.recheck (s : State) (im : Image) : Nat :=
  if shapeBad s im.packages im.groups im.groupSize im.shape im.torus then 7
  else if im.lanePlan != s.plan.id then 8 else 0

/-- This package's ready message. -/
def State.sendReady (s : State) (m : Ready) : State :=
  ({ s with sched := { s.sched with readies := s.sched.readies ++ [m] } } : State).flood (.ready m)

/-- One ready message of a kind from every package, the first of each: a start or resume is decided (R91, R92). -/
def State.roundOf (s : State) (im : Image) (kind : Nat) : Option (List Ready) :=
  (List.range im.packages).mapM (fun r => s.sched.readies.find? (fun m => m.rank == r && m.kind == kind))

/-- The ready messages of a round are taken: a package that refused, or whose image differs, ends the start with
SCHED_MISMATCH; otherwise it begins at the last ready's tick count plus HOLD_HORIZON. -/
def State.takeRound (s : State) (im : Image) (ms : List Ready) : State :=
  let s1 := { s with sched := { s.sched with readies := ms.foldl (fun l m => l.erase m) s.sched.readies } }
  match ms.find? (fun m => m.rank == s.rank) with
  | none => s1
  | some me =>
    if me.refused then s1
    else
      match ms.find? (fun m => m.refused || m.imageId != me.imageId || m.crc != me.crc) with
      | some b => (s1.put GLB_STEP_STATE.STATE s.sched.prev).endRun stMismatch (2 + b.rank % 32768 * 65536)
      | none => { s1 with sched := { s1.sched with go := some ((ms.map (·.tick)).foldl max 0 + im.horizon) } }

/-- A round of starts or resumes is taken where it is whole. -/
def State.matchReady (s : State) : State :=
  match s.sched.image with
  | none => s
  | some im =>
    match s.roundOf im 0, s.roundOf im 1 with
    | some ms, _ => s.takeRound im ms
    | none, some ms => s.takeRound im ms
    | none, none => s

/-- A ready message is recorded; that of a rollback replaces the sender's earlier one (R87). -/
def State.noteReady (s : State) (m : Ready) : State :=
  if m.kind = 2 then
    { s with sched := { s.sched with
        readies := s.sched.readies.filter (fun x => x.rank != m.rank || x.kind != 2) ++ [m] } }
  else ({ s with sched := { s.sched with readies := s.sched.readies ++ [m] } } : State).matchReady

/-- SCHED_STATE with the state, and whether the polder is not the owner (R263). -/
def State.badState (s : State) (x : Desc) : State :=
  let other := (s.sched.image.map (fun im => im.owner != x.pol)).getD false
  s.endDesc x.id stSchedState (s.schedSt + 256 * b2n other) 0

/-- The polder owns the resident schedule. -/
def State.ownsSched (s : State) (pol : Nat) : Bool := (s.sched.image.map (fun im => im.owner == pol)).getD false

/-- The first fitted tile domain that is not ON (R320). -/
def State.tileDomainOff (s : State) : Option Nat :=
  ((List.range 16).map (6 + ·)).find? (fun d => s.part.hasDomain d && s.get PWR_DOMAIN.STATE d != 3)

/-- A start or resume begins on this package: the checks of R92, then the ready message (R91). -/
def State.beginStart (s : State) (x : Desc) (kind : StartKind) (code target start epoch : Nat) : State :=
  match s.sched.image with
  | none => s
  | some im =>
    let m : Ready := { rank := s.rank, tick := s.mtick, imageId := im.id, crc := im.crc, kind := code, target := target,
                       start := start, epoch := epoch }
    let bad := s.recheck im
    if bad ≠ 0 then
      ((s.endDesc x.id stMismatch (3 + 256 * bad) 0).sendReady { m with refused := true }).matchReady
    else
      let s1 := (s.put GLB_STEP_STATE.STATE 2)
      (({ s1 with sched := { s1.sched with prev := s.schedSt, startDesc := some x.id, kind := kind, go := none,
                                           cancelled := false, preempt := none, stopAt := false } } : State).sendReady m).matchReady

/-! Pre-emption and cancel (R89, R90). -/

/-- The first berm step from `n` on, before the last step of the last pass, that starts at `need` or later; step `n` starts at
`t`. -/
def bermAfter (im : Image) (need : Nat) : Nat → Nat → Nat → Option Nat
  | 0, _, _ => none
  | fuel + 1, n, t =>
    if im.total ≤ n + 1 then none
    else match im.step n with
      | none => none
      | some e => if e.berm && decide (need ≤ t) then some n else bermAfter im need fuel (n + 1) (t + e.budget + im.horizon)

/-- The berm step a request taken now names. -/
def State.namedBerm (s : State) (im : Image) : Option Nat :=
  bermAfter im (s.stepCount + im.horizon) (2 * im.steps.length + 64) (s.stepNo + 1) s.boundary

/-- A request is kept: the earliest berm step named counts. -/
def State.notePreempt (s : State) (n : Nat) (cancel : Bool) : State :=
  let m := match s.sched.preempt with
    | some k => min k n
    | none => n
  { s with sched := { s.sched with preempt := some m, preemptIn := s.stepNo, cancelled := s.sched.cancelled || cancel } }

/-- A request of this package goes to every package. -/
def State.sendPreempt (s : State) (n : Nat) (cancel : Bool) : State := (s.notePreempt n cancel).flood (.preempt n cancel)

/-- A rollback stops at its target (R89, R237). -/
def State.stopAtTarget (s : State) (cancel : Bool) : State :=
  { s with sched := { s.sched with stopAt := true, cancelled := s.sched.cancelled || cancel } }

/-- The resident schedule is cancelled: before the boundary into its first step nothing starts on any package; after it, the
schedule stops at a berm step and is unloaded (R90, R268). -/
def State.cancelRun (s : State) : State :=
  match s.sched.image with
  | none => s
  | some im =>
    if s.schedSt = 2 then (s.flood (.preempt 0 true)).abandonStart stCancelled 0
    else if s.schedSt = 3 then
      (match s.namedBerm im with
       | some n => s.sendPreempt n true
       | none => s)
    else if s.schedSt = 4 then (s.flood (.preempt 0 true)).stopAtTarget true
    else s

/-! Rollback (R86, R87, R120, R286). -/

/-- A rank of the machine has no working package, be it held by a stand-in since, or this package's own state is lost (R86, R182,
R286). -/
def State.rankLost (s : State) (im : Image) : Bool :=
  s.sched.lost || (List.range im.packages).any (fun r => !s.reach r || s.sched.lostRanks.contains r)

/-- The target berm step that the reports settle (R86); none: no mirrored berm step is left, or a package of the torus, which has no
spares, has failed (R175). -/
def State.settleTarget (s : State) (im : Image) : Option Report :=
  let reps := s.sched.reports.filter (fun r => s.reach r.rank)
  let best := reps.foldl (fun (m : Report) r => if m.latest < r.latest then r else m) s.ownReport
  if im.shape = 1 ∧ ((List.range im.packages).any (fun r => !s.reach r)) = true then none
  else if !s.rankLost im || ((im.step best.latest).map (·.mirrored)).getD false then some best
  else
    match (reps.filterMap (·.mirrored)).foldl (fun (m : Option Nat) n => some (max n (m.getD 0))) s.ownReport.mirrored with
    | none => none
    | some n =>
      let start := (((s.mirrorBerm.filter (fun b => b.step == n)).map (·.start)).or
        ((reps.find? (fun r => r.latest == n)).map (·.start))).getD 0
      some { best with latest := n, start := start }

/-- The record of the target becomes the latest: taken from the present state where it is later than what this package
committed, else the record held of it (R85, R87). -/
def State.takeTarget (s : State) (im : Image) (r : Report) : State :=
  match s.sched.berm with
  | some b =>
    if b.step < r.latest then s.commitBerm im r.latest r.start
    else if b.step = r.latest then s
    else
      match s.mirrorBerm with
      | some m => ({ s with sched := { s.sched with berm := some m, bermMirror := none } } : State).put GLB_STEP_BERM.STEP m.step
      | none => s
  | none => s

/-- Scheduled channels are emptied, what is in transit on them with it: every slot of theirs is free, and their credits are announced
anew on each link that is up (R87, R158). -/
def State.emptyChannels (s : State) : State :=
  let s1 : State := { s with chanRx := [], trailHeld := s.trailHeld.filter (fun p => p.2.1 != 1),
                             links := SMap.mapVal {} (fun l => { l with q1 := [], held1 := 0 }) s.links }
  s1.each s1.upLinks (fun s k => s.announce k 1)

/-- An engine replays its journal, newest entry first, and empties it (R120). -/
def State.replayJournal (s : State) (n : Nat) : MemRes State :=
  ((s.engine n).journal.foldl (fun (o : MemRes State) j =>
    o.bind (fun s => (s.vwriteAll j.pol j.rowVa j.row).bind (fun s => s.vwriteAll j.pol j.stVa j.st))) (.ok s)).map
    (fun s => s.setEngine n { s.engine n with journal := [] })

/-- Engines that a rollback winds back: those of the polder in schedule mode, be they disabled since, and one reassigned since that
holds its journal (R120). -/
def State.windEngines (s : State) (im : Image) : List Nat :=
  (List.range 16).filter (fun n => s.get GTH_QUEUE_CFG.MODE n == 0 &&
    (s.get GTH_ASSIGN.OWNER n == im.owner || (s.engine n).journal.any (fun j => j.pol == im.owner)))

/-- CONSUMED follows the doorbell object's restored value (R120); a doorbell that the polder does not own is none (R292). -/
def State.resetConsumed (s : State) (im : Image) (n : Nat) : State :=
  match s.objField im.owner (s.get GTH_QUEUE_CFG.DOORBELL n) with
  | some o => s.put GTH_CONSUMED.COUNT (s.obj o).toNat n
  | none => s

/-- Hard frames behind embanked pages are retired (R285). -/
def State.retireHard (s : State) : State :=
  s.each (s.poison.filter (fun p => p.2 == 2)) (fun s p =>
    s.when (SMap.get 0 s.poison p.1 == 2 && !s.retired.contains (p.1 / 64)) (fun s => s.retireFrame (p.1 / 64)))

/-- The state of the target berm step is put back (R87, R120, R298). -/
def State.restoreTarget (s : State) (im : Image) (r : Report) : MemRes State :=
  let s1 := (s.takeTarget im r).emptyChannels
  let es := s1.windEngines im
  (es.foldl (fun (o : MemRes State) n => o.bind (fun s => s.replayJournal n)) (.ok s1)).map (fun s2 =>
    let s3 := match s2.sched.berm with
      | some b => s2.restoreSync im b
      | none => s2
    let s4 := ({ s3 with cache := [] } : State).each es (fun s n => s.resetConsumed im n)
    let s5 := s4.retireHard
    { s5 with sched := { s5.sched with target := some r } })

/-- Tiles whose instruction store holds an uncorrectable word are loaded again from the image (R87). An image that cannot be
read is met as any error of schedule work. -/
def State.reloadTiles (s : State) (im : Image) : MemRes State :=
  (List.range 192).foldl (fun (o : MemRes State) t =>
    match o with
    | .error e => .error e
    | .ok s =>
      if !(s.isErr.any (fun p => p.2 == 2 && p.1 / 32768 == t)) then .ok s
      else
        let e := im.sections.getD t ⟨0, 0, 0⟩
        let s := s.demand im.owner (im.src + e.off) (8 * e.words)
        match s.vread im.owner (im.src + e.off) (8 * e.words) with
        | .error er => .error er
        | .ok bs =>
          let ws := (sectionWords bs ⟨0, e.words, 0⟩) ++ List.replicate (32768 - e.words) 0
          .ok { s with istore := SMap.setList 0 s.istore (32768 * t) ws
                       isErr := SMap.clear s.isErr (32768 * t) (32768 * t + 32768) }) (.ok s)

end Sys2Proof.Machine
end

