-- ==== Sys2Proof/Machine/Gather.lean ====
section
/-! DEFINITION. The rows of embedding gather and sparse update (spec/05), with the gather descriptors of spec/12. -/

namespace Sys2Proof.Machine

/-! Access of an engine to device memory (R280). -/

/-- A read for a batch: in schedule mode within the regions of the schedule. -/
def State.batchRead (s : State) (b : Batch) (va n : Nat) : MemRes (List Byte) :=
  if b.desc.isNone && !(s.sched.image.map (fun im => im.mayRange va n false)).getD false then .error (.fault 2 va)
  else s.vread b.pol va n

/-- A write for a batch. -/
def State.batchWrite (s : State) (b : Batch) (va : Nat) (bs : List Byte) : MemRes State :=
  if b.desc.isNone && !(s.sched.image.map (fun im => im.mayRange va bs.length true)).getD false then .error (.fault 2 va)
  else s.vwriteAll b.pol va bs

/-- The batch of an engine changed. -/
def State.onBatch (s : State) (n : Nat) (g : Batch → Batch) : State :=
  s.setEngine n { s.engine n with batch := (s.engine n).batch.map g }

/-- An access of a batch (1 a read, 2 a write) did not give its data: in a schedule a schedule fault (R121, R280, R284); in serving mode
the descriptor suspends after its last whole bag, or ends. -/
def State.batchErr (s : State) (n : Nat) (b : Batch) (access : Nat) (e : MemErr) : State :=
  match b.desc with
  | none =>
    match e with
    | .hbm _ pa => ((s.meetUnit (pa / 64)).unitFault (pa / 64)).schedFault
    | .wait => s
    | _ => s.schedFault
  | some d =>
    match s.desc d with
    | none => s
    | some x => (s.setEngine n { s.engine n with trk := [] }).descErr x 4 access b.bags e

/-- The table a batch names: TABLE above COUNT − 1 becomes COUNT − 1 (R100). -/
def State.tableIx (s : State) (b : Batch) : Nat := min (s.get GTH_TDIR_CFG.COUNT b.pol - 1) (bTable b.cmd)

/-! Bags (R99, R101). -/

/-- Every id is a bag of its own: POOL = NONE, or a PREFETCH. -/
def Batch.single (b : Batch) : Bool := bPool b.cmd == 0 || b.op == 2
/-- Bags of a batch. -/
def Batch.count (b : Batch) : Nat := if b.single then b.offs.getLast?.getD 0 else b.offs.length - 1
/-- The positions of bag `i`. -/
def Batch.bag (b : Batch) (i : Nat) : Nat × Nat := if b.single then (i, i + 1) else (b.offs.getD i 0, b.offs.getD (i + 1) 0)

/-- The row id of an id (R99). -/
def State.remap (s : State) (b : Batch) (id : Nat) : MemRes Nat :=
  let t := b.tbl
  match tRemap t with
  | 1 => .ok (rowHash id (tRemapArg t) % tRows t)
  | 2 =>
    if tRemapLen t ≤ id then .ok (tOov t)
    else (s.batchRead b (tRemapArg t / 8 * 8 + 8 * id) 8).map (fun bs =>
      let r := leNat bs % 2 ^ 48
      if tRows t ≤ r then tOov t else r)
  | _ => .ok (if id < tRows t then id else tOov t)

/-- Row ids and weights of the positions [lo, hi). -/
def State.readIds (s : State) (b : Batch) (lo hi : Nat) : MemRes (List Nat × List Nat) :=
  match s.batchRead b (bIds b.cmd + 8 * lo) (8 * (hi - lo)) with
  | .error e => .error e
  | .ok ib =>
    match (List.range (hi - lo)).mapM (fun i => s.remap b (numAt ib (8 * i) 8)) with
    | .error e => .error e
    | .ok rows =>
      if bWeights b.cmd = 0 then .ok (rows, List.replicate (hi - lo) (fpNat 1))
      else (s.batchRead b (bWeights b.cmd + 4 * lo) (4 * (hi - lo))).map (fun wb =>
        (rows, (List.range (hi - lo)).map (fun i => numAt wb (4 * i) 4)))

/-- Reason and address of an error as a batch keeps them. -/
def MemErr.stop : MemErr → Nat × Nat
  | .fault r va => (r, va)
  | .hbm va _ => (0, va)
  | .remote _ _ _ _ va => (7, va)
  | .wait => (8, 0)

/-- The bags from `b.bags` on are read, as far as they can be; what is known of the earlier ones stays (R121). -/
def State.readBags (s : State) (b : Batch) : Batch × Option MemErr :=
  let start := (b.bag b.bags).1
  let b0 : Batch := { b with rows := b.rows.take start, wts := b.wts.take start, next := start,
                             got := b.got.filter (fun p => decide (p.1 < start)), bad := [], stop := none, lost := none }
  ((List.range (b.count - b.bags)).map (b.bags + ·)).foldl (fun (p : Batch × Option MemErr) i =>
    match p.2 with
    | some _ => p
    | none =>
      match s.readIds b (b.bag i).1 (b.bag i).2 with
      | .error e => ({ p.1 with stop := some (i, e.stop) }, some e)
      | .ok (rs, ws) => ({ p.1 with rows := p.1.rows ++ rs, wts := p.1.wts ++ ws }, none)) (b0, none)

/-! Fetches (R107, R108). -/

/-- The machine's packages, for owner ranks (R98). -/
def State.machine (s : State) : Nat := max 1 s.ranks

/-- The bytes of a request for a row of another package (log 27, DESIGN CHOICE). -/
def lookupBytes (pol table row : Nat) (sched : Bool) : List Byte :=
  leBytes 1 pol ++ leBytes 1 (b2n sched) ++ leBytes 2 0 ++ leBytes 4 table ++ leBytes 8 row

/-- One row fetch is issued: it takes a tracker entry, and a row of another package that the cache does not hold is asked for. -/
def State.issueRow (s : State) (n : Nat) (b : Batch) (pos : Nat) : State :=
  let row := b.rows.getD pos 0
  let (owner, loc) := rowHome b.tbl s.rank s.machine row
  let e := s.engine n
  let entry (hit : List Byte) (s : State) : State :=
    s.setEngine n { e with trk := e.trk ++ [{ id := e.nextTrk, pos := pos, row := row, owner := owner, hit := hit }],
                           nextTrk := e.nextTrk + 1 }
  let ix := s.tableIx b
  if owner = s.rank then entry [] s
  else
    match (if tCache b.tbl && tFrozen b.tbl then s.cachedRow b.pol ix owner loc (tRowSize b.tbl) else (none, s)) with
    | (some bs, s1) => entry bs (s1.when (b.op == 2 && bPin b.cmd) (fun s => s.cacheRow b.pol ix owner loc true bs))
    | (none, s1) =>
      let tag := BitVec.ofNat 32 e.nextTrk
      let req := lookupBytes b.pol ix row b.desc.isNone
      if b.desc.isNone then (entry [] s1).sendBytes owner tag req else (entry [] s1).sendFree owner tag req

/-- Fetches are issued in list order while tracker entries are free. -/
def State.issueRows (s : State) (n : Nat) : State :=
  match (s.engine n).batch with
  | none => s
  | some b =>
    let k := min (b.rows.length - b.next) (32768 - (s.engine n).trk.length)
    (s.each (List.range k) (fun s i =>
      match (s.engine n).batch with
      | some _ => s.issueRow n b (b.next + i)
      | none => s)).onBatch n (fun b' => { b' with next := b.next + k })

/-! Sparse update (R114–R119). -/

/-- A contribution enters the sort area; one that does not fit is met when its SEQ is applied (R115, R119). -/
def State.addContrib (s : State) (n : Nat) (b : Batch) (c : Contrib) : MemRes State :=
  let off := ((s.engine n).sort.map (fun c => c.bytes.length)).sum
  let s1 := s.setEngine n { s.engine n with sort := (s.engine n).sort ++ [c] }
  if s.get GTH_SORT_BYTES.BYTES n < off + c.bytes.length then .ok s1
  else s1.batchWrite b (s.get GTH_SORT_BASE.ADDR n * 64 + off) c.bytes

/-- Ranks whose end markers the owner waits for: every package of the machine where this one is among the ranks of the
table, else itself (R114, R115). -/
def State.sources (s : State) (t : List Byte) : List Nat :=
  if (List.range (tRanks t)).any (fun i => (tFirst t + i) % s.machine == s.rank) then List.range s.machine else [s.rank]

/-- Bytes the undo entries of an engine take (R118). -/
def State.journalBytes (s : State) (n : Nat) : Nat := ((s.engine n).journal.map (fun j => 16 + j.row.length)).sum

/-- One row is updated: its undo entry is written first, then the row and its state; a row that is not finite stays as it is
(R116–R118). -/
def State.updateRow (s : State) (n : Nat) (b : Batch) (loc : Nat) (g : List Nat) : MemRes State :=
  let t := b.tbl
  let va := tBase t + loc * tStride t
  let sa := tState t + 4 * loc
  let jr := s.get GTH_JRNL_BYTES.BYTES n != 0
  match s.batchRead b va (tStride t) with
  | .error e => .error e
  | .ok old =>
    match (if jr || bAdagrad b.cmd then s.batchRead b sa 4 else .ok []) with
    | .error e => .error e
    | .ok st =>
      let (w, st') := optimise b.cmd (tDim t) (rowVals t old) g (leNat st)
      if !w.all fpFinite then .ok (s.bump GTH_QUEUE_CFG.NAN_ROWS n)
      else
        let entry : JEntry := { pol := b.pol, rowVa := va, row := old, stVa := sa, st := st }
        let undo : MemRes State := if jr then
            (s.batchWrite b (s.get GTH_JRNL_BASE.ADDR n * 64 + s.journalBytes n) (leBytes 8 loc ++ (st ++ leBytes 4 0) ++ old)).map
              (fun s => s.setEngine n { s.engine n with journal := entry :: (s.engine n).journal })
          else .ok s
        let new := (packBack t b.cmd old loc w).take (tRowSize t)
        undo.bind (fun s1 => (s1.batchWrite b va new).bind (fun s2 =>
          let s3 := if tCache t then s2.writeThrough b.pol va new else s2
          if bAdagrad b.cmd then s3.batchWrite b sa (leBytes 4 st') else .ok s3))

/-- The sum of the contributions to a row, by source rank, from the first exactly (R115). -/
def sumContribs (f dim : Nat) (cs : List Contrib) : List Nat :=
  match cs.map (fun c => unpackGrad f dim c.grad) with
  | [] => []
  | g :: gs => gs.foldl (fun acc x => List.zipWith fpAdd acc x) g

/-- The owner orders the contributions of its SEQ by local row and source rank, checks that they and their undo entries fit,
and applies one update per row; where an access stops it, the rows not yet updated wait (R115, R119). -/
def State.applySeq (s : State) (n : Nat) (b : Batch) : State :=
  let t := b.tbl
  let home (c : Contrib) : Nat := (rowHome t s.rank s.machine c.row).2
  let cs := (s.engine n).sort.filter (fun c => c.seq == bSeq b.cmd)
  let s0 := s.setEngine n { s.engine n with sort := (s.engine n).sort.filter (fun c => c.seq != bSeq b.cmd),
                                            marks := (s.engine n).marks.filter (fun m => m.1 != bSeq b.cmd) }
  let locs := ((cs.map home).eraseDups).mergeSort (fun a b => decide (a ≤ b))
  let jr := s.get GTH_JRNL_BYTES.BYTES n
  let tooBig (f : Fld) (k : Nat) : State :=
    let s1 := s0.put f 1 n
    match b.desc with
    | none => s1.schedFault
    | some d => s1.endDesc d stAreaOverflow k 0
  if s.get GTH_SORT_BYTES.BYTES n < cs.length * contribBytes (bGrad b.cmd) (tDim t) then tooBig GTH_QUEUE_CFG.SORT_OVF 1
  else if jr ≠ 0 ∧ jr < s.journalBytes n + locs.length * (16 + tStride t) then tooBig GTH_QUEUE_CFG.JRNL_OVF 2
  else
    let out := locs.foldl (fun (o : State × List Contrib × Option MemErr) l =>
      match o.2.2 with
      | some _ => o
      | none =>
        let mine := (o.2.1.filter (fun c => home c == l)).mergeSort (fun a b => decide (a.rank ≤ b.rank))
        match o.1.updateRow n b l (sumContribs (bGrad b.cmd) (tDim t) mine) with
        | .ok s' => (s', o.2.1.filter (fun c => home c != l), none)
        | .error e => (o.1, o.2.1, some e)) (s0, cs, none)
    match out.2.2 with
    | some e =>
      let x := out.1.engine n
      (out.1.setEngine n { x with sort := x.sort ++ out.2.1, marks := x.marks ++ (s.engine n).marks.filter (fun m => m.1 == bSeq b.cmd) }).batchErr
        n b 2 e
    | none => out.1.onBatch n (fun b => { b with bags := b.count, done := true })

/-- The SEQ of the batch in hand is applied once every end marker is in (R115). -/
def State.tryApply (s : State) (n : Nat) : State :=
  match (s.engine n).batch with
  | none => s
  | some b =>
    if b.op = 1 ∧ b.sent ∧ b.done = false ∧
        (s.sources b.tbl).all (fun r => (s.engine n).marks.contains (bSeq b.cmd, r)) then s.applySeq n b
    else s

/-- The bag gradients (R104, R114). -/
def State.readGrads (s : State) (b : Batch) : MemRes (List (List Nat)) :=
  (List.range b.count).mapM (fun i =>
    (s.batchRead b (bData b.cmd + i * outRow 0 (tDim b.tbl)) (4 * tDim b.tbl)).map (fun bs => fpRow bs (tDim b.tbl)))

/-- The contributions of a batch, merged: row ids and FP32 sums. -/
def Batch.contributions (b : Batch) (gs : List (List Nat)) : List (Nat × List Nat) :=
  mergeRows [] ((List.range b.count).flatMap (fun i =>
    let (lo, hi) := b.bag i
    let rows := (List.range (hi - lo)).map (fun j => rowVals b.tbl (SMap.get [] b.got (lo + j)))
    (List.range (hi - lo)).map (fun j =>
      (b.rows.getD (lo + j) 0, Sys2Proof.Machine.contribution (bPool b.cmd) (hi - lo) j (b.wts.getD (lo + j) 0) rows (gs.getD i [])))))

/-- The source side of a SCATTER_ADD: contributions and end markers go to their owners; in serving mode only its own are
kept, and the others counted (R114, R119). -/
def State.source (s : State) (n : Nat) (b : Batch) : State :=
  if tFrozen b.tbl then
    (s.bump GTH_QUEUE_CFG.FROZEN_SKIP n).onBatch n (fun b => { b with bags := b.count, sent := true, done := true })
  else
    let s := s.demand b.pol (bData b.cmd) (b.count * outRow 0 (tDim b.tbl))
    match s.readGrads b with
    | .error e => s.batchErr n b 1 e
    | .ok gs =>
      let seq := bSeq b.cmd
      let own (c : Contrib) : Bool := c.seq == seq && c.rank == s.rank
      let s0 := s.setEngine n { s.engine n with sort := (s.engine n).sort.filter (fun c => !own c) }
      let cs := (b.contributions gs).map (fun p => (rowHome b.tbl s.rank s.machine p.1, p.1, packGrad (bGrad b.cmd) p.2))
      let mine := cs.filter (fun c => c.1.1 == s.rank)
      let theirs := cs.filter (fun c => c.1.1 != s.rank)
      let contrib (c : (Nat × Nat) × Nat × List Byte) : Contrib := { seq := seq, rank := s.rank, row := c.2.1, grad := c.2.2 }
      match mine.foldl (fun (o : MemRes State) c => o.bind (fun s => s.addContrib n b (contrib c))) (.ok s0) with
      | .error e => s.batchErr n b 2 e
      | .ok s1 =>
        let s2 := s1.onBatch n (fun b => { b with sent := true })
        if b.desc.isSome then
          (s2.bump GTH_QUEUE_CFG.REMOTE_SKIP n 0 theirs.length).applySeq n { b with sent := true }
        else
          let tag := BitVec.ofNat 32 seq
          let s3 := s2.each theirs (fun s c => s.sendBytes c.1.1 tag (contrib c).bytes)
          let dests := ((List.range (tRanks b.tbl)).map (fun i => (tFirst b.tbl + i) % s.machine)).eraseDups.filter
            (fun r => r != s.rank)
          let s4 := s3.each dests (fun s r => s.sendBytes r tag (leBytes 8 (2 ^ 64 - 1) ++ leBytes 4 s.rank ++ leBytes 4 seq))
          (s4.setEngine n { s4.engine n with marks := (s4.engine n).marks ++ [(seq, s4.rank)] }).tryApply n

/-! Bags finish in order (R102, R104, R107, R121). -/

/-- A finished bag is written where it goes; a row lost to an HBM error marks its output in a stream, and ends a serving
batch. -/
def State.finishBag (s : State) (n : Nat) (b : Batch) (lo hi : Nat) : State :=
  let hurt := b.bad.find? (fun p => decide (lo ≤ p.1) && decide (p.1 < hi))
  let next (s : State) : State := s.onBatch n (fun b => { b with bags := b.bags + 1 })
  match hurt, b.desc with
  | some p, some d => s.endDesc d stHbmError p.2.1 b.bags
  | some p, none =>
    if b.op = 1 then (match p.2.2 with
      | some u => s.unitFault u
      | none => s).schedFault
    else if b.op = 2 then next s
    else
      let k := 192 * n + bTile b.cmd
      next { s with streams := SMap.set [] s.streams k (SMap.get [] s.streams k ++
        List.replicate (outRow (bOut b.cmd) (tDim b.tbl)) (0, true)) }
  | none, _ =>
    if b.op ≠ 0 then next s
    else
      let rows := (List.range (hi - lo)).map (fun j => rowVals b.tbl (SMap.get [] b.got (lo + j)))
      let out := packRow (bOut b.cmd) (poolRows (bPool b.cmd) (tDim b.tbl) rows ((b.wts.drop lo).take (hi - lo)))
      match b.desc with
      | none =>
        let k := 192 * n + bTile b.cmd
        next { s with streams := SMap.set [] s.streams k (SMap.get [] s.streams k ++ out.map (fun x => (x, false))) }
      | some _ =>
        match s.batchWrite b (bData b.cmd + b.bags * out.length) out with
        | .ok s' => next s'
        | .error e => s.batchErr n b 2 e

/-- Every row of the positions [lo, hi) has come or is known to be lost. -/
def Batch.have_ (b : Batch) (lo hi : Nat) : Bool :=
  (List.range (hi - lo)).all (fun j => SMap.get [] b.got (lo + j) != [] || b.bad.any (fun p => p.1 == lo + j))

/-- Bags that have all their rows finish, in order; after the last the batch is done, or its contributions are formed. -/
def State.advanceBags (s : State) (n : Nat) : Nat → State
  | 0 => s
  | fuel + 1 =>
    match (s.engine n).batch with
    | none => s
    | some b =>
      if b.done || b.sent then s
      else if b.count ≤ b.bags then
        (if b.op = 1 then s.source n { b with bags := 0 } else s.onBatch n (fun b => { b with done := true }))
      else
        let (lo, hi) := b.bag b.bags
        match b.stop.filter (fun p => p.1 == b.bags), b.lost.filter (fun p => decide (lo ≤ p.1) && decide (p.1 < hi)), b.desc with
        | some (_, r, va), _, some d =>
          if r = 0 then s.endDesc d stHbmError va b.bags
          else (match s.desc d with
            | some x => (s.setEngine n { s.engine n with trk := [] }).descFault x 4 r va 1 b.bags
            | none => s)
        | some _, _, none => s.schedFault
        | none, some p, some d => s.endDesc d stLookupLost p.2 b.bags
        | none, _, _ => if b.have_ lo hi then (s.finishBag n b lo hi).advanceBags n fuel else s

/-- All bags that can finish do. -/
def State.advance_ (s : State) (n : Nat) : State :=
  s.advanceBags n (((s.engine n).batch.map (·.count)).getD 0 + 1)

/-- A batch begins, or goes on after a suspension: table, offsets, ids, then the fetches (R96, R100, R101). -/
def State.runBatch (s : State) (n : Nat) : State :=
  match (s.engine n).batch with
  | none => s
  | some b0 =>
    let dir := s.get GTH_TDIR_BASE.ADDR b0.pol * 64 + 64 * s.tableIx b0
    let s := (s.demand b0.pol dir 64).demand b0.pol (bOffsets b0.cmd) (4 * (bBags b0.cmd + 1))
    match s.batchRead b0 dir 64 with
    | .error e => s.batchErr n b0 1 e
    | .ok t =>
      match s.batchRead b0 (bOffsets b0.cmd) (4 * (bBags b0.cmd + 1)) with
      | .error e => s.batchErr n b0 1 e
      | .ok ob =>
        let b1 : Batch := { b0 with
          tbl := t, offs := clampOffs ((List.range (bBags b0.cmd + 1)).map (fun i => numAt ob (4 * i) 4)) }
        let lo := (b1.bag b1.bags).1
        let ids := (b1.bag (b1.count - 1)).2 - lo
        let s := (s.demand b1.pol (bIds b1.cmd + 8 * lo) (8 * ids)).when (bWeights b1.cmd != 0) (fun s =>
          s.demand b1.pol (bWeights b1.cmd + 4 * lo) (4 * ids))
        let (b2, err) := s.readBags b1
        let s1 := (match err with
          | some (.hbm _ pa) => s.meetUnit (pa / 64)
          | _ => s).onBatch n (fun _ => b2)
        match err with
        | some (.remote r a l w va) => s1.batchErr n b2 1 (.remote r a l w va)
        | some .wait => s1.batchErr n b2 1 .wait
        | _ =>
          if b2.op = 1 ∧ bPool b2.cmd ≠ 3 ∧ err.isNone then s1.source n b2
          else if b2.op = 1 ∧ tFrozen t then s1.source n b2
          else (s1.issueRows n).advance_ n

/-! The rows of spec/05. -/

/-- The doorbell of an engine of the schedule is ahead of CONSUMED (R105); one that the polder does not own is none (R292). -/
def State.doorbell (s : State) (n : Nat) : Bool :=
  match s.objField s.owner (s.get GTH_QUEUE_CFG.DOORBELL n) with
  | some o => decide (s.get GTH_CONSUMED.COUNT n < (s.obj o).toNat)
  | none => false

/-- The engine has a command of its queue to take (R105): none with EN = 0 (R94) or in a rollback before its restore step (R120). -/
def State.gthDue (s : State) (n : Nat) : Bool :=
  s.schedEngine n && s.bit GTH_ASSIGN.EN n && (s.engine n).batch.isNone && (s.engine n).queued.isNone &&
    !(s.schedSt == 4 && !s.sched.restoring) && s.doorbell n

/-- GTH_BATCH_TAKE: the engine takes the next command of its queue (R105), or goes on with the batch in hand where the port of
its polder held it up. Without the XD core clock no engine takes one (R323). -/
def execGthBatchTake (n : Fin 16) (s : State) : Out :=
  .next (
    let e := s.engine n
    let taken := s.get GTH_CONSUMED.COUNT n
    if (e.batch.map (fun b => b.desc.isNone && !b.done)).getD false && e.trk.isEmpty then
      (if (e.batch.map (fun b => b.op == 1 && b.sent)).getD false then s.tryApply n else s.runBatch n)
    else if !s.gthDue n || s.bit PWR_IDLE.IDLE then s
    else
      let b : Batch := { op := 0, cmd := [], pol := s.owner }
      let a := s.get GTH_QUEUE_BASE.ADDR n * 64 + 64 * (taken % s.get GTH_QUEUE_CFG.ENTRIES n)
      let s := s.demand b.pol a 64
      match s.batchRead b a 64 with
      | .error er => s.batchErr n b 1 er
      | .ok c =>
        let op := if 2 < numAt c 1 1 then 0 else numAt c 1 1
        ((s.put GTH_CONSUMED.COUNT (taken + 1) n).setEngine n { e with batch := some { b with op := op, cmd := c } }).runBatch n)

/-- Why an engine cannot take a descriptor of a polder, as the reason of UNIT_UNAVAILABLE (R263). -/
def State.engineReason (s : State) (pol n : Nat) : Option Nat :=
  if s.get GTH_ASSIGN.OWNER n ≠ pol then some 3
  else if s.get GTH_QUEUE_CFG.MODE n = 0 then some 4
  else if !s.bit GTH_ASSIGN.EN n then some 5
  else none

/-- A gather descriptor runs on the engine it names; it waits while the engine runs another batch. Its command is the one read at issue
(R260), or, where that read was suspended or waits, read now. -/
def State.gatherDesc (s : State) (d opcode op : Nat) : State :=
  s.runDesc d opcode (fun x s =>
    let n := x.field 0x18 1 % 16
    match (s.engine n).batch with
    | some b =>
      if b.desc ≠ some d ∨ b.done ∨ (s.engine n).trk ≠ [] then s
      else if b.op = 1 ∧ b.sent then s.applySeq n b
      else s.runBatch n
    | none =>
      match s.engineReason x.pol n with
      | some r => s.endDesc d stUnavailable (r + 256 * n) 0
      | none =>
        let go (s : State) (c : List Byte) : State :=
          (s.setEngine n { s.engine n with batch := some { op := op, cmd := c, pol := x.pol, desc := some d } }).runBatch n
        if x.blob.isEmpty then
          let a := x.field 0x20 8 / 64 * 64
          let s1 := s.demand x.pol a 64
          match s1.vread x.pol a 64 with
          | .error e => s1.descErr x 4 1 0 e
          | .ok c => go s1 c
        else go s x.blob)

/-- The GATHER descriptor (R95). -/
def execGather (d : Nat) (s : State) : Out := .next (s.gatherDesc d 0x18 0)
/-- The SCATTER_ADD descriptor (R114). -/
def execScatterAdd (d : Nat) (s : State) : Out := .next (s.gatherDesc d 0x19 1)
/-- The PREFETCH descriptor (R110). -/
def execPrefetch (d : Nat) (s : State) : Out := .next (s.gatherDesc d 0x1A 2)

/-- A fetch of engine `n`: its entry and its batch. -/
def State.fetchOf (s : State) (n entry : Nat) : Option (Trk × Batch) :=
  match (s.engine n).trk.find? (fun t => t.id == entry), (s.engine n).batch with
  | some t, some b => some (t, b)
  | _, _ => none

/-- The entry is free again (R108). -/
def State.freeEntry (s : State) (n entry : Nat) : State :=
  s.setEngine n { s.engine n with trk := (s.engine n).trk.filter (fun t => t.id != entry) }

/-- A row has come, or is known not to come: the batch goes on. -/
def State.rowCame (s : State) (n : Nat) (g : Batch → Batch) : State := ((s.onBatch n g).issueRows n).advance_ n

/-- The bytes of a fetched row have come, from here or from its owner. -/
def State.fetchDone (s : State) (n entry : Nat) (remote : List Byte) : State :=
    match s.fetchOf n entry with
    | none => s
    | some (t, b) =>
      let s1 := s.freeEntry n entry
      let size := tRowSize b.tbl
      let loc := (rowHome b.tbl s.rank s.machine t.row).2
      let put (s : State) (bs : List Byte) : State := s.rowCame n (fun b => { b with got := SMap.set [] b.got t.pos bs })
      let pin := b.op == 2 && bPin b.cmd
      if t.hit ≠ [] then put s1 t.hit
      else if t.owner = s.rank then
        let va := tBase b.tbl + loc * tStride b.tbl
        if b.desc.isNone && !(s.sched.image.map (fun im => im.mayRange va size false)).getD false then s1.schedFault
        else match s1.readRow b.pol (tCache b.tbl) pin va size with
          | .ok (bs, s2) => put s2 bs
          | .error (.hbm a pa) => (s1.meetUnit (pa / 64)).rowCame n (fun b => { b with bad := b.bad ++ [(t.pos, a, some (pa / 64))] })
          | .error .wait => s
          | .error e =>
            if b.desc.isNone then s1.schedFault
            else match e with
              | .remote r a l w v => s1.batchErr n b 1 (.remote r a l w v)
              | e =>
                let k := ((List.range b.count).find? (fun i => decide (t.pos < (b.bag i).2))).getD 0
                s1.rowCame n (fun b => { b with stop := some (match b.stop with
                  | some (j, x) => if j ≤ k then (j, x) else (k, e.stop)
                  | none => (k, e.stop)) })
      else if remote.length < size then s1.rowCame n (fun b => { b with bad := b.bad ++ [(t.pos, leNat (remote.take 8), none)] })
      else
        let bs := remote.take size
        put (s1.when (tCache b.tbl && tFrozen b.tbl) (fun s => s.cacheRow b.pol (s.tableIx b) t.owner loc pin bs)) bs

/-- ROW_FETCH_DONE: the row's bytes reach the reorder buffer. `remote` are those the owner sent: of a row that is uncorrectable there,
its device-virtual address alone. -/
def execRowFetchDone (a : Option Via) (n : Fin 16) (entry : Nat) (remote : List Byte) (s : State) : Out :=
  .next (match a, s.fetchOf n entry with
    | some v, some (t, b) =>
      s.onMsg v 1 (if b.desc.isNone then 1 else 2) (flitsOf (remote.length + 1)) t.owner (fun s => s.fetchDone n entry remote)
    | _, _ => s.fetchDone n entry remote)

/-- A row of this package read for another: in a schedule within its regions (R107, R280). Its bytes follow a 0, the address of one that
is uncorrectable a 1 (log 27, DESIGN CHOICE). An access of a schedule that faults is a schedule fault here (R121). -/
def State.respond (s : State) (rank tag : Nat) (sched : Bool) (pol table row : Nat) : State :=
  let b : Batch := { op := 0, cmd := leBytes 8 0 ++ leBytes 4 table, pol := pol, desc := if sched then none else some 0 }
  let send (s : State) (bs : List Byte) : State :=
    if sched then s.sendBytes rank (BitVec.ofNat 32 tag) bs else s.sendFree rank (BitVec.ofNat 32 tag) bs
  let stop (s : State) : State := s.when (sched && s.schedBusy) (fun s => s.schedFault)
  match s.batchRead b (s.get GTH_TDIR_BASE.ADDR pol * 64 + 64 * s.tableIx b) 64 with
  | .error _ => stop s
  | .ok t =>
    let va := tBase t + (rowHome t s.rank s.machine row).2 * tStride t
    if sched && !(s.sched.image.map (fun im => im.mayRange va (tRowSize t) false)).getD false then stop s
    else
      match s.readRow pol (tCache t) false va (tRowSize t) with
      | .ok (bs, s1) => send s1 (0 :: bs)
      | .error (.hbm x pa) => send (s.meetUnit (pa / 64)) (1 :: leBytes 8 x)
      | .error _ => stop s

/-- LOOKUP_REQUEST: the owner's responder reads the row and returns its raw bytes (R107). -/
def execLookupRequest (a : Via) (rank tag : Nat) (sched : Bool) (polder : Fin 8) (table row : Nat) (s : State) : Out :=
  .next (s.onMsg a 1 (if sched then 1 else 2) 1 rank (fun s => s.respond rank tag sched polder table row))

/-- LOOKUP_LOST: a serving lookup is unanswered for LOST_MS. -/
def execLookupLost (n : Fin 16) (entry : Nat) (s : State) : Out :=
  .next (match s.fetchOf n entry with
    | none => s
    | some (t, b) =>
      if b.desc.isNone then s
      else (s.freeEntry n entry).rowCame n (fun b => { b with lost := some (match b.lost with
        | some p => if p.1 ≤ t.pos then p else (t.pos, t.owner)
        | none => (t.pos, t.owner)) }))

/-- The owner of a stale lookup is treated as unreachable, also when the rollback settles its target (R86, R109). -/
def State.treatLost (s : State) (r : Nat) : State :=
  let s1 := s.unreachable r
  { s1 with sched := { s1.sched with lostRanks := if s1.schedSt = 4 then r :: s1.sched.lostRanks else s1.sched.lostRanks } }

/-- TRACKER_STALE: the entry of a lookup whose owner can be reached is freed, the event raised; in a schedule the owner is treated as
unreachable (R109). -/
def execTrackerStale (n : Fin 16) (entry : Nat) (s : State) : Out :=
  .next (match s.fetchOf n entry with
    | none => s
    | some (t, b) =>
      let s1 := (s.freeEntry n entry).raise (512 * b.pol + 5)
        (detail [(0, n), (16, s.tableIx b), (32, t.row % 2 ^ 48), (80, t.owner % 32768)])
      if !s.reach t.owner then s
      else if b.desc.isNone then s1.treatLost t.owner
      else s1.rowCame n (fun b => { b with lost := some (match b.lost with
        | some p => if p.1 ≤ t.pos then p else (t.pos, t.owner)
        | none => (t.pos, t.owner)) }))

/-- An engine takes contributions and end markers: it is assigned to the schedule, and no rollback is under way (R120). -/
def State.takesUpdates (s : State) (n : Nat) : Bool := s.schedEngine n && (s.schedSt != 4 || s.sched.restoring)

/-- A message for an engine, from here or by a link. -/
def State.forEngine (s : State) (a : Option Via) (n bytes rank : Nat) (g : State → State) : State :=
  let h (s : State) : State := if s.takesUpdates n then g s else s
  match a with
  | some v => s.onMsg v 1 1 (flitsOf bytes) rank h
  | none => h s

/-- CONTRIBUTION: written into the sort area at its owner, whatever the engine has in hand (R115). -/
def execContribution (a : Option Via) (n : Fin 16) (seq rank row : Nat) (grad : List Byte) (s : State) : Out :=
  .next (s.forEngine a n (16 + grad.length) rank (fun s =>
    let b : Batch := { op := 1, cmd := [], pol := s.owner }
    match s.addContrib n b { seq := seq, rank := rank, row := row, grad := grad } with
    | .ok s' => s'
    | .error e => s.batchErr n b 2 e))

/-- END_MARKER: with all of them the owner applies the updates. -/
def execEndMarker (a : Option Via) (n : Fin 16) (seq rank : Nat) (s : State) : Out :=
  .next (s.forEngine a n 1 rank (fun s =>
    (s.setEngine n { s.engine n with marks := (s.engine n).marks ++ [(seq, rank)] }).tryApply n))

/-- GTH_BATCH_DONE: 1 is added to DONE_OBJ, the descriptor ends, the engine is free (R94, R106). -/
def execGthBatchDone (n : Fin 16) (s : State) : Out :=
  .next (match (s.engine n).batch with
    | none => s
    | some b =>
      if !b.done then s
      else
        let s1 := match s.objField b.pol (bDone b.cmd) with
          | some o => s.addObj o 1
          | none => s
        match b.desc with
        | some d => s1.endDesc d stSuccess 0 b.bags
        | none => s1.freeEngine n)

/-! Set-up (R94, R110, R112, R124). -/

/-- GTH_ASSIGN_WRITE: OWNER and EN take effect at once on an idle engine; clearing EN lets a batch finish; setting EN, or another
OWNER, waits for that (R94). -/
def execGthAssignWrite (p : Fin 4) (n : Fin 16) (v : BitVec 64) (s : State) : Out :=
  .next (s.adminWrite p (fun s =>
    let owner := bitsOf v.toNat 0 3
    let en := bitsOf v.toNat 3 1
    let e := s.engine n
    if e.batch.isNone then (s.put GTH_ASSIGN.OWNER owner n).put GTH_ASSIGN.EN en n
    else if en = 0 ∧ owner = s.get GTH_ASSIGN.OWNER n then (s.put GTH_ASSIGN.EN 0 n).setEngine n { e with queued := none }
    else if en = 1 ∧ owner = s.get GTH_ASSIGN.OWNER n ∧ s.bit GTH_ASSIGN.EN n ∧ e.queued = none then s
    else s.setEngine n { e with queued := some v }))

/-- A set-up register of a gather engine or of a table directory. -/
def RegName.isGthSetup : RegName → Bool
  | .GTH_QUEUE_BASE | .GTH_QUEUE_CFG | .GTH_SORT_BASE | .GTH_SORT_BYTES | .GTH_JRNL_BASE | .GTH_JRNL_BYTES | .GTH_TDIR_BASE
  | .GTH_TDIR_CFG => true
  | _ => false

/-- A set-up field may change now (R124). -/
def State.setupOpen (s : State) (f : Fld) (i pol : Nat) : Bool :=
  match f.reg with
  | .GTH_TDIR_BASE => !s.gthPolderBusy pol
  | .GTH_TDIR_CFG => f.lo == 32 || !s.gthPolderBusy pol
  | _ => !s.gthBusy i

/-- The value a set-up field takes; area sizes are rounded down to a multiple of 64. -/
def State.setupVal (s : State) (f : Fld) (i v : Nat) : Nat :=
  match f.reg with
  | .GTH_SORT_BYTES | .GTH_JRNL_BYTES => v / 64 * 64
  | _ => s.clampTo f i v

/-- GTH_SETUP_WRITE: a write to a set-up register through the control block of the owner (R122, R124). -/
def execGthSetupWrite (p : Fin 4) (addr : Nat) (v : BitVec 64) (s : State) : Out :=
  .next (match s.target p addr with
    | .dropped => s.drop p
    | .reg r i j pol _ =>
      if !r.isGthSetup then s
      else s.each (r.fields.filter (fun f => f.acc == .own)) (fun s' f =>
        s'.when (s.setupOpen f i pol) (fun s' => s'.put f (s.setupVal f i (bitsOf v.toNat f.lo f.w)) i j))
    | _ => s)

/-- A write of 1 to GTH_CACHE_CTRL.INV: no line and no pin is left. -/
def execCacheInv (p : Fin 4) (s : State) : Out := .next (s.adminWrite p (fun s => { s with cache := [] }))

/-- After 2^20 misses every use count is halved. -/
def execCacheAge (s : State) : Out :=
  .next (if s.cacheMiss < 1048576 then s
    else { s with cacheMiss := s.cacheMiss - 1048576,
                  cache := SMap.mapVal {} (fun l => { l with use := l.use / 2 }) s.cache })

/-- A write of GTH_CACHE_PART.WAYS; the ways granted follow from the requests of all polders. -/
def execCachePartWrite (p : Fin 4) (pol : Fin 8) (v : BitVec 32) (s : State) : Out :=
  .next (s.adminWrite p (fun s => s.put GTH_CACHE_PART.WAYS (s.clampTo GTH_CACHE_PART.WAYS pol (bitsOf v.toNat 0 5)) pol))

end Sys2Proof.Machine
end

