-- ==== Sys2Proof/Machine/RingOps.lean ====
section
/-! DEFINITION. What the ring engine does with rings and descriptors (spec/12): enable and disable, records, cancel, the answers to
faults (R282). -/

namespace Sys2Proof.Machine

/-! Rings (R244, R246, R253). -/

/-- The rings that are ENABLED. -/
def State.ringsUp (s : State) : List Nat :=
  (s.regs.filter (fun p => decide (RegName.RNG_CTRL.key 0 0 ≤ p.1) && decide (p.1 < RegName.RNG_CTRL.key 8192 0))).filterMap (fun p =>
    let r := p.1 % 4294967296 / 65536
    if s.bit RNG_CTRL.ENABLED r then some r else none)

/-- Descriptors announced and not fetched. -/
def State.announcedOn (s : State) (r : Nat) : Nat := (s.get RNG_STATE.TAIL r + 65536 - s.get RNG_STATE.HEAD r) % 65536
/-- Descriptors of a ring that wait to issue. -/
def State.waitingOn (s : State) (r : Nat) : Nat := ((s.ringDescs r).filter (fun d => d.phase == .waiting)).length
/-- Records of the completion ring that are free of use and reserve. -/
def State.recordRoom (s : State) (r : Nat) : Nat :=
  s.ringSize r - ((s.ringDescs r).length + (s.get RNG_STATE.CQ_TAIL r + 65536 - s.get RNG_STATE.CQ_HEAD r) % 65536)

/-- A ring is eligible for a grant (R253). A ring whose fetch read is out gets no second one for the same descriptors. -/
def State.eligible (s : State) (r : Nat) : Bool :=
  s.bit RNG_CTRL.ENABLED r && !s.bit RNG_CTRL.BUSY r && decide (0 < s.announcedOn r) && decide (s.waitingOn r < 8) &&
    decide (0 < s.recordRoom r) && !(s.fetches.any (fun f => f.ring == r)) &&
    ((s.ringOwner r).map s.isOpen).getD false

/-- Its fetch read, or a record of it, waits on a translation fault (R270). -/
def State.fetchBlocked (s : State) (r : Nat) : Bool := s.faults.any (fun f => f.ring == r && f.requester == 2)
def State.recordBlocked (s : State) (r : Nat) : Bool := s.faults.any (fun f => f.ring == r && f.requester == 3)

/-- The ring is enabled: its counters are zero (R246). -/
def State.enableRing (s : State) (r : Nat) : State :=
  let s1 := ({ s with cancels := s.cancels.filter (fun c => c.ring != r) } : State).setReg .RNG_STATE r 0 0
  ((s1.put RNG_CTRL.ENABLED 1 r).put RNG_CTRL.RING_FAULT 0 r).put RNG_CTRL.QUEUED 0 r

/-- A disable ends when every fetched descriptor has its record; a queued ENABLE then takes effect (R246, R269). -/
def State.ringIdle (s : State) (r : Nat) : State :=
  if s.bit RNG_CTRL.BUSY r && (s.ringDescs r).isEmpty && !(s.fetches.any (fun f => f.ring == r)) then
    let s1 := s.put RNG_CTRL.BUSY 0 r
    s1.when (s1.bit RNG_CTRL.QUEUED r) (fun s => s.enableRing r)
  else s

/-- A descriptor leaves: its record is written, or never will be. -/
def State.dropDesc (s : State) (x : Desc) : State :=
  ((({ s with descs := s.descs.filter (fun y => y.id != x.id)
              warden := s.warden.filter (fun w => w != x.id)
              remotes := s.remotes.filter (fun r => r.desc != some x.id)
              faults := s.faults.filter (fun f => f.desc != some x.id) } : State).fillFaults x.pol).ringIdle x.ring).settleClosing x.pol

/-! Stopping work (R237, R267, R268). -/

/-- Whole work done by a descriptor so far. -/
def State.progress (s : State) (x : Desc) : Nat :=
  match s.enginesOf x.id with
  | n :: _ => ((s.engine n).batch.map (·.bags)).getD x.done
  | [] => x.done

/-- A start or resume that its unit has not taken is cancelled: the start ends on every package that has begun it, and the ready messages
of it are gone here (R268). -/
def State.cancelUnstarted (s : State) (x : Desc) : State :=
  let s1 := s.endDesc x.id (if s.polderSt x.pol = 3 then stClosing else stCancelled) 0 0
  s1.when ((x.opcode == 0x11 || x.opcode == 0x13) && s.ownsSched x.pol && s.polderSt x.pol != 3 &&
      (s.schedSt == 1 || s.schedSt == 5)) (fun s =>
    let u := s.flood (.preempt 0 true)
    { u with sched := { u.sched with readies := [] } })

/-- A start or resume is asked to stop: 1 before its first step, 2 to stop at a berm step, 3 where no berm step is left. -/
def State.stopSched (s : State) (x : Desc) : Nat × State :=
  if s.sched.startDesc ≠ some x.id then (1, s.cancelUnstarted x)
  else if s.schedSt = 2 then (1, s.cancelRun)
  else if s.schedSt = 3 ∧ (s.sched.image.bind s.namedBerm) = none then (3, s)
  else (2, s.cancelRun)

/-- An issued descriptor is asked to stop: the DETAIL its CANCEL reports, and what happens. One that has a restartable point stops
there; a suspended one abandons its suspension, and its fault record is withdrawn. -/
def State.stopWork (s : State) (x : Desc) : Nat × State :=
  if x.phase = .ended then (3, s)
  else if x.phase = .suspended then (2, (s.stopDesc x.id x.done).fillFaults x.pol)
  else
    match x.opcode with
    | 0x02 | 0x03 | 0x18 | 0x1A => (2, s.stopDesc x.id (s.progress x))
    | 0x11 | 0x13 => s.stopSched x
    | 0x20 =>
      match s.recable with
      | some r =>
        if r.desc ≠ some x.id then (2, s.endDesc x.id stRecableAbandoned 1 0)
        else if r.committed then (3, s) else (2, s.abandonRecable 1 0)
      | none => (2, s.endDesc x.id stRecableAbandoned 1 0)
    | _ => (3, s)

/-- The newest descriptor fetched from a slot whose USER matches and whose record is not yet written (R267). -/
def State.cancelTarget (s : State) (r slot user : Nat) : Option Desc :=
  (s.descs.filter (fun y => y.ring == r && s.slotOf y == slot && y.user == user)).foldl (fun (m : Option Desc) y =>
    match m with
    | some z => if z.id < y.id then some y else m
    | none => some y) none

/-- A CANCEL that found nothing announced in its slot, or another USER there, decides on the fetched ones. -/
def State.cancelFetched (s : State) (by_ r slot user : Nat) : State :=
  match s.cancelTarget r slot user with
  | none => s.endDesc by_ stSuccess 0 0
  | some x =>
    if x.phase = .waiting then (s.onDesc x.id (fun y => { y with cancelled := true })).endDesc by_ stSuccess 1 0
    else
      let (k, s1) := s.stopWork x
      s1.endDesc by_ stSuccess k 0

/-- A fetch read that is out holds the position (R254). -/
def State.fetching (s : State) (r pos : Nat) : Bool :=
  s.fetches.any (fun f => f.ring == r && decide ((pos + 65536 - f.pos) % 65536 < f.n))

/-- Cancels that wait for a slot which will not be fetched any more decide on the descriptors fetched from it (R267). -/
def State.settleCancels (s : State) (r : Nat) : State :=
  if s.bit RNG_CTRL.ENABLED r then s
  else
    let due := s.cancels.filter (fun c => c.ring == r && !s.fetching r c.pos)
    ({ s with cancels := s.cancels.filter (fun c => !due.contains c) } : State).each due (fun s c =>
      s.cancelFetched c.by_ r (c.pos % s.ringSize r) c.user)

/-- The ring is disabled (R269): nothing more is fetched, what waits completes CANCELLED at its turn, issued and suspended work is
cancelled. What a fetch granted before is to bring counts as fetched, be it waiting on a fault; cancels that wait for other slots find no
announced descriptor. `fault`: for a fault on the ring's own memory (R270). -/
def State.disableRing (s : State) (r : Nat) (fault : Bool) : State :=
  let s0 := s.when fault (fun s => s.put RNG_CTRL.RING_FAULT 1 r)
  if !s0.bit RNG_CTRL.ENABLED r then s0
  else
    let s1 := (s0.put RNG_CTRL.ENABLED 0 r).put RNG_CTRL.BUSY 1 r
    let s2 : State := { s1 with
      descs := s1.descs.map (fun y => if y.ring = r ∧ y.phase = .waiting then { y with cancelled := true } else y) }
    let s3 := s2.each (s2.descs.filter (fun y => y.ring == r && y.phase != .waiting && y.phase != .ended)) (fun s y =>
      match s.desc y.id with
      | some z => (s.stopWork z).2
      | none => s)
    let s4 := s3.settleCancels r
    (s4.fillFaults ((s4.ringOwner r).getD 0)).ringIdle r

/-! Faults on a ring's own memory (R270). -/

/-- A fault of a ring's own memory is answered with abort: the fetch ends, or the record is dropped, and the ring is disabled. -/
def State.ringAbort (s : State) (r requester : Nat) (d : Option Nat) : State :=
  if requester = 2 then
    (((({ s with fetches := s.fetches.filter (fun f => f.ring != r)
                 remotes := s.remotes.filter (fun q => !(q.ring == r && q.requester == 2)) } : State).disableRing r true).settleCancels
      r)).ringIdle r
  else
    let s1 := s.disableRing r true
    match d.bind s1.desc with
    | some x => s1.dropDesc x
    | none => s1

/-- A fault of a ring's own memory: recorded, or aborted at once (R282). -/
def State.ringFault (s : State) (r pol requester reason access va dslot : Nat) (d : Option Nat) : State :=
  if s.bit MMU_FQ_CFG.EN pol then
    s.addFault { pol := pol, slot := none, id := 0, reason := reason, access := access, requester := requester, va := va,
                 ring := r, desc := d, dslot := dslot, done := 0 }
  else s.ringAbort r requester d

/-- An access of a ring to its own memory did not give its data. -/
def State.ringErr (s : State) (r pol requester access dslot : Nat) (d : Option Nat) : MemErr → State
  | .fault n va => s.ringFault r pol requester n access va dslot d
  | .hbm _ pa => (s.meetUnit (pa / 64)).ringAbort r requester d
  | .remote rank rva len wr va =>
    match s.askRemote d r requester access pol rank rva len wr va with
    | some s' => s'
    | none => (s.noRoute rank).ringFault r pol requester 5 access (va / 4096 * 4096) dslot d
  | .wait => s

/-- An access through an aperture is dropped for want of its page (R232). -/
def State.bar2Miss (s : State) (p n : Nat) : State := (s.drop p).bump PLD_STATUS.BAR2_MISS n

/-- A page of another package was not served: a translation fault of its user with a reason, or the uncorrectable unit there
(R275, R284). Requester 5 is an access through an aperture, which no fault suspends (R232). -/
def State.remFail (s : State) (r : Rem) (reason : Option Nat) : State :=
  let s1 := { s with remotes := s.remotes.filter (fun y => y.tag != r.tag) }
  let va := r.lva / 4096 * 4096
  if r.requester = 5 then
    match reason with
    | some _ => s1.bar2Miss (s1.portOf r.pol) r.pol
    | none => if r.wr.isNone then { s1 with readBytes := [], readPoison := true } else s1
  else if r.requester = 2 ∨ r.requester = 3 then
    match reason with
    | some n =>
      let slot := match r.desc.bind s1.desc with
        | some x => s1.slotOf x
        | none => s1.get RNG_STATE.HEAD r.ring % s1.ringSize r.ring
      s1.ringFault r.ring r.pol r.requester n r.access va slot r.desc
    | none => s1.ringAbort r.ring r.requester r.desc
  else
    match r.desc.bind s1.desc, reason with
    | some x, some n => s1.descFault x r.requester n va r.access x.done
    | some x, none => s1.endDesc x.id stHbmError r.lva x.done
    | none, _ => s1

/-! Answers to faults (R282). -/

/-- A fault is answered with retry: its slot is free, and the requester may repeat its access. -/
def State.retryFault (s : State) (f : FaultRec) : State :=
  let s1 := { s with faults := s.faults.erase f }
  (match f.desc with
   | some d => if f.requester = 3 then s1 else s1.onDesc d (fun (x : Desc) => if x.phase = Phase.suspended then { x with phase := .running } else x)
   | none => s1).fillFaults f.pol

/-- A fault is answered with abort: the requester stops. -/
def State.abortFault (s : State) (f : FaultRec) : State :=
  let s1 := { s with faults := s.faults.erase f }
  (if f.requester = 2 ∨ f.requester = 3 then s1.ringAbort f.ring f.requester f.desc
   else match f.desc with
     | some d => s1.endDesc d stFaultAborted f.id f.done
     | none => s1).fillFaults f.pol

end Sys2Proof.Machine
end

