-- ==== Sys2Proof/Machine/Links.lean ====
section
/-! DEFINITION. The commands of spec/07 and 08: lane plans and re-cables, lanes and links, flits, the machine shape. -/

namespace Sys2Proof.Machine

/-! Lane plans (R148–R150). -/

/-- The mode of a LANE_PLAN descriptor; 3–255 read as 2. -/
def Desc.planMode (x : Desc) : Nat := min 2 (x.field 0x20 1)

/-- Check 0x01: a re-cable is armed or running, or the polder's schedule is STARTING or RUNNING. -/
def State.planBusy (s : State) (x : Desc) : Bool :=
  s.recable.isSome || ((s.sched.image.map (fun im => im.owner == x.pol)).getD false && (s.schedSt == 2 || s.schedSt == 3))

/-- A LANE_PLAN of a mode is checked; `g` takes the plan that passed. -/
def State.lanePlan (s : State) (d mode : Nat) (g : State → Plan → State) : State :=
  s.runDesc d 0x20 (fun x s =>
    if x.planMode ≠ mode || (s.recable.map (fun r => r.desc == some d)).getD false then s
    else
      s.readSource x (x.field 0x18 8 / 8 * 8) 4160 (fun bs s =>
        match planCheck s.part (s.planBusy x) bs with
        | some (code, i) => (s.put LSW_STATUS.LAST_CODE code).endDesc d stPlanRefused (code + 65536 * i) 0
        | none => g s (Plan.of bs)))

/-- The warden core is free for the next descriptor (R266). -/
def State.leaveWarden (s : State) (d : Nat) : State := { s with warden := s.warden.filter (fun w => w != d) }

/-- LANE_PLAN with MODE 0: the plan is checked and its re-cable begins; transmission on the links that change stops. -/
def execLanePlanCommit (d : Nat) (s : State) : Out :=
  .next (s.lanePlan d 0 (fun s p => { s with recable := some { plan := p, desc := some d, armed := false } }))

/-- LANE_PLAN with MODE 1: the re-cable is armed for the next pulse edge, and leaves the warden core. -/
def execLanePlanArm (d : Nat) (s : State) : Out :=
  .next (s.lanePlan d 1 (fun s p =>
    (({ s with recable := some { plan := p, desc := some d, armed := true } } : State).put LSW_STATUS.STATE 1).leaveWarden d))

/-- LANE_PLAN with MODE 2: the plan is checked only. -/
def execLanePlanCheck (d : Nat) (s : State) : Out :=
  .next (s.lanePlan d 2 (fun s _ => s.endDesc d stSuccess 0 0))

/-- Where the effective set-point of a loop ends: at the goal of its last move. -/
def Loop.goal (x : Loop) : Int := ((x.due.getLast?.or x.move).map (·.new)).getD x.sp

/-- Loops of source 1 whose set-point has changed begin to move to it 100 µs after the edge; a move that runs goes on until then
(R189, R190). -/
def State.pulseMoves (s : State) : State :=
  s.each ((List.range 782).filter (fun i => s.part.hasLoop i && s.get SCU_LOOP_CTRL.SPSRC i == 1)) (fun s i =>
    let x := s.loop i
    let goal := x.spHeld.getD (sint 16 (s.get SCU_LOOP_CTRL.SETPOINT i))
    s.when (x.goal != goal) (fun s => s.setLoop i (x.moveTo goal (s.get SCU_LOOP_CTRL.RAMP_SEL i) 10)))

/-- An edge of RECABLE_PULSE: the armed re-cable begins (R150); ramps of source 1 are due. With a re-cable running or none armed
the edge starts none (R167, R184); in a management pause it is ignored (R354). -/
def execRecablePulse (s : State) : Out :=
  .next (if s.bit FWU_STATUS.PAUSED then s else
    let s1 := s.pulseMoves
    match s1.recable with
    | some r => if r.armed then { s1 with recable := some { r with armed := false, wait := 10 } } else s1
    | none => s1)

/-- The commit point: the new plan is in force (R149, R150, R182). -/
def execRecableCommit (s : State) : Out :=
  .next (match s.recable with
    | none => s
    | some r =>
      if r.armed || r.committed then s
      else
        let s1 := (s.putPlan r.plan r.wait).put LSW_STATUS.STATE 2
        let s2 := { s1 with recable := some { r with committed := true } }
        (match r.desc with
         | some d => s2.leaveWarden d
         | none => s2).settleRecable)

/-- Both ends of a link have settled: training words start on its lanes (R151, R153). -/
def execElementSettled (k : Fin 128) (s : State) : Out :=
  .next (
    if s.plan.links.length ≤ k.val then s
    else
      let ls := (s.plan.lanesOf k true ++ s.plan.lanesOf k false).filter (fun l => s.get LSW_LANE.STATE l == 1)
      let s1 := s.each ls (fun s l => s.put LSW_LANE.STATE 2 l)
      if s.get LNK_STATE.STATE k = 0 then
        (s1.setLinkSt k 1).setLink k { s1.link k with avail0 := 0, avail1 := 0, avail2 := 0 }
      else s1)

/-- A package that has sent its ready message of a rollback repeats it on a link that comes up (R87). -/
def State.repeatReady (s : State) (k : Nat) : State :=
  match s.sched.readies.find? (fun m => m.kind == 2 && m.rank == s.rank) with
  | some m =>
    if s.schedSt = 4 then
      ({ s with floodSeq := s.floodSeq + 1, seen := (s.rank, s.floodSeq) :: s.seen } : State).sendMgmt k
        ⟨s.rank, s.floodSeq, .ready m⟩
    else s
  | none => s

/-- A link carries flits: SEQs are zeroed, credits announced, the event raised (R153). -/
def State.linkComesUp (s : State) (k : Nat) : State :=
  let x := s.link k
  let st := s.upState k
  let peer := (s.planLink k).peer
  let s1 := (s.setLink k { x with txSeq := 0, rxSeq := 0, retry := [], replay := none, stripe := 0, nakOut := false, last := none,
                                  resyncOut := false, resyncSeq := none, joining := [], held0 := 0, pdOut := none }).put
    LNK_STATE.PEER_RANK peer k
  let s2 := s1.each [0, 1, 2] (fun s vc => s.announce k vc)
  let s3 := (s2.setLinkSt k st).raise0 16 (detail [(0, k), (8, st), (11, (s.goodLanes k true).length),
    (18, (s.goodLanes k false).length), (25, peer)])
  s3.repeatReady k

/-- Why the training of a lane fails, with the codes of R301, or 0: its receiver does not lock below the limit, or the identity check
fails: the words of a receive lane must carry the peer's rank, the lane's wavelength and the plan's identifier (R153). -/
def State.trainCause (s : State) (l : Nat) (locked : Bool) (word : Option TrainWord) : Nat :=
  if !locked then 1
  else if isTx l then 0
  else match word with
    | none => 1
    | some w =>
      if w.rank = (s.planLink (s.plan.lane l).link).peer ∧ w.plan = s.plan.id ∧ w.wave = waveOf l ∧ waveOf w.srcLane = w.wave then 0
      else 4

/-- One attempt of a lane ends. -/
def State.tryLane (s : State) (l cause : Nat) : State :=
  if cause = 0 then s.trainPass l
  else (s.when (cause == 4) (fun s => s.bump LNK_VIOL.MISWIRE (s.plan.lane l).link)).trainFail l cause

/-- Lanes of a link, of both directions, in one STATE. -/
def State.lanesIn (s : State) (k st : Nat) : List Nat :=
  (s.plan.lanesOf k true ++ s.plan.lanesOf k false).filter (fun l => s.get LSW_LANE.STATE l == st)

/-- A link that cannot train is ISOLATED: what it holds is routed anew; a peer that a busy schedule cannot reach is reported again
(R154, R184). -/
def State.isolate (s : State) (k : Nat) : State :=
  let peer := (s.planLink k).peer
  (s.linkDown k 5).when (s.schedBusy && !s.reach peer) (fun s => s.noRoute peer)

/-- LINK_UP: an attempt at training ends, once every lane of the link has settled. The lanes that pass carry the link; with fewer than
MIN_LANES it waits for the lanes that try again or have reduced power, and is ISOLATED when there is none (R151, R153, R154, R167,
R181). -/
def execLinkUp (k : Fin 128) (good : List Nat) (words : List TrainWord) (s : State) : Out :=
  .next (
    let st := s.get LNK_STATE.STATE k
    if (st ≠ 1 ∧ st ≠ 4) ∨ s.lanesIn k 1 ≠ [] then s
    else
      let s1 := s.each (s.lanesIn k 2) (fun s l =>
        s.tryLane l (s.trainCause l (good.contains l) (words.find? (fun w => w.lane == l))))
      let s2 := s1.recount k
      let s3 := if s2.enoughLanes k then s2.linkComesUp k
        else if s2.lanesIn k 2 ≠ [] ∨ (s2.lanesIn k 4).any (fun l => s2.bit LSW_LANE.APR l) then s2
        else s2.isolate k
      s3.settleRecable)

/-! Single lanes (R152, R154). -/

/-- EN_REQ falls: the lane leaves its link and is muted, its element parks. -/
def State.laneOff (s : State) (l : Nat) : State :=
  let s1 := { s with laneQueue := SMap.set 0 s.laneQueue l 0 }
  if s.bit LSW_LANE.BUSY l then s1.put LSW_LANE.EN_REQ 0 l
  else if s.bit LSW_LANE.EN_REQ l then ((s1.put LSW_LANE.EN_REQ 0 l).put LSW_LANE.BUSY 1 l).dropLane l 4
  else s1

/-- A lane is taken up again: no longer failed, its element leaves its park. -/
def State.laneOn (s : State) (l : Nat) : State :=
  let s1 := ({ s with laneTries := SMap.set 0 s.laneTries l 0 } : State).put LSW_LANE.FAILED 0 l
  let parked := s.get SCU_LOOP_STAT.STATE l == 5 || s.get SCU_LOOP_STAT.STATE l == 6
  let s2 := s1.when parked (fun s => s.setLoop l { s.loop l with restart := true })
  s2.when (s2.wanted l) (fun s => s.put LSW_LANE.STATE (s.freshLane l) l)

/-- A write of LSW_LANE.EN_REQ. A write of 1 waits while the lane shuts down, and reads back at once. -/
def State.laneReq (s : State) (l : Nat) (on : Bool) : State :=
  if !s.part.hasLane l then s
  else if !on then s.laneOff l
  else if s.bit LSW_LANE.EN_REQ l then s
  else
    let s1 := s.put LSW_LANE.EN_REQ 1 l
    if s.bit LSW_LANE.BUSY l then { s1 with laneQueue := SMap.set 0 s1.laneQueue l 1 } else s1.laneOn l

/-- EN_REQ written to 0. -/
def execLaneDownReq (p : Fin 4) (l : Fin 512) (s : State) : Out :=
  .next (s.adminWrite p (fun s => s.unlessHeld .LSW_LANE (.lane l false) (fun s => s.laneReq l false)))

/-- EN_REQ written to 1. -/
def execLaneUpReq (p : Fin 4) (l : Fin 512) (s : State) : Out :=
  .next (s.adminWrite p (fun s => s.unlessHeld .LSW_LANE (.lane l true) (fun s => s.laneReq l true)))

/-- The element is parked: BUSY clears, and a queued EN_REQ takes effect. -/
def execLaneParked (l : Fin 512) (s : State) : Out :=
  .next (if !s.bit LSW_LANE.BUSY l then s
    else
      let s1 := (s.put LSW_LANE.BUSY 0 l).put LSW_LANE.STATE 0 l
      if SMap.get 0 s.laneQueue l = 1 then ({ s1 with laneQueue := SMap.set 0 s1.laneQueue l 0 } : State).laneOn l else s1)

/-- Training of a single lane that has settled ends: it joins its link, which is up, at the next resynchronisation (R152, R162), or has
failed once more. -/
def execLaneTrained (l : Fin 512) (word : Option TrainWord) (s : State) : Out :=
  .next (
    let k := (s.plan.lane l).link
    let cause := s.trainCause l word.isSome word
    if s.get LSW_LANE.STATE l ≠ 2 ∨ !s.linkUp k then s
    else if cause ≠ 0 then (s.tryLane l cause).settleRecable
    else (s.setLink k { s.link k with joining := (s.link k).joining ++ [l.val] }).resync k)

/-- LANE_LOST: a lane of a link that is up is lost (R162). -/
def execLaneLost (l : Fin 512) (cause : Fin 8) (s : State) : Out :=
  .next (if s.get LSW_LANE.STATE l = 3 then s.loseLane l cause else s)

/-- VIOLATION_LIMIT: the violations of a window reach LIMIT and the link is retrained (R164). -/
def execViolationLimit (k : Fin 128) (s : State) : Out :=
  .next (if s.linkUp k && decide (s.get LNK_VIOL_CFG.LIMIT ≤ (s.link k).viol) then (s.bump LNK_VIOL.RETRAINS k).retrain k else s)

/-- A write of 1 to LNK_STATE.RETRAIN. -/
def State.retrainReq (s : State) (k : Nat) : State := if k < s.plan.links.length then s.retrain k else s
def execLinkRetrain (p : Fin 4) (k : Fin 128) (s : State) : Out :=
  .next (s.adminWrite p (fun s => s.unlessHeld .LNK_STATE (.retrain k) (fun s => s.retrainReq k)))

/-! Open fibre (R165). -/

/-- Lane entries on a global exit. -/
def State.onExit (s : State) (x : Nat) : List Nat :=
  s.plan.lit.filter (fun l => s.part.hasLane l && exitOf l (s.plan.lane l).exit == x)
/-- A lane is lit. -/
def State.litLane (s : State) (l : Nat) : Bool := [2, 3].contains (s.get LSW_LANE.STATE l)

/-- APR: the paired transmit exit falls to the reduced level, its lanes go down. -/
def execApr (x : Fin 128) (s : State) : Out :=
  .next (
    let ls := s.onExit x
    if !(ls.any (fun l => isTx l && s.litLane l)) then s
    else
      let s1 := ({ s with aprExits := x.val :: s.aprExits.erase x.val } : State).raise0 19 (detail [(0, x)])
      s1.each ls (fun s l => (s.put LSW_LANE.APR 1 l).when (s.litLane l) (fun s => s.dropLane l 4)))

/-- Full power returns and the lanes of the exit train again, within their attempts (R167). -/
def execAprRestore (x : Fin 128) (s : State) : Out :=
  .next (({ s with aprExits := s.aprExits.erase x.val } : State).each ((s.onExit x).filter (fun l => s.bit LSW_LANE.APR l)) (fun s l =>
    let s1 := s.put LSW_LANE.APR 0 l
    s1.when (s1.usable l && s1.get LSW_LANE.STATE l == 4) (fun s => s.put LSW_LANE.STATE 2 l)))

/-! Flits sent (R157, R158, R160, R177, R178). -/

/-- Messages of the link layer itself, which take no credit; of them RESYNC alone uses a SEQ (R155). -/
def Msg.control : Msg → Bool
  | .nak _ | .resync _ _ | .credits _ _ | .announce _ _ => true
  | _ => false

/-- One flit slot of the 64 has passed; `two`: it carried VC 2. -/
def Link.tick (x : Link) (two : Bool) : Link :=
  if x.slots = 63 then { x with slots := 0, unsched := 0 }
  else { x with slots := x.slots + 1, unsched := x.unsched + b2n two }

/-- The retry buffer takes one more flit (R160). -/
def State.retryRoom (s : State) (k : Nat) : Bool :=
  decide ((s.link k).retry.length < 192 * max 1 (s.get LNK_STATE.LANES_TX k))

/-- A flit leaves on a channel: it takes a SEQ and a credit, and stays in the retry buffer. -/
def Link.send (x : Link) (vc : Nat) (m : Option Mgmt) (p : Option Pkt) : Link :=
  { (x.setAvail vc (x.avail vc - 1)).tick (vc == 2) with
    txSeq := (x.txSeq + 1) % 65536
    retry := x.retry ++ [{ seq := x.txSeq, vc := vc, mgmt := m, pkt := p }] }

/-- The data waiting on VC 1 or VC 2. -/
def Link.queue (x : Link) (vc : Nat) : List Pkt := if vc = 1 then x.q1 else x.q2
def Link.setQueue (x : Link) (vc : Nat) (q : List Pkt) : Link := if vc = 1 then { x with q1 := q } else { x with q2 := q }

/-! Stamps of TIME flits (R216): a domain's time, a port's own clock, in units of 2^-16 ns. -/

/-- The machine tick count. -/
def State.tickNow (s : State) : Nat := s.get TIM_MTICK.TICKS * 65536 + s.tickFrac * 65536 / 4000000
/-- The time of a base, or of domain 200. -/
def State.domainNow (s : State) (d : Nat) : Nat := if d = 200 then s.tickNow else (s.base d).t
/-- The clock that stamps peer-delay messages: core clock periods of 0.64 ns. -/
def State.portNow (s : State) : Nat := s.clk * 1048576 / 25

/-- A message as it departs: a Sync with its stamp, a Pdelay_Resp with its turnaround. -/
def State.stamped (s : State) (m : Msg) : Msg :=
  match m with
  | .sync d q _ => .sync d q (s.domainNow d)
  | .pdelayResp q t2 => .pdelayResp q (s.portNow - t2)
  | m => m
/-- A Pdelay_Req that departs starts its exchange. -/
def State.departed (s : State) (k : Nat) (m : Msg) : State :=
  match m with
  | .pdelayReq q => s.setLink k { s.link k with pdOut := some (q, s.portNow) }
  | _ => s

/-- A flit goes out on the lane whose turn it is: flits are striped round the good lanes, in ascending lane order (R156). -/
def State.emit (s : State) (k : Nat) (f : Flit) : State :=
  let x := s.link k
  let ls := s.goodLanes k true
  s.setLink k { x with wire := f.bytes, wireLane := ls.getD x.stripe 0, stripe := (x.stripe + 1) % max 1 ls.length }

/-- A flit of the retry buffer goes out, for the first time or in a replay, with the acknowledgement of now; a time message takes its
stamp anew, and the CRC is made over it (R155, R160, R216). -/
def State.launch (s : State) (k : Nat) (r : Sent) : State :=
  let ack := (s.link k).rxSeq
  match r.mgmt, r.pkt with
  | some m, _ => (s.emit k (Msg.flit k r.seq ack { m with msg := s.stamped m.msg })).departed k m.msg
  | none, some p => s.emit k (p.flit r.vc r.seq ack)
  | none, none => s.emit k (Msg.flit k r.seq ack ⟨s.rank, 0, .resync r.seq ack⟩)

/-- The newest flit of the retry buffer goes out. -/
def State.launchNew (s : State) (k : Nat) : State :=
  match (s.link k).retry.getLast? with
  | some r => s.launch k r
  | none => s

/-- The next SEQ to be sent: that of the replay under way, else the next unused. -/
def Link.nextSeq (x : Link) : Nat := ((x.replay.bind (fun i => x.retry[i]?)).map (·.seq)).getD x.txSeq

/-- A DATA flit leaves: one of this package on another route than the first is counted; a slot held in transit is free. -/
def State.sendPkt (s : State) (k vc : Nat) (p : Pkt) (rest : List Pkt) : State :=
  let x := (s.link k).setQueue vc rest
  let s1 := (s.setLink k (x.send vc none (some { p with frm := 0 }))).launchNew k
  let own := ((p.trailer.map (·.1)).getD s.rank) == s.rank
  (s1.when (own && s.offFirst p.dst) (fun s => s.bump LSW_ROUTE_STAT.DETOURED)).when (p.frm != 0) (fun s =>
    s.freeSlots (p.frm - 1) vc 1)

/-- The front of VC 1 or VC 2 goes out on the route that is known now, or moves to the link of that route. -/
def State.transmit (s : State) (k vc : Nat) : State :=
  match (s.link k).queue vc with
  | [] => s
  | p :: rest =>
    match s.routeLink ((p.trailer.map (·.1)).getD s.rank) p.dst with
    | some j =>
      if j ≠ k then (s.setLink k ((s.link k).setQueue vc rest)).requeue vc p
      else if p.trailer.isSome || (s.planLink k).peer == p.dst then s.sendPkt k vc p rest
      else
        let ps := pieces 248 (p.bytes.length + 1) p.bytes
        let (s1, out) := ps.foldl (fun (a : State × List Pkt) b =>
          let (tr, s) := a.1.trailer vc p.dst
          (s, a.2 ++ [{ p with bytes := b, trailer := some tr }])) (s, [])
        match out with
        | [] => s.setLink k ((s.link k).setQueue vc rest)
        | q :: more => s1.sendPkt k vc q (more ++ rest)
    | none => (s.setLink k ((s.link k).setQueue vc rest)).requeue vc p

/-- A re-cable that has begun and not committed stops new flits on a link that it changes (R150). -/
def State.stopped (s : State) (k : Nat) : Bool :=
  match s.recable with
  | some r => !r.armed && !r.committed && !s.linkSame r.plan k
  | none => false

/-- What the sender picks next. -/
inductive Pick where
  | control | replay | vc0 | vc1 | stall | vc2 | idle
  deriving DecidableEq, Repr

/-- Strict priority, but VC 2 with a flit waiting takes UNSCHED_MIN of every 64 slots: before VC 1 while it lacks them, before
VC 0 when no other slot is left for them (R157). No new flit goes out before a replay has ended, nor on a link that a re-cable
stops (R150, R160). -/
def State.pick (s : State) (k : Nat) : Pick :=
  let x := s.link k
  let m := (s.planLink k).unschedMin
  let room := s.retryRoom k
  let new := x.replay.isNone && !s.stopped k
  let can2 := new && !x.q2.isEmpty && decide (0 < x.avail2) && room
  let lacks := can2 && decide (x.unsched < m)
  if lacks && decide (64 - x.slots ≤ m - x.unsched) then .vc2
  else if x.q0.any (fun m => m.msg.control) then .control
  else if x.replay.isSome then .replay
  else if !new then .idle
  else if x.q0.isEmpty = false ∧ 0 < x.avail0 ∧ room then .vc0
  else if lacks then .vc2
  else if x.q1.isEmpty = false ∧ 0 < x.avail1 ∧ room then .vc1
  else if x.q1.isEmpty = false ∧ x.avail1 = 0 ∧ x.stalled = false then .stall
  else if can2 then .vc2
  else .idle

/-- A control message goes out: a RESYNC takes a SEQ and stays in the retry buffer, the others carry the next SEQ. -/
def State.sendControl (s : State) (k : Nat) (m : Mgmt) : State :=
  let x := { (s.link k).tick false with q0 := (s.link k).q0.eraseP (fun m => m.msg.control) }
  match m.msg with
  | .resync _ _ =>
    (s.setLink k { x with txSeq := (x.txSeq + 1) % 65536, retry := x.retry ++ [{ seq := x.txSeq, vc := 0 }] }).launchNew k
  | _ => (s.setLink k x).emit k (Msg.flit k x.nextSeq x.rxSeq m)

/-- The next flit of a replay goes out. -/
def State.resend (s : State) (k : Nat) : State :=
  let x := s.link k
  match x.replay.bind (fun i => (x.retry[i]?).map (fun r => (i, r))) with
  | some (i, r) =>
    (s.setLink k { x.tick (r.vc == 2) with replay := if i + 1 < x.retry.length then some (i + 1) else none }).launch k r
  | none => s.setLink k { x with replay := none }

/-- FLIT_TRANSMIT: the next flit slot of a link; an IDLE flit where nothing can go. A wait for a scheduled credit is counted once
(R158). -/
def execFlitTransmit (k : Fin 128) (s : State) : Out :=
  .next (
    let x := s.link k
    if !s.linkUp k then s
    else
      match s.pick k with
      | .control =>
        match x.q0.find? (fun m => m.msg.control) with
        | some m => s.sendControl k m
        | none => s
      | .replay => s.resend k
      | .vc0 =>
        match x.q0 with
        | [] => s
        | m :: rest => (s.setLink k { x.send 0 (some m) none with q0 := rest }).launchNew k
      | .vc1 => s.transmit k 1
      | .vc2 => s.transmit k 2
      | .stall => (s.setLink k { x with stalled := true }).bump LNK_ERR.SCHED_STALL k
      | .idle => (s.setLink k (x.tick false)).emit k
          { typ := 0, vc := 0, seq := BitVec.ofNat 16 x.nextSeq, ack := BitVec.ofNat 16 x.rxSeq })

/-! Flits received. -/

/-- BAD_FLIT: the flit and what follows it are discarded, and a NAK asks for a replay (R156, R160). -/
def execBadFlit (k : Fin 128) (codewords : Nat) (s : State) : Out := .next (s.badFlit k codewords)

/-- The 8 bytes of a trailer (R178): source, destination, sequence. -/
def trailerOf (bs : List Byte) : Nat × Nat × Nat :=
  let n := leNat (bs.drop (bs.length - 8))
  (bitsOf n 0 15, bitsOf n 16 15, bitsOf n 32 32)

/-- An answer for a page of another package arrives (R275): its first byte says whether the access was done (log 27, DESIGN CHOICE). -/
def State.remAnswer (s : State) (r : Rem) (bs : List Byte) : State :=
  let got := r.got ++ bs
  let upd (x : Rem) : State := { s with remotes := s.remotes.map (fun y => if y.tag = r.tag then x else y) }
  if got.length < 1 + (if r.wr.isNone then r.len else 0) then upd { r with got := got }
  else
    match got.head? with
    | some 0 =>
      let data := (got.drop 1).take r.len
      if r.requester ≠ 5 then upd { r with got := got, ans := some data }
      else
        let s1 := { s with remotes := s.remotes.filter (fun y => y.tag != r.tag) }
        if r.wr.isNone then { s1 with readBytes := data, readPoison := false } else s1
    | st => s.remFail r (if st = some 1 then some 4 else none)

/-- The TAG names something: a channel that this package receives, or a message that is awaited. -/
def State.tagKnown (s : State) (vc : Nat) (tag : BitVec 32) : Bool :=
  if vc = 1 then ((s.chan (tag.toNat % 65536)).map (fun c => !c.send)).getD false
  else s.remotes.any (fun r => r.tag == tag.toNat && r.ans.isNone)

/-- Scheduled data belongs to a run that a rollback has abandoned (R87). -/
def State.staleData (s : State) : Bool := s.schedSt == 4 && !s.sched.restoring

/-- Data is delivered: to its channel, whose slot it fills, or to who awaits it, whose slot is free at once. What arrives on a channel
between a fault and the start of the target is emptied with the channel (R87; log 221, DEDUCED). -/
def State.land (s : State) (k vc : Nat) (tag : BitVec 32) (bs : List Byte) : State :=
  if vc = 1 then (if s.staleData then s.freeSlots k 1 1 else s.chanPush (tag.toNat % 65536) (k + 1) bs)
  else
    match s.remotes.find? (fun r => r.tag == tag.toNat && r.ans.isNone) with
    | some r => (s.remAnswer r bs).freeSlots k vc 1
    | none => s.freeSlots k vc 1

/-- Detoured data that waited for an earlier piece is delivered in trailer order (R178). -/
def State.drain (s : State) (src vc : Nat) : Nat → State
  | 0 => s
  | fuel + 1 =>
    let key := 4 * src + vc
    let n := SMap.get 0 s.trailRx key
    match s.trailHeld.find? (fun h => h.2.1 == vc && h.2.2.trailer == some (src, s.rank, n)) with
    | none => s
    | some h =>
      ((({ s with trailHeld := s.trailHeld.erase h, trailRx := SMap.set 0 s.trailRx key ((n + 1) % 2 ^ 32) } : State).land h.1 vc
        h.2.2.tag h.2.2.bytes)).drain src vc fuel

/-- A good DATA flit in sequence: forwarded on its route, where it holds its slot until it leaves, or delivered, in trailer order
where it has a trailer; a repeat of that order is discarded. -/
def State.deliver (s : State) (k : Nat) (f : Flit) : State :=
  let vc := f.vc.toNat
  if !f.trl then s.land k vc f.tag f.payload
  else
    let (src, dst, n) := trailerOf f.payload
    let p : Pkt := { dst := dst, tag := f.tag, bytes := f.payload.take (f.payload.length - 8), trailer := some (src, dst, n) }
    if dst ≠ s.rank then s.requeue vc { p with frm := k + 1 }
    else
      if 2 ^ 31 ≤ s.trailAhead src vc n || s.trailHeld.any (fun h => h.2.1 == vc && h.2.2.trailer == p.trailer) then s.freeSlots k vc 1
      else ({ s with trailHeld := s.trailHeld ++ [(k, vc, p)] } : State).drain src vc (s.trailHeld.length + 1)

/-- R163: DATA on VC 0, a LENGTH that no data has, or a TAG that names nothing here. -/
def State.malformed (s : State) (f : Flit) : Bool :=
  let n := f.payload.length
  f.vc == 0 || n == 0 || decide (256 < n) || n % 8 != 0 || (f.trl && decide (n ≤ 8)) ||
    ((!f.trl || (trailerOf f.payload).2.1 == s.rank) && !s.tagKnown f.vc.toNat f.tag)

/-- A DATA flit fills a slot of its channel, and is delivered. -/
def State.takeData (s : State) (k : Nat) (f : Flit) : State := (s.setLink k ((s.link k).hold f.vc.toNat)).deliver k f

/-- DATA. -/
def execData (k : Fin 128) (w : Wire) (s : State) : Out :=
  .next (match Flit.ofWire w with
    | none => s.badFlit k 0
    | some f => s.receive k 1 f.vc.toNat 1 (s.malformed f) f (fun s => s.takeData k f))

/-- CREDIT: the credits of its field return, or a channel is announced anew (R158, R163). -/
def execCredit (k : Fin 128) (w : Wire) (s : State) : Out := .next (s.onControl k 2 w (fun s f => s.seqHint k f))

/-- IDLE: its acknowledgement and credits count as those of any flit. -/
def execIdle (k : Fin 128) (w : Wire) (s : State) : Out := .next (s.onControl k 0 w (fun s f => s.seqHint k f))

/-- The sender replays from the oldest flit that is not acknowledged, which counts as a retry (R160). -/
def State.replayFrom (s : State) (k : Nat) : State := (s.countRetry k).setLink k ((s.countRetry k).link k).again

/-- NAK: its ACK, the SEQ that the far end lacks, has acknowledged what stands before; the sender replays from there. One that the retry
buffer cannot hold is answered by RESYNC (R160, R163). -/
def execNak (k : Fin 128) (w : Wire) (s : State) : Out :=
  .next (s.onControl k 3 w (fun t f =>
    if (s.link k).retry.length < (s.link k).lacks f.ack.toNat then (t.violation k 3).resync k
    else (t.replayFrom k).seqHint k f))

/-- What RESYNC does at the end that receives it: this end replays from its ACK, as the far end does from this end's; until that replay
what does not come in order is discarded; lanes that have trained join the stripe, which begins anew; a RESYNC that this end has not
sent is answered (R162, R163). -/
def State.takeResync (s : State) (k : Nat) (next : Bool) : State :=
  let x := s.link k
  let s1 := (s.setLink k { x.again with nakOut := !next, last := none, joining := [], resyncOut := false, stripe := 0 }).each x.joining
    (fun s l => s.when (s.get LSW_LANE.STATE l == 2) (fun s => s.trainPass l))
  let s2 := s1.when (!x.joining.isEmpty) (fun s => ((s.recount k).setLinkSt k (s.upState k)).settleRecable)
  if x.resyncOut then s2 else s2.sendTo k (.resync x.txSeq x.rxSeq)

/-- RESYNC: it uses a SEQ. The one that was acted on out of order comes again in the far end's replay, and only takes its place. -/
def execResync (k : Fin 128) (w : Wire) (s : State) : Out :=
  .next (s.onControl k 6 w (fun s f =>
    let x := s.link k
    let seq := f.seq.toNat
    let seen := x.seen (s.window k) seq
    let repeated := x.resyncSeq == some seq
    if seen = .old ∨ (repeated ∧ seen ≠ .next) then s
    else
      let s1 := s.setLink k { x with rxSeq := if seen = .next then (x.rxSeq + 1) % 65536 else x.rxSeq
                                     resyncSeq := if seen = .next then none else some seq }
      if repeated then s1.setLink k { s1.link k with nakOut := false, last := none } else s1.takeResync k (seen == .next)))

/-- RETRY_TIMEOUT: no acknowledgement for 10 µs; the sender replays from the oldest flit (R160). -/
def execRetryTimeout (k : Fin 128) (s : State) : Out :=
  .next (if s.linkUp k && !(s.link k).retry.isEmpty then s.replayFrom k else s)

/-- CREDIT_REANNOUNCE: an imbalance of 100 µs counts as a credit overflow, and the channel is announced anew (R159). -/
def execCreditReannounce (k : Fin 128) (sched : Bool) (s : State) : Out :=
  .next (if s.linkUp k then (s.violation k 2).announce k (if sched then 1 else 2) else s)

/-- Link `j` of a rank is up or down, as that rank says (R176). -/
def State.noteLink (s : State) (rank j peer : Nat) (up : Bool) : State :=
  let rest := s.netDown.filter (fun d => !(d.1 == rank && d.2.1 == j))
  { s with netDown := if up then rest else rest ++ [(rank, j, peer)] }

/-- LINK_STATE_MESSAGE (R176, R180). -/
def execLinkStateMessage (a : Via) (rank seq j peer : Nat) (up : Bool) (s : State) : Out :=
  .next (s.onFlood a rank seq (.linkState j peer up) (fun s => s.watchReach (fun s => s.noteLink rank j peer up)))

/-! The shape (R171). -/

/-- LSW_SHAPE after a write accepted: every field clamped anew, in the order of R171. -/
def shapeClamp (part : Variant) (x : Nat) : Nat :=
  let torus := bitsOf x 0 1
  let dim (lo : Nat) : Nat := max 1 (min 16 (bitsOf x lo 5))
  let size := if torus = 1 then dim 32 else max 1 (min (if part = .lhn1H then 32 else 64) (bitsOf x 8 7))
  let top := if part = .lhn1H then 4 * size + 1 else min 512 (8 * size + 1)
  let groups := if torus = 1 then dim 37 * dim 42 else max 1 (min top (bitsOf x 16 10))
  torus + size * 2 ^ 8 + groups * 2 ^ 16 + (if torus = 1 then dim 32 * 2 ^ 32 + dim 37 * 2 ^ 37 + dim 42 * 2 ^ 42 else 0)

/-- A write of LSW_SHAPE: without effect while a re-cable is armed or running or a schedule is busy. -/
def State.writeShape (s : State) (be : BitVec 8) (v : Word) : State :=
  if s.get LSW_STATUS.STATE ≠ 0 ∨ s.schedBusy then s
  else s.setReg .LSW_SHAPE 0 0 (BitVec.ofNat 64 (shapeClamp s.part (mergeBytes (s.reg .LSW_SHAPE 0 0).toNat be v.toNat)))

/-- SHAPE_WRITE. -/
def execShapeWrite (p : Fin 4) (be : BitVec 8) (v : BitVec 64) (s : State) : Out :=
  .next (s.adminWrite p (fun s => s.unlessHeld .LSW_SHAPE (.shape be v) (fun s => s.writeShape be v)))

end Sys2Proof.Machine
end

