-- ==== Sys2Proof/Machine/Switch.lean ====
section
/-! DEFINITION. Switch control (spec/09): the loops, their samples, failures and restarts, the two units. -/

namespace Sys2Proof.Machine

/-! Loop registers. -/

def State.loopPv (s : State) (i : Nat) : Int := sint 16 (s.get SCU_LOOP_STAT.PV i)
def State.loopOut (s : State) (i : Nat) : Int := sint 16 (s.get SCU_LOOP_STAT.OUTPUT i)
def State.loopSt (s : State) (i : Nat) : Nat := s.get SCU_LOOP_STAT.STATE i
def State.setLoopSt (s : State) (i st : Nat) : State := s.put SCU_LOOP_STAT.STATE st i
/-- STATE of a loop that runs in a mode (R209). -/
def modeState (mode : Nat) : Nat := mode + 1
/-- Loops of the part. -/
def State.fitted (s : State) : List Nat := (List.range 782).filter s.part.hasLoop
/-- x brought into a range. -/
def within (r : Int × Int) (x : Int) : Int := max r.1 (min r.2 x)

/-! Ramp profiles (R190, R333). -/

/-- The points of a profile, an OFFSET not above the one before it read as that plus 1. -/
def State.rampPoints (s : State) (p : Nat) : List (Nat × Nat) :=
  (List.range 16).foldl (fun ps j =>
    let o := s.get SCU_RAMP.OFFSET p j
    let o' := match ps.getLast? with
      | some q => if o ≤ q.1 then q.1 + 1 else o
      | none => o
    ps ++ [(o', s.get SCU_RAMP.FRACTION p j)]) []

/-- The fraction at sample `t` of a move, in 1/32,768; none: the move has ended. -/
def rampAt : List (Nat × Nat) → Nat → Option Nat
  | [], _ => none
  | [(o, f)], t => if t < o then some 0 else if f = 32768 ∨ o < t then none else some f
  | (o, f) :: (o', f') :: rest, t =>
    if t < o then some 0
    else if f = 32768 then none
    else if t < o' then some ((f * (o' - t) + f' * (t - o)) / (o' - o))
    else rampAt ((o', f') :: rest) t

/-- The fraction of a move: along its profile, or the straight ramp of 64 samples. -/
def State.moveAt (s : State) (m : Move) : Option Nat :=
  match m.prof with
  | some p => rampAt (s.rampPoints p) m.t
  | none => if m.t < 64 then some (m.t * 512) else none

/-! The effective set-point (R189). -/

/-- The set-point that the source of a loop gives where no move runs. -/
def State.sourcePoint (s : State) (i : Nat) : Int :=
  let reg := (s.loop i).spHeld.getD (sint 16 (s.get SCU_LOOP_CTRL.SETPOINT i))
  match s.get SCU_LOOP_CTRL.SPSRC i with
  | 0 => reg
  | 1 => (s.loop i).sp
  | 2 => reg + ((s.get SCU_AIN.CODE : Int) - 2048) * sint 8 (s.get SCU_AIN.GAIN)
  | _ => if s.bit LSW_LANE.EN_REQ i then s.exitPoint i (s.plan.lane i).exit else 0

/-- The moves of a loop that wait count a sample; one that has waited starts, from the effective set-point in force (R190). A source
that takes no profile drops them. -/
def State.startMove (s : State) (i : Nat) : Loop :=
  let x := s.loop i
  let src := s.get SCU_LOOP_CTRL.SPSRC i
  if src = 0 ∨ src = 2 then { x with due := [], move := x.move.filter (fun m => m.prof.isNone) }
  else
    { x with
      due := (x.due.filter (fun m => decide (0 < m.wait))).map (fun m => { m with wait := m.wait - 1 })
      move := ((x.due.filter (fun m => m.wait == 0)).getLast?.map (fun m => { m with old := x.sp })).or x.move }

/-- A sample takes the effective set-point one step on: along its move, else to what the source gives, unless the move to that still
waits. In HOLD too: a held loop uses no SETPOINT written since, but a move and the analogue source go on (R189, R192, R208). -/
def State.stepPoint (s : State) (i : Nat) : Loop :=
  let x := s.startMove i
  match x.move with
  | some m =>
    match s.moveAt m with
    | some f => { x with sp := within (spRange i) (m.old + Int.tdiv ((m.new - m.old) * f) 32768), move := some { m with t := m.t + 1 } }
    | none => { x with sp := within (spRange i) m.new, move := none }
  | none => if x.due.isEmpty then { x with sp := within (spRange i) (s.sourcePoint i) } else x

/-! One sample of a loop (R188, R191, R192, R195–R197). -/

/-- The coefficients in use: in HOLD those at its entry (R192, R193). -/
def State.coefOf (s : State) (i : Nat) : Nat := ((s.loop i).coef.getD (s.reg .SCU_LOOP_COEF i 0)).toNat

/-- The monitor range after a reading, and whether the sample is flagged: up to the range with 8 times the full scale above 7/8 of
it, down below 1/16 (R196). Range 0 has the largest full scale. -/
def rangeStep (range frac dwell : Nat) : Nat × Bool :=
  if 0 < dwell then (range, false)
  else if 896 < frac ∧ 0 < range then (range - 1, true)
  else if frac < 64 ∧ range < 2 then (range + 1, true)
  else (range, false)

/-- The following-error count after a sample, up to FE_SAMPLES (R195). -/
def feStep (coef : Nat) (e : Int) (n : Nat) : Nat :=
  if (bitsOf coef 32 15 : Int) < e.natAbs then min (bitsOf coef 48 14) (n + 1) else 0

/-- The control law (R188): the integrator and what is requested, from the error. A preset integrator gives the present output
again (R191). -/
def controlLaw (i : Nat) (coef : Nat) (x : Loop) (e : Int) : Loop :=
  let p := Int.fdiv (bitsOf coef 0 16 * e) 256
  let r := outRange i
  let integ := if x.preset then x.req - p
    else if !x.clamped && !x.scaled then within r (x.integ + Int.fdiv (bitsOf coef 16 16 * e) 256)
    else x.integ
  let u := within r (p + integ)
  { x with integ := integ, req := u, clamped := u != p + integ, preset := false }

/-- What a loop does in a sample of its monitor. In a flagged sample it holds its output, whatever its mode (R196). -/
def State.sampleLoop (s : State) (m : Sample) : State :=
  let i := m.loop
  let st := s.loopSt i
  if st = 0 then s
  else
    let x0 := s.stepPoint i
    let (range, flagged) := rangeStep (s.get SCU_LOOP_STAT.RANGE i) m.frac x0.dwell
    let x := { x0 with dwell := if flagged then 3 else x0.dwell - 1, lightRun := if m.light then x0.lightRun + 1 else 0 }
    let s1 := ((s.put SCU_LOOP_STAT.PV (uint 16 m.pv) i).put SCU_LOOP_STAT.RANGE range i).when flagged (fun s =>
      s.bump SCU_LOOP_STAT.RANGE_CHG i)
    let coef := s.coefOf i
    let e := x.sp - m.pv
    let fe (s : State) : State :=
      if flagged then s else s.put SCU_LOOP_STAT.FE_COUNT (feStep coef e (s.get SCU_LOOP_STAT.FE_COUNT i)) i
    match st with
    | 1 => fe (s1.setLoop i (if flagged then x else controlLaw i coef x e))
    | 2 => s1.setLoop i (if flagged then x else { x with req := sint 16 (s.get SCU_LOOP_CTRL.MANUAL_OUT i), clamped := false })
    | 3 => fe (s1.setLoop i x)
    | 5 => s1.setLoop i (if flagged then x else
        { x with parkT := min 10 (x.parkT + 1), req := Int.tdiv (x.parkFrom * ((9 - x.parkT : Nat) : Int)) 10 })
    | 6 => s1.setLoop i { x with req := 0 }
    | _ => s1.setLoop i x

/-! Restart, parking (R195, R198). -/

def State.domOn (s : State) (d : Nat) : Bool := s.get PWR_DOMAIN.STATE d == 3
/-- Lane entries of optical engine `e`. -/
def engineLanes (e : Nat) : List Nat := (List.range 512).filter (fun l => l % 256 / 64 == e)

/-- Lanes of an engine whose laser bank is on, its loop not failed, and which is calibrated train (R153, R195, R332, R341). -/
def State.relight (s : State) (e : Nat) : State :=
  if s.bit PWR_LASER.ARMED && s.domOn (32 + e) && decide (s.loopSt (776 + e) < 5) && !(s.calUnit (2 + e)).fail then
    s.each ((engineLanes e).filter (fun l => s.usable l && s.get LSW_LANE.STATE l == 0)) (fun s l => s.put LSW_LANE.STATE 2 l)
  else s

/-- A parked loop starts again from zero output in AUTO. The lanes it held up then move and train (R153, R206). -/
def State.restartLoop (s : State) (i : Nat) : State :=
  let s1 := ((((s.put SCU_LOOP_CTRL.MODE 0 i).put SCU_LOOP_CTRL.BUSY 0 i).put SCU_LOOP_STAT.STATE 1 i).put
    SCU_LOOP_STAT.FE_COUNT 0 i).put SCU_LOOP_STAT.OUTPUT 0 i
  let x := s.loop i
  let s2 := s1.setLoop i { x with
    integ := 0, req := 0, clamped := false, scaled := false, restart := false, preset := false, coef := none, spHeld := none }
  if i < 512 then s2.when (s2.usable i && s2.get LSW_LANE.STATE i == 0) (fun s => s.put LSW_LANE.STATE 1 i)
  else if 776 ≤ i ∧ i < 780 then s2.relight (i - 776)
  else s2

/-- SETPOINT as a loop uses it when it is held: what it held already, else the register. -/
def State.heldPoint (s : State) (i : Nat) : Int := (s.loop i).spHeld.getD (sint 16 (s.get SCU_LOOP_CTRL.SETPOINT i))

/-- A loop whose light goes with its lasers enters LIGHT_HOLD (R197). -/
def State.lightHold (s : State) (i : Nat) : State :=
  if [1, 2, 3].contains (s.loopSt i) then
    (s.setLoopSt i 4).setLoop i { s.loop i with lightRun := 0, spHeld := some (s.heldPoint i) }
  else s

/-- The laser bank of an engine is off: its lanes are lost, the loops of its transmit elements wait for light (R162, R195, R197). -/
def State.bankOff (s : State) (e : Nat) : State :=
  let ls := (List.range 512).filter (fun l => l % 256 / 64 == e && s.part.hasLane l)
  let s1 := s.each ls (fun s l => s.when (s.get LSW_LANE.STATE l != 0) (fun s => s.dropLane l 0))
  s1.each (ls.filter isTx) (fun s l => s.lightHold l)

/-- A loop is failed: it begins to park and its event is raised. -/
def State.parkLoop (s : State) (i : Nat) : State :=
  let x := s.loop i
  let s1 := (s.setLoopSt i 5).setLoop i { x with parkFrom := x.req, parkT := 0 }
  s1.raise0 21 (detail [(0, i), (16, uint 16 (s.loopPv i)), (32, uint 16 x.sp)])

/-- The consequences of a failed loop, by type (R167, R195). -/
def State.loopLost (s : State) (i : Nat) : State :=
  if i < 512 then ((s.abandonRecable 3 i).loseLane i 2).settleRecable
  else if i < 776 then s
  else if i < 780 then s.bankOff (i - 776)
  else if 5 ≤ s.loopSt (1561 - i) then
    s.each ((List.range 4).filter (fun e => s.part.hasLoop (776 + e) && decide (s.loopSt (776 + e) < 5) && s.loopSt (776 + e) != 0))
      (fun s e => (s.parkLoop (776 + e)).bankOff e)
  else s

/-- A loop fails. -/
def State.failLoop (s : State) (i : Nat) : State := s.noteHz ((s.parkLoop i).loopLost i)

/-- LOOP_FAILED: the count has reached FE_SAMPLES in a sample whose outputs were issued (R195, R208). -/
def execLoopFailed (i : Fin 782) (s : State) : Out :=
  .next (if (s.loopSt i == 1 || s.loopSt i == 3) && s.scu.holder.isSome &&
      decide (bitsOf (s.coefOf i) 48 14 ≤ s.get SCU_LOOP_STAT.FE_COUNT i) then s.failLoop i else s)

/-- LOOP_PARKED: the output has reached zero; a queued restart takes effect (R195, R198). -/
def execLoopParked (i : Fin 782) (s : State) : Out :=
  .next (if s.loopSt i == 5 && decide (10 ≤ (s.loop i).parkT) then
      let s1 := (s.setLoopSt i 6).put SCU_LOOP_STAT.OUTPUT 0 i
      if (s.loop i).restart then s1.restartLoop i else s1
    else s)

/-- LIGHT_HOLD_EXIT: light in 10 consecutive samples; the loop goes on in its mode, bumplessly (R197). -/
def execLightHoldExit (i : Fin 782) (s : State) : Out :=
  .next (if s.loopSt i == 4 && decide (10 ≤ (s.loop i).lightRun) then
      let x := s.loop i
      let mode := s.get SCU_LOOP_CTRL.MODE i
      (s.setLoopSt i (modeState mode)).setLoop i { x with preset := true, spHeld := if mode = 2 then x.spHeld else none }
    else s)

/-! Modes (R191, R192). -/

/-- MODE is written: AUTO to MANUAL loads the present output; HOLD keeps the coefficients and the SETPOINT in use; AUTO presets the
integrator. -/
def State.setMode (s : State) (i mode : Nat) : State :=
  if !s.part.hasLoop i then s
  else
    let was := s.get SCU_LOOP_CTRL.MODE i
    let s1 := s.put SCU_LOOP_CTRL.MODE mode i
    let x := s.loop i
    if was = mode then s
    else
      let s2 := s1.when (was == 0 && mode == 1) (fun s => s.put SCU_LOOP_CTRL.MANUAL_OUT (s.get SCU_LOOP_STAT.OUTPUT i) i)
      let s3 := s2.setLoop i { x with
        preset := mode == 0
        coef := if mode = 2 then some (s.reg .SCU_LOOP_COEF i 0) else none
        spHeld := if mode = 2 then some (s.heldPoint i) else if s.loopSt i = 4 then x.spHeld else none }
      s.noteHz (s3.when ([1, 2, 3].contains (s.loopSt i)) (fun s => s.setLoopSt i (modeState mode)))

/-- LOOP_AUTO. -/
def execLoopAuto (p : Fin 4) (i : Fin 782) (s : State) : Out :=
  .next (s.adminWrite p (fun s => s.unlessHeld .SCU_LOOP_CTRL (.mode i 0) (fun s => s.setMode i 0)))
/-- LOOP_MANUAL. -/
def execLoopManual (p : Fin 4) (i : Fin 782) (s : State) : Out :=
  .next (s.adminWrite p (fun s => s.unlessHeld .SCU_LOOP_CTRL (.mode i 1) (fun s => s.setMode i 1)))
/-- LOOP_HOLD. -/
def execLoopHold (p : Fin 4) (i : Fin 782) (s : State) : Out :=
  .next (s.adminWrite p (fun s => s.unlessHeld .SCU_LOOP_CTRL (.mode i 2) (fun s => s.setMode i 2)))

/-- A write of 1 to RESTART (R198): at once on a parked loop, queued while it parks; on loops 0–511 without effect. -/
def State.restartReq (s : State) (i : Nat) : State :=
  if i < 512 ∨ !s.part.hasLoop i then s
  else if s.loopSt i = 6 then s.restartLoop i
  else if s.loopSt i = 5 then (s.put SCU_LOOP_CTRL.BUSY 1 i).setLoop i { s.loop i with restart := true }
  else s
/-- LOOP_RESTART. -/
def execLoopRestart (p : Fin 4) (i : Fin 782) (s : State) : Out :=
  .next (s.adminWrite p (fun s => s.unlessHeld .SCU_LOOP_CTRL (.restart i) (fun s => s.restartReq i)))

/-- A write of SCU_LOOP_COEF: its fields clamped; used from the next sample on (R193). -/
def State.writeCoef (s : State) (i : Nat) (v : Word) : State :=
  if !s.part.hasLoop i then s
  else s.each [SCU_LOOP_COEF.KP, SCU_LOOP_COEF.KI, SCU_LOOP_COEF.FE_LIM, SCU_LOOP_COEF.FE_SAMPLES] (fun s f =>
    s.put f (s.clampTo f i (bitsOf v.toNat f.lo f.w)) i)
/-- COEF_WRITE. -/
def execCoefWrite (p : Fin 4) (i : Fin 782) (v : BitVec 64) (s : State) : Out :=
  .next (s.adminWrite p (fun s => s.unlessHeld .SCU_LOOP_COEF (.coef i v) (fun s => s.writeCoef i v)))

/-! Samples (R188, R199). -/

/-- A driver bank: scaled where its heaters request more than 400 mA in all; the first sample of a run raises the event. -/
def State.sampleBank (s : State) (b : Nat) : State :=
  let is := (List.range 8).map (8 * b + ·)
  let sum := (is.map (fun i => (s.loop i).req.toNat)).sum
  let sat := decide (40000 < sum)
  let s1 := s.each is (fun s i =>
    let x := s.loop i
    ((s.setLoop i { x with scaled := sat }).put SCU_LOOP_STAT.OUTPUT
      (if sat then x.req.toNat * 40000 / sum else x.req.toNat) i))
  let s2 := (s1.put SCU_BANK.REQ sum b).put SCU_BANK.SAT (b2n sat) b
  (s2.when sat (fun s => s.bump SCU_BANK.SAT_CNT b)).when (sat && !s.bit SCU_BANK.SAT b) (fun s =>
    s.raise0 22 (detail [(0, b), (16, sum)]))

/-- Banks of the part. -/
def State.banks (s : State) : List Nat := (List.range 97).filter (fun b => s.part.hasLoop (8 * b))

/-- Moves that wait count the sample, though no outputs are issued (R208). -/
def State.waitMoves (s : State) : State :=
  s.each ((s.loops.filter (fun p => !p.2.due.isEmpty)).map (·.1)) (fun s i =>
    let x := s.loop i
    s.setLoop i { x with due := x.due.map (fun m => { m with wait := m.wait - 1 }) })

/-- A write that waited for the first sample of a new active unit takes effect (R208). -/
def State.replayScu (s : State) (c : Held) : State :=
  match c with
  | .reg p addr be v =>
    (match s.target p addr with
     | .reg r i j _ copy => s.noteHz (s.writeReg r i j copy be v.toNat)
     | _ => s)
  | .mode i m => s.setMode i m
  | .restart i => s.restartReq i
  | .coef i v => s.writeCoef i v
  | _ => s

/-- LOOP_SAMPLE: what the monitors read; one that is not listed reads as it did. The re-cable's wait after its pulse edge counts
samples too (R189). -/
def execLoopSample (samples : List Sample) (ain : BitVec 12) (s : State) : Out :=
  .next (
    let sw := match s.recable with
      | some r => if !r.armed && !r.committed then { s with recable := some { r with wait := r.wait - 1 } } else s
      | none => s
    if s.scu.holder.isNone then sw.waitMoves
    else
      let s0 := ({ sw with scu := { sw.scu with held := [] } } : State).each sw.scu.held (fun s c => s.replayScu c)
      let s1 := s0.put SCU_AIN.CODE ain.toNat
      let s2 := s1.each s1.fitted (fun s i => s.when ((s.loop i).restart && s.loopSt i == 6) (fun s => s.restartLoop i))
      let s3 := s2.each s2.fitted (fun s i =>
        s.sampleLoop ((samples.find? (fun m => m.loop == i)).getD { loop := i, pv := s.loopPv i }))
      let s4 := s3.each s3.banks (fun s b => s.sampleBank b)
      let s5 := s4.each ((List.range 6).map (776 + ·)) (fun s i =>
        s.when (s.part.hasLoop i) (fun s => s.put SCU_LOOP_STAT.OUTPUT (uint 16 (s.loop i).req) i))
      let both := s5.scu.healthyA && s5.scu.healthyB
      { s5 with scu := { s5.scu with track := if both then s5.scu.track + 1 else 0 } })

/-! The two units (R201–R206). -/

def State.unitOk (s : State) (u : Nat) : Bool := if u = 0 then s.scu.healthyA else s.scu.healthyB
def Scu.setOk (x : Scu) (u : Nat) (b : Bool) : Scu := if u = 0 then { x with healthyA := b } else { x with healthyB := b }

/-- SCU_GIVEUP: the unit stops driving and releases its claim; causes 0x01–0x07 (R201). -/
def execScuGiveup (u : Fin 2) (cause : BitVec 8) (s : State) : Out :=
  .next (if !s.unitOk u || cause == 0 || decide (7 < cause.toNat) then s
    else
      let active := s.scu.holder == some u.val
      let x := { s.scu.setOk u false with
        holder := if active then none else s.scu.holder
        released := s.scu.released || active
        tracking := s.scu.tracking && active
        track := 0 }
      (({ s with scu := x } : State).put SCU_STATUS.GIVEUP_CAUSE cause.toNat).raise0 23 (detail [(0, u), (8, cause.toNat)]))

/-- SCU_RELOADED: the unit passes every check and returns as standby (R201). -/
def execScuReloaded (u : Fin 2) (s : State) : Out :=
  .next (if s.unitOk u then s else { s with scu := { s.scu.setOk u true with track := 0, tracking := false } })

/-- SEAWALL_CLAIM: after a release the standby that tracks takes over; with nothing to follow, at a start, the unit that
SCU_CTRL.PREF names (R202, R204). -/
def execSeawallClaim (u : Fin 2) (s : State) : Out :=
  .next (
    let may := if s.scu.released then s.scu.tracking else s.get SCU_CTRL.PREF == u.val || !s.unitOk (1 - u)
    if s.scu.holder.isSome || !s.unitOk u || !may then s
    else
      ({ s with scu := { s.scu with holder := some u, released := false, tracking := false, track := 0, claimed := true } } : State).when
        s.scu.released (fun s => s.bump SCU_STATUS.TAKEOVERS))

/-- A planned switchover: the released unit becomes the standby, with cause 0x08 (R205). -/
def State.switchover (s : State) (cause : Nat) : State :=
  match s.scu.holder with
  | none => s
  | some u =>
    (({ s with scu := { s.scu with holder := some (1 - u), tracking := false, track := 0 } } : State).put
      SCU_STATUS.GIVEUP_CAUSE cause).bump SCU_STATUS.TAKEOVERS

/-- The hand-over of a management pause (R207): the active unit is released with cause 0x09 and reloaded. -/
def State.handOver (s : State) : State :=
  match s.scu.holder with
  | none => s
  | some u =>
    let s1 := s.switchover 9
    { s1 with scu := s1.scu.setOk u false }

/-- STANDBY_TRACKING: the standby has adopted state for 2,000 consecutive samples (R203). In a management pause the unit that was active
before it is handed control back (R207). -/
def execStandbyTracking (s : State) : Out :=
  .next (if s.scu.holder.isSome && s.scu.healthyA && s.scu.healthyB && decide (2000 ≤ s.scu.track) then
    ({ s with scu := { s.scu with tracking := true } } : State).when
      (s.bit FWU_STATUS.PAUSED && s.scu.handover.isSome && s.scu.handover != s.scu.holder) State.handOver
    else s)

/-- A write of 1 to SCU_CTRL.SWITCH. -/
def State.switchReq (s : State) : State :=
  if s.scu.tracking && s.scu.holder.isSome then s.switchover 8 else s.put SCU_STATUS.SWITCH_REFUSED 1
/-- SCU_SWITCH: dropped and refused after a give-up, which is ordered first (R208). -/
def execScuSwitch (p : Fin 4) (s : State) : Out :=
  .next (s.adminWrite p (fun s =>
    if s.scu.released then s.put SCU_STATUS.SWITCH_REFUSED 1
    else if s.bit FWU_STATUS.PAUSED then { s with heldWrites := s.heldWrites ++ [.scuSwitch] }
    else s.switchReq))

/-- SCU_TAKEOVER_FAIL: heaters, coolers and with them the laser banks are off; every loop fails, and starts again from zero when a
unit drives; it is a schedule fault (R86, R206). -/
def execScuTakeoverFail (s : State) : Out :=
  .next (if !(s.scu.released && s.scu.holder.isNone) then s
    else
      let x : Scu := { s.scu with healthyA := false, healthyB := false, tracking := false, track := 0, released := false, held := [] }
      let s1 := ({ s with scu := x } : State).abandonRecable 3 0
      let s2 := s1.each (s1.fitted.filter (fun i => s.loopSt i != 0)) (fun s i =>
        let s' := s.when (decide (s.loopSt i < 5)) (fun s => s.parkLoop i)
        ((s'.setLoopSt i 6).put SCU_LOOP_STAT.OUTPUT 0 i).setLoop i { s'.loop i with req := 0, restart := true })
      let s3 := s2.each ((List.range 512).filter s.part.hasLane) (fun s l =>
        s.when (s.get LSW_LANE.STATE l != 0) (fun s => s.dropLane l 0))
      s.noteHz ((s3.raise0 24).schedFault))

end Sys2Proof.Machine
end

