-- ==== Sys2Proof/Machine/PowerOps.lean ====
section
/-! DEFINITION. What power, lasers and calibration share (spec/15): the shutdown path, the states of domains, the calibration of
units. -/

namespace Sys2Proof.Machine

/-! Units: 0 HZ0, 1 HZ1, 2 OE0 … 5 OE3, as CFG_CAL numbers them (R332). -/

def State.unitFitted (s : State) (u : Nat) : Bool := if u < 2 then s.part.hz else decide (u - 2 < s.part.engines)
def unitDomain (u : Nat) : Nat := if u < 2 then 22 + u else 30 + u
/-- Units of a mask that are fitted. -/
def State.calUnitsOf (s : State) (mask : Nat) : List Nat := (List.range 6).filter (fun u => mask / 2 ^ u % 2 == 1 && s.unitFitted u)
/-- The mask of fitted units. -/
def State.unitMask (s : State) : Nat := bitSet 6 s.unitFitted
/-- The units that a CAL_RUN names: UNITS 0 means every fitted one (R260). -/
def State.calRunUnits (s : State) (units : Nat) : List Nat := s.calUnitsOf (if units % 64 = 0 then s.unitMask else units % 64)

/-- Bias-heater loops of Hjelzo engine `e`. -/
def biasLoops (e : Nat) : List Nat := (List.range 132).map (512 + 132 * e + ·)

/-! Lasers (R339, R341). -/

/-- The laser bank of a Hjelzo engine is off. -/
def State.hzLasersOff (s : State) (e : Nat) : State :=
  (s.put HZE_STATUS.LASER_OK 0 e).each (biasLoops e) (fun s i => s.lightHold i)

/-- The shutdown path: every laser driver is disabled. A re-cable not committed is abandoned (R167), lanes go down, loops wait for
light, a busy schedule takes a fault. -/
def State.driversOff (s : State) : State :=
  if !s.bit PWR_LASER.ARMED then s
  else
    let s1 := (s.put PWR_LASER.ARMED 0).abandonRecable 2 0
    let s2 := (s1.each (List.range 4) (fun s e => s.bankOff e)).each (if s.part.hz then [0, 1] else []) (fun s e => s.hzLasersOff e)
    (s.noteHz s2.settleRecable).schedFault


/-- The lasers are enabled: ARMED is set, the banks light and the lanes train (R153, R341). -/
def State.arm (s : State) : State := (s.put PWR_LASER.ARMED 1).each (List.range 4) (fun s e => s.relight e)

/-! Domains (R315–R319). -/

/-- The rails of a domain, in the order of R371. -/
def railsOf (d : Nat) : List Nat :=
  if d = 0 then [5] else if d = 1 then [1] else if d < 4 then [5, 6] else if d < 6 then [1] else if d < 22 then [0]
  else if d < 24 then [3, 4] else if d < 32 then [2] else [3, 4]
/-- Every rail of the domain is in range. -/
def State.railsGood (s : State) (d : Nat) : Bool := (railsOf d).all (fun r => s.rails.getD r true)

/-- A domain changes state: DOMAIN_CHANGE; a Hjelzo engine may cease to be ready (R137, R346). -/
def State.setDomSt (s : State) (d st : Nat) : State :=
  let s1 := (s.put PWR_DOMAIN.STATE st d).put PWR_DOMAIN.BUSY (b2n (st == 2 || st == 4)) d
  s.noteHz ((s1.when (st == 3) (fun s => s.put PWR_DOMAIN.HELD_BACK 0 d)).raise0 41 (detail [(0, d), (8, st)]))

/-- A switch control unit loses its supply. -/
def State.scuGone (s : State) (u : Nat) : State :=
  let x := s.scu.setOk u false
  if s.scu.holder = some u then { s with scu := { x with holder := none, released := true, track := 0 } }
  else { s with scu := { x with tracking := false, track := 0 } }

/-- The units of a domain stop work. -/
def State.domainGone (s : State) (d : Nat) : State :=
  if d = 2 ∨ d = 3 then s.scuGone (d - 2)
  else if 6 ≤ d ∧ d < 22 then s.each (List.range 12) (fun s i => s.setTile (12 * (d - 6) + i) { st := .off })
  else if d = 22 ∨ d = 23 then s.noteHz (s.hzLasersOff (d - 22))
  else if 32 ≤ d then (s.bankOff (d - 32)).settleRecable
  else s

/-- DOMAIN descriptors end with SUCCESS; `on`: the state reached. DETAIL[1] tells one that was queued (R320). -/
def State.endDomains (s : State) (ds : List Nat) (on : Bool) : State :=
  s.each ds (fun s d => s.endDesc d stSuccess (b2n on + 2 * ((s.desc d).map (·.arg)).getD 0) 0)

/-- The queued request of a domain is replaced or dropped: its descriptor reports the state reached (R319). -/
def State.dropQueued (s : State) (d : Nat) : State :=
  match (s.dom d).queued with
  | none => s
  | some q =>
    ((s.setDom d { s.dom d with queued := none }).put PWR_DOMAIN.QUEUED 0 d).endDesc q.desc stSuccess
      (b2n (s.domOn d) + 2 * s.get PWR_DOMAIN.BUSY d) 0

/-- Domains whose units need no bring-up (R318). -/
def noBringup (d : Nat) : Bool := [0, 1, 4, 5].contains d

/-- A turn-on begins, where the rails and the tokens allow it (R317, R320). -/
def State.beginOn (s : State) (d desc : Nat) : State :=
  let x := s.dom d
  let was := ((s.desc desc).map (·.arg)).getD 0
  if s.domOn d then
    if x.bringup then s.setDom d { x with desc := x.desc ++ [desc] } else s.endDesc desc stSuccess (1 + 2 * was) 0
  else if !s.railsGood d then s.endDesc desc stUnavailable (8 + 256 * d) 0
  else if s.tokensFree < s.part.demand d then (s.put PWR_TOKEN.SHORT 1).endDesc desc stSuccess (2 * was) 0
  else (s.setDomSt d 2).setDom d { x with desc := [desc], bringup := !noBringup d }

/-- A turn-off begins; one that is OFF or FAILED stays so. Those that wait for the bring-up of its units report it off. -/
def State.beginOff (s : State) (d desc : Nat) : State :=
  if !s.domOn d then s.endDesc desc stSuccess (2 * ((s.desc desc).map (·.arg)).getD 0) 0
  else
    let s1 := s.endDomains (s.dom d).desc false
    ((s1.setDomSt d 4).setDom d { s1.dom d with desc := [desc], bringup := false }).domainGone d

/-- A request for a domain: queued while a sequence runs toward the other state, joined to one that runs toward it (R319). -/
def State.domRequest (s : State) (d : Nat) (on : Bool) (desc : Nat) : State :=
  let st := s.get PWR_DOMAIN.STATE d
  if st = 2 ∨ st = 4 then
    let s1 := s.dropQueued d
    if (on && st == 2) || (!on && st == 4) then s1.setDom d { s1.dom d with desc := (s1.dom d).desc ++ [desc] }
    else ((s1.setDom d { s1.dom d with queued := some ⟨on, desc⟩ }).put PWR_DOMAIN.QUEUED 1 d).onDesc desc (fun x => { x with arg := 1 })
  else if on then s.beginOn d desc else s.beginOff d desc

/-- BUSY has cleared: a queued request takes effect. -/
def State.takeQueued (s : State) (d : Nat) : State :=
  match (s.dom d).queued with
  | none => s
  | some q =>
    let s1 := (s.setDom d { s.dom d with queued := none }).put PWR_DOMAIN.QUEUED 0 d
    if q.on then s1.beginOn d q.desc else s1.beginOff d q.desc

/-- A domain that is on, or on its way, fails: the descriptors that wait for it, the queued one too, end with reason 2 (R315, R320). -/
def State.failDomain (s : State) (d : Nat) : State :=
  let x := s.dom d
  let s1 := s.each (x.desc ++ (x.queued.map (·.desc)).toList) (fun s i => s.endDesc i stUnavailable (2 + 256 * d) 0)
  let s2 := ((s1.setDom d {}).put PWR_DOMAIN.QUEUED 0 d).domainGone d
  s2.setDomSt d 5

/-- The domains of a list that are TURNING_ON, ON or TURNING_OFF. -/
def State.domsLive (s : State) (ds : List Nat) : List Nat := ds.filter (fun d => [2, 3, 4].contains (s.get PWR_DOMAIN.STATE d))

/-- Stores of a cluster are zeroed with check bits (R318); its tiles hold nothing. -/
def State.zeroCluster (s : State) (c : Nat) : State :=
  let lo := 12 * c
  let hi := 12 * c + 12
  let s1 := s.each (List.range 12) (fun s i => s.setTile (lo + i) {})
  { s1 with
    tstore := SMap.clear s1.tstore (lo * 4194304) (hi * 4194304)
    tsErr := SMap.clear s1.tsErr (lo * 524288) (hi * 524288)
    istore := SMap.clear s1.istore (lo * 32768) (hi * 32768)
    isErr := SMap.clear s1.isErr (lo * 32768) (hi * 32768) }

/-! Calibration (R332–R334). -/

/-- A set-point that the manual does not give, in the range of its loop (log 3, DESIGN CHOICE). -/
def State.drawPoint (s : State) (i : Nat) : Int × State :=
  let (w, s') := s.draw
  let r := spRange i
  (r.1 + ((w.toNat % ((r.2 - r.1).toNat + 1) : Nat) : Int), s')

/-- A loop's calibrated set-points are replaced: four exits of a lane element, one point of another loop. A set-point in use moves
along a straight ramp of 64 samples (R333). -/
def State.calLoop (s : State) (i : Nat) : State :=
  let (ps, s1) := (List.range (if i < 512 then 4 else 1)).foldl (fun (a : List Int × State) _ =>
    let (p, s') := a.2.drawPoint i
    (a.1 ++ [p], s')) ([], s)
  let src := s1.get SCU_LOOP_CTRL.SPSRC i
  let new := ps.getD (if i < 512 then (s1.plan.lane i).exit else 0) 0
  let used := if i < 512 then src == 3 && (s1.plan.lane i).en else src == 0
  let s2 := s1.when (decide (512 ≤ i)) (fun s => s.put SCU_LOOP_CTRL.SETPOINT (uint 16 new) i)
  let x := s2.loop i
  s2.setLoop i { x with cal := ps, move := if used then some { old := x.sp, new := new, t := 0, prof := none } else x.move }

/-- The loops that a unit's calibration sets. -/
def State.unitLoops (s : State) (u : Nat) : List Nat :=
  (if u < 2 then biasLoops u else (engineLanes (u - 2)).filter s.part.hasLane ++ [774 + u]).filter s.part.hasLoop

/-- CFG_CAL shows what is held; `kind`: 0 full, 1 trim, 2 reuse. -/
def State.showCal (s : State) (kind : Nat) : State :=
  let units := List.range 6
  (((s.put CFG_CAL.PASS (bitSet 6 (fun u => (s.calUnit u).pass))).put CFG_CAL.FAIL (bitSet 6 (fun u => (s.calUnit u).fail))).put
    CFG_CAL.SOURCE kind).put CFG_CAL.AGE_H (min 65535 ((units.map (fun u => (s.calUnit u).ageH)).foldl max 0))

/-- While a unit is calibrated its lanes are down and its engine is not ready (R334). -/
def State.calBegin (s : State) (u : Nat) : State :=
  let s1 := s.setCalUnit u { s.calUnit u with pass := false }
  if u < 2 then s1
  else s1.each ((engineLanes (u - 2)).filter (fun l => s1.part.hasLane l && s1.get LSW_LANE.STATE l != 0)) (fun s l => s.dropLane l 0)

/-- A loop goes on from the set-point that its unit's held calibration gives it (R326). -/
def State.keepPoint (s : State) (i : Nat) : State :=
  s.when (decide (512 ≤ i)) (fun s => s.put SCU_LOOP_CTRL.SETPOINT (uint 16 ((s.loop i).cal.getD 0 0)) i)

/-- The calibration of a unit ends. Kind 2 keeps what was held: the set-points are those calibrated before. -/
def State.calEnd (s : State) (u kind : Nat) (ok : Bool) : State :=
  let x := s.calUnit u
  if !ok then s.setCalUnit u { x with pass := false, fail := true }
  else
    let y : CalUnit := if kind = 2 then { x with pass := true, fail := false }
      else { gen := x.gen + 1, ageH := 0, pass := true, fail := false }
    let s1 := (s.each (s.unitLoops u) (fun s i => if kind = 2 then s.keepPoint i else s.calLoop i)).setCalUnit u y
    s1.when (decide (2 ≤ u)) (fun s => s.relight (u - 2))

/-- Units are calibrated, each in its kind; one without light (its domain is off, or the drivers are), or whose procedure cannot finish,
fails (R332, R341). CAL_DONE names them. -/
def State.calibrate (s : State) (us : List Nat) (kind : Nat → Nat) (failed : Nat → Bool) : State :=
  let ok (u : Nat) : Bool := s.bit PWR_LASER.ARMED && s.domOn (unitDomain u) && !failed u
  let all := if us.any (fun u => kind u == 0) then 0 else if us.any (fun u => kind u == 1) then 1 else 2
  let s1 := s.noteHz (s.each us (fun s u => s.calBegin u))
  let s2 := s1.each us (fun s u => s.calEnd u (kind u) (ok u))
  (s2.showCal all).raise0 45 (detail [(0, bitSet 6 (fun u => us.contains u && ok u)),
    (8, bitSet 6 (fun u => us.contains u && !ok u)), (16, all)])

end Sys2Proof.Machine
end

