-- ==== Sys2Proof/Machine/Power.lean ====
section
/-! DEFINITION. The rows of domains, of the power governor and of idle (spec/15). -/

namespace Sys2Proof.Machine

/-! DOMAIN (R320). -/

def Desc.domain (x : Desc) : Nat := x.field 0x18 1
/-- ACTION in effect: 3–255 read as 0, and off as report on D00–D05 and D24–D31. -/
def Desc.action (x : Desc) : Nat :=
  let a := x.field 0x19 1
  let d := x.domain
  if 2 < a then 0 else if a = 2 ∧ (d < 6 ∨ (24 ≤ d ∧ d < 32)) then 0 else a

/-- A DOMAIN of an ACTION runs, once: the sequencer has it from then on, and the warden core is free (log 62, DEDUCED). -/
def State.domainOp (s : State) (d action : Nat) (g : Desc → State → State) : State :=
  if s.doms.any (fun p => p.2.desc.contains d || (p.2.queued.map (fun q => q.desc == d)).getD false) then s
  else s.runDesc d 0x28 (fun x s => if x.action = action ∧ s.part.hasDomain x.domain then g x (s.leaveWarden d) else s)

def execDomainReport (d : Nat) (s : State) : Out :=
  .next (s.domainOp d 0 (fun x s =>
    s.endDesc d stSuccess (b2n (s.domOn x.domain) + 2 * s.get PWR_DOMAIN.BUSY x.domain) 0))

def execDomainOn (d : Nat) (s : State) : Out := .next (s.domainOp d 1 (fun x s => s.domRequest x.domain true d))

/-- DOMAIN off: refused on clusters and optical engines while a schedule is busy. -/
def execDomainOff (d : Nat) (s : State) : Out :=
  .next (s.domainOp d 2 (fun x s =>
    if (x.domain < 22 ∨ 32 ≤ x.domain) ∧ s.schedBusy then s.badState x
    else s.domRequest x.domain false d))

/-- DOMAIN_ON_DONE: the rail is stable; a queued request takes effect. -/
def execDomainOnDone (d : Fin 36) (s : State) : Out :=
  .next (if s.get PWR_DOMAIN.STATE d ≠ 2 then s
    else
      let s1 := s.setDomSt d 3
      let s2 := if noBringup d then (s1.endDomains (s1.dom d).desc true).setDom d { s1.dom d with desc := [] } else s1
      s2.takeQueued d)

/-- The units of a domain take work: stores are zeroed, a stack is ready, a unit is calibrated or its calibration reused (R318, R326,
R329). -/
def State.bringUp (s : State) (d : Nat) (failed reuse : Bool) : State :=
  if 6 ≤ d ∧ d < 22 then s.zeroCluster (d - 6)
  else if d = 22 ∨ d = 23 ∨ 32 ≤ d then
    let u := if d < 24 then d - 22 else d - 30
    let s1 := s.when (decide (u < 2)) (fun s => s.put HZE_STATUS.LASER_OK (s.get PWR_LASER.ARMED) u)
    let kept := reuse && (s1.calUnit u).gen != 0 && decide ((s1.calUnit u).ageH ≤ 720)
    s1.calibrate [u] (fun _ => if kept then 2 else 0) (fun _ => failed)
  else s

/-- The bring-up of a domain's units can end: a switch control unit has been reloaded and tracks the active one, or is that (R203, R318).
-/
def State.broughtUp (s : State) (d : Nat) : Bool :=
  if d = 2 then s.scu.healthyA && (s.scu.tracking || s.scu.holder == some 0)
  else if d = 3 then s.scu.healthyB && (s.scu.tracking || s.scu.holder == some 1)
  else true

/-- DOMAIN_BRINGUP_DONE: the descriptors complete. -/
def execDomainBringupDone (d : Fin 36) (calFailed calReuse : Bool) (s : State) : Out :=
  .next (if !(s.domOn d && (s.dom d).bringup && s.broughtUp d) then s
    else
      let x := s.dom d
      (((s.setDom d { x with desc := [], bringup := false }).bringUp d calFailed calReuse).endDomains x.desc true))

/-- DOMAIN_OFF_DONE: the tokens are free again; a queued request takes effect. -/
def execDomainOffDone (d : Fin 36) (s : State) : Out :=
  .next (if s.get PWR_DOMAIN.STATE d ≠ 4 then s
    else
      let x := s.dom d
      (((s.setDomSt d 1).endDomains x.desc false).setDom d { x with desc := [] }).takeQueued d)

/-! The power governor (R321, R322). -/

/-- Why the weir is over: 1 envelope, 2 junction limit, 4 the tile-die cap of the LHN-1H. -/
def State.weirOver (s : State) (p t die0 die1 : Nat) : Nat :=
  b2n (decide (s.get PWR_WEIR.ENVELOPE_W < p)) + 2 * b2n (decide (s.get PWR_WEIR.TJ_LIMIT < t)) +
    4 * b2n (s.part == .lhn1H && (decide (164 < die0) || decide (164 < die1)))

/-- The next target of VDD_TILE. -/
def State.weirStep (s : State) (p t : Nat) (high : Bool) : Nat :=
  let v := s.get PWR_WEIR.VNOW_MV
  let vset := s.get PWR_WEIR.VSET_MV
  if high then max (v - 5) 650
  else if vset < v then max (v - 5) vset
  else if 100 * p < 98 * s.get PWR_WEIR.ENVELOPE_W ∧ t + 2 < s.get PWR_WEIR.TJ_LIMIT ∧ v < vset then min (v + 5) vset
  else v

/-- WEIR_UPDATE: every 10 µs, from power in W and junction temperature in °C. -/
def execWeirUpdate (watts tj die0 die1 : Nat) (s : State) : Out :=
  .next (
    let why := s.weirOver watts tj die0 die1
    let v := s.weirStep watts tj (why != 0)
    let s1 := (s.put PWR_WEIR.VNOW_MV v).put PWR_WEIR.P_W (min 2047 watts)
    let s2 : State := { s1 with
      tj := tj, overWhy := BitVec.ofNat 3 why
      overT := if why ≠ 0 ∧ v = 650 then s.overT + 1 else 0
      sched := { s1.sched with maxTj := max s1.sched.maxTj tj } }
    s2.when (why == 0) (fun s => s.put PWR_WEIR.AT_FLOOR 0))

/-- POWER_LIMIT: over for 1 ms at the floor, once for each such period. -/
def execPowerLimit (s : State) : Out :=
  .next (if s.overT < 101 ∨ s.bit PWR_WEIR.AT_FLOOR then s
    else (s.put PWR_WEIR.AT_FLOOR 1).raise0 40
      (detail [(0, s.get PWR_WEIR.P_W), (16, s.get PWR_WEIR.VNOW_MV), (26, s.overWhy.toNat)]))

/-! Idle (R323). -/

/-- Nothing keeps the XD core clock running; an engine with a command to take is busy. -/
def State.quiet (s : State) : Bool :=
  s.descs.isEmpty && s.fetches.isEmpty && s.ringsUp.all (fun r => s.announcedOn r == 0) && !s.schedBusy &&
    (List.range 16).all (fun n => (s.engine n).batch.isNone && !s.gthDue n)

/-- IDLE_ENTER. -/
def execIdleEnter (s : State) : Out :=
  .next (if s.get PWR_IDLE.DELAY_US ≠ 0 ∧ s.quiet = true then s.put PWR_IDLE.IDLE 1 else s)

/-- IDLE_EXIT: the clock runs again within 2 µs of a BAR0 access, an edge or an alarm, which do their own work before (log 67). -/
def execIdleExit (s : State) : Out := .next s.wakeXd

/-! Calibration age and Hjelzo lasers (R137, R138). -/

/-- CALIBRATION_AGE: an hour has passed. -/
def execCalibrationAge (s : State) : Out :=
  .next ((s.each ((List.range 6).filter (fun u => (s.calUnit u).gen != 0)) (fun s u =>
    s.setCalUnit u { s.calUnit u with ageH := (s.calUnit u).ageH + 1 })).showCal (s.get CFG_CAL.SOURCE))

/-- HZ_LASER_OK_CHANGE: an engine without its domain or without armed lasers has no light to lock. -/
def execHzLaserOkChange (e : Fin 2) (ok : Bool) (s : State) : Out :=
  .next (if !s.part.hz then s
    else s.noteHz (s.put HZE_STATUS.LASER_OK (b2n (ok && s.domOn (22 + e.val) && s.bit PWR_LASER.ARMED)) e))

end Sys2Proof.Machine
end

