-- ==== Sys2Proof/Machine/Laser.lean ====
section
/-! DEFINITION. The rows of laser safety (spec/15). Channels: A where `b` is false, B where it is true. -/

namespace Sys2Proof.Machine

/-- The SAFE bit of a channel, and the bit that records its cycle. -/
def chanSafe (b : Bool) : Fld := if b then PWR_LASER.B_SAFE else PWR_LASER.A_SAFE
def chanCycled (b : Bool) : Fld := if b then PWR_LASER.B_CYCLED else PWR_LASER.A_CYCLED
/-- The channels that are unsafe: 1 A, 2 B. -/
def State.unsafeChans (s : State) : Nat := b2n (!s.bit PWR_LASER.A_SAFE) + 2 * b2n (!s.bit PWR_LASER.B_SAFE)
/-- One channel is safe and the other is not. -/
def State.disagree (s : State) : Bool := s.bit PWR_LASER.A_SAFE != s.bit PWR_LASER.B_SAFE

/-- A disagreement begins to be timed, or ends (R342). -/
def State.timeDisagreement (s : State) : State :=
  if s.disagree then { s with discSince := some (s.discSince.getD s.clk) } else { s with discSince := none }

/-- The discrepancy fault latches. -/
def State.latchDiscrepancy (s : State) : State :=
  let s1 := ((s.put PWR_LASER.DISC_FAULT 1).put PWR_LASER.A_CYCLED 0).put PWR_LASER.B_CYCLED 0
  ({ s1 with laserWent := s.unsafeChans } : State).raise0 43 (detail [(0, s.unsafeChans)])

/-- LASER_OFF: a channel has been unsafe for 1 µs (R339). -/
def execLaserOff (b : Bool) (s : State) : Out :=
  .next (if !s.bit (chanSafe b) then s
    else
      let both := s.bit PWR_LASER.A_SAFE && s.bit PWR_LASER.B_SAFE
      let s1 := (s.put (chanSafe b) 0).put PWR_LASER.STABLE 0
      let s2 : State := { s1 with laserWent := if s.bit PWR_LASER.DISC_FAULT then setBits s.laserWent (b2n b) 1 1 else s.laserWent }
      let s3 := (s2.timeDisagreement.when both (fun s => s.bump PWR_LASER.SHUTDOWNS)).driversOff
      s3.raise0 42 (detail [(0, s3.unsafeChans)]))

/-- LASER_GLITCH: nothing else changes (R339). -/
def execLaserGlitch (_b : Bool) (s : State) : Out := .next (s.bump PWR_LASER.GLITCHES)

/-- LASER_SAFE_RETURN: a channel that went unsafe since the latch has completed its cycle; the fault clears when both have (R342). -/
def execLaserSafeReturn (b : Bool) (s : State) : Out :=
  .next (if s.bit (chanSafe b) then s
    else
      let s1 := (s.put (chanSafe b) 1).timeDisagreement
      let s2 := s1.when (s1.bit PWR_LASER.DISC_FAULT && s1.laserWent / 2 ^ b2n b % 2 == 1) (fun s => s.put (chanCycled b) 1)
      s2.when (s2.bit PWR_LASER.DISC_FAULT && s2.bit PWR_LASER.A_CYCLED && s2.bit PWR_LASER.B_CYCLED) (fun s =>
        { s.put PWR_LASER.DISC_FAULT 0 with laserWent := 0 }))

/-- LASER_STABLE: both channels have been safe for 100 ms (R341). -/
def execLaserStable (s : State) : Out := .next (if s.unsafeChans = 0 then s.put PWR_LASER.STABLE 1 else s)

/-- The disagreement in hand has lasted DISC_MS, measured to `early` clock periods before. -/
def State.discLasted (s : State) (early : Nat) : Bool :=
  (s.discSince.map (fun t => decide (t + s.get PWR_LASER.DISC_MS * 1562500 ≤ s.clk + early))).getD false
/-- A disagreement that has lasted DISC_MS latches, unless one is latched (R342). -/
def State.latchIfLasted (s : State) (early : Nat) : State :=
  if s.disagree && !s.bit PWR_LASER.DISC_FAULT && s.discLasted early then s.latchDiscrepancy else s

/-- LASER_DISCREPANCY: a disagreement has lasted DISC_MS, to 50 µs, which is 78,125 clock periods (R342). -/
def execLaserDiscrepancy (s : State) : Out := .next (s.latchIfLasted 78125)

/-- DISC_MS takes a value; a disagreement that has lasted it already latches at once (R342, R343). -/
def State.setDiscMs (s : State) (v : Nat) : State := (s.put PWR_LASER.DISC_MS (max 2 (min 200 v))).latchIfLasted 0

/-- DISC_MS_WRITE. -/
def execDiscMsWrite (p : Fin 4) (v : BitVec 8) (s : State) : Out :=
  .next (s.adminWrite p (fun s => s.unlessHeld .PWR_LASER (.discMs v.toNat) (fun s => s.setDiscMs v.toNat)))

/-- LASER_REARM: refused with reason 6 unless STABLE reads 1 and no discrepancy is latched (R341). -/
def execLaserRearm (d : Nat) (s : State) : Out :=
  .next (s.runDesc d 0x2E (fun _ s =>
    if s.bit PWR_LASER.STABLE && !s.bit PWR_LASER.DISC_FAULT then s.arm.endDesc d stSuccess 0 0
    else s.endDesc d stUnavailable 6 0))

end Sys2Proof.Machine
end

