-- ==== Sys2Proof/Machine/Mmu.lean ====
section
/-! DEFINITION. The rows of device memory management, faults and recovery (spec/13). -/

namespace Sys2Proof.Machine

/-! Table entries as MAP and UNMAP meet them: one that no walk may use is in their way no more than one that is not valid (R273,
R290). -/

/-- The entry at a table address: none where it is not valid, cannot be read, or has a form that its level does not allow. -/
def State.entry (s : State) (pol level a : Nat) : Option Nat :=
  let e := s.pte pol a
  if !s.tableOk pol a || !pteValid e || pteFmt e != 1 || (pteLeaf e && decide (level < 2)) || (!pteLeaf e && level == 4) then none
  else some e

/-- An entry written. Where its unit of HBM is poisoned the whole unit is written, its other entries not valid (log 41, DESIGN CHOICE). -/
def State.putEntry (s : State) (pol a e : Nat) : State :=
  if s.ptHbm pol && s.poisoned (a / 64) then
    ({ s with hbm := s.hbm.write (a / 64 * 64) (leBytes 64 0), poison := SMap.set 0 s.poison (a / 64) 0,
              hbmErr := SMap.set 0 s.hbmErr (a / 64) 0, cleared := SMap.set 0 s.cleared (a / 64) (s.clk + 1) } : State).setPte pol a e
  else s.setPte pol a e

/-- The entry of `level` for an address, from a table of level `lv` on: table pages are taken where there is none, larger pages on
the way are split (R274, R276). None: no table page is left. -/
def State.reachEntry (s : State) (pol va level : Nat) : Nat → Nat → Nat → Option (Nat × State)
  | 0, _, _ => none
  | fuel + 1, lv, table =>
    let a := table + 8 * tableIndex lv va
    if level ≤ lv then some (a, s)
    else match s.entry pol lv a with
      | some e =>
        if pteLeaf e then
          match s.splitLeaf pol level 3 lv a e with
          | some s' => s'.reachEntry pol va level fuel (lv + 1) (pteAddr (s'.pte pol a))
          | none => none
        else s.reachEntry pol va level fuel (lv + 1) (pteAddr e)
      | none =>
        match s.newTable pol with
        | some (t, s') => (s'.putEntry pol a (mkTable t)).reachEntry pol va level fuel (lv + 1) t
        | none => none

/-- From the level-1 table, which is taken first where the polder has none. -/
def State.reachPage (s : State) (pol va level : Nat) : Option (Nat × State) :=
  match s.ptRoot pol with
  | some r => s.reachEntry pol va level 4 1 r
  | none =>
    match s.newTable pol with
    | some (r, s') => s'.reachEntry pol va level 4 1 r
    | none => none

/-- The HBM frames that an entry of `level`, or the tables below it, map: first frame and number. -/
def State.framesUnder (s : State) (pol : Nat) : Nat → Nat → Nat → List (Nat × Nat)
  | 0, _, _ => []
  | fuel + 1, level, a =>
    match s.entry pol level a with
    | none => []
    | some e =>
      if pteLeaf e then (if pteTarget e = 0 then [(pteAddr e / 4096, pageSize level / 4096)] else [])
      else (List.range 512).flatMap (fun i => s.framesUnder pol fuel (level + 1) (pteAddr e + 8 * i))

/-- Mappings of frames given up; a frame that is not the polder's is none of them. -/
def State.unrefAll (s : State) (pol : Nat) (fs : List (Nat × Nat)) : State :=
  s.each (fs.flatMap (fun p => (List.range p.2).map (p.1 + ·))) (fun s f => s.when (s.ownsFrame pol f) (fun s => s.unrefRun f 1))

/-- Embanked pages of a polder that meet [lo, hi). -/
def State.lockedIn (s : State) (pol lo hi : Nat) : List Locked :=
  s.locked.filter (fun l => l.pol == pol && decide (l.va < hi) && decide (lo < l.va + l.size))

/-! MAP (R272, R275, R276, R278). -/

/-- What a MAP asks for. -/
structure MapArgs where
  level : Nat
  va : Nat
  pages : Nat
  target : Nat
  addr : Nat
  rd : Bool
  wr : Bool
  rank : Nat
  deriving DecidableEq, Repr

/-- The operands of a MAP (R260, R272). Bits [63:48] of an address of a device-virtual space, the polder's or that of another package,
are ignored (R271). -/
def Desc.mapArgs (x : Desc) : MapArgs :=
  let target := if 3 < x.field 0x30 1 then 0 else x.field 0x30 1
  let code := if 2 < x.field 0x32 1 then 0 else x.field 0x32 1
  let level := 4 - (if target = 3 then min 1 code else code)
  let size := pageSize level
  { level := level, va := x.field 0x18 8 % 2 ^ 48 / size * size, pages := (x.field 0x20 8 + size - 1) / size, target := target,
    addr := (if target = 0 ∨ target = 2 then x.field 0x28 8 % 2 ^ 48 else x.field 0x28 8) / size * size, rd := x.field 0x31 1 % 2 == 1, wr := x.field 0x31 1 / 2 % 2 == 1,
    rank := x.field 0x34 4 % 32768 }

/-- The address of page `i`, and its address at the target. -/
def MapArgs.pageVa (m : MapArgs) (i : Nat) : Nat := (m.va + i * pageSize m.level) % 2 ^ 48
def MapArgs.pageAddr (m : MapArgs) (i : Nat) : Nat := m.addr + i * pageSize m.level
/-- Frames come from the quota. -/
def MapArgs.fresh (m : MapArgs) : Bool := m.target == 0 && m.addr == 0

/-- Page `i` is not mapped: an embanked page is in its place, or its part of tile store does not exist. -/
def State.mapSkips (s : State) (pol : Nat) (m : MapArgs) (i : Nat) : Bool :=
  (m.target == 3 && decide (0x30000000 ≤ m.pageAddr i)) ||
    !(s.lockedIn pol (m.pageVa i) (m.pageVa i + pageSize m.level)).isEmpty

/-- The bytes that one table of a level covers. -/
def tableSpan (level : Nat) : Nat := pageSize level * 512

/-- Tables that a page of `level` at an address lacks, by level and place: those below where its walk ends, or those of the split of a
larger page. -/
def State.tablesFor (s : State) (pol va level : Nat) : List (Nat × Nat) :=
  let below (l : Nat) : List (Nat × Nat) := (List.range (level - l)).map (fun i => (l + 1 + i, va / tableSpan (l + 1 + i)))
  let rec go (fuel lv table : Nat) : List (Nat × Nat) :=
    match fuel with
    | 0 => []
    | fuel + 1 =>
      if level ≤ lv then []
      else match s.entry pol lv (table + 8 * tableIndex lv va) with
        | none => below lv
        | some e =>
          if pteLeaf e then
            (List.range (level - lv)).flatMap (fun i =>
              (List.range (512 ^ i)).map (fun j => (lv + 1 + i, va / pageSize lv * 512 ^ i + j)))
          else go fuel (lv + 1) (pteAddr e)
  match s.ptRoot pol with
  | none => (1, 0) :: below 1
  | some r => go 4 1 r

/-- Table pages that the pages of a list lack. -/
def State.tablesShort (s : State) (pol : Nat) (m : MapArgs) (is_ : List Nat) : Nat :=
  (is_.flatMap (fun i => s.tablesFor pol (m.pageVa i) m.level)).eraseDups.length

/-- Table pages the area has left. -/
def State.tablesLeft (s : State) (pol : Nat) : Nat := s.get MMU_PT_CFG.PAGES pol - s.get MMU_PT_CFG.USED_PT pol

/-- The first frame behind an address of the polder that is mapped to HBM, for an alias; else the reason of the fault (R275). -/
def State.aliasFrame (s : State) (pol va : Nat) : Except Nat Nat :=
  match s.lookup pol va with
  | .error r => .error r
  | .ok x => if x.target = 0 then .ok (x.addr / 4096) else .error 2

/-- The frames of an alias page of `n` frames: they must lie together and aligned as the page does (log 42, DEDUCED). -/
def State.aliasRun (s : State) (pol va n : Nat) : Except (Nat × Nat) (Option Nat) :=
  (List.range n).foldl (fun (o : Except (Nat × Nat) (Option Nat)) i =>
    match o with
    | .error e => .error e
    | .ok m =>
      match s.aliasFrame pol (va + 4096 * i) with
      | .error r => .error (r, (va + 4096 * i) % 2 ^ 48 / 4096 * 4096)
      | .ok f =>
        if i = 0 then .ok (if f % n = 0 then some f else none)
        else .ok (match m with
          | some g => if f = g + i then some g else none
          | none => none)) (.ok none)

/-- How the work on one page ends: changed, a fault at an address, or the quota, with the DETAIL. -/
inductive PageRes where
  | done (s : State)
  | fault (reason va : Nat)
  | quota (short : Nat)

/-- The translation of a page comes into force: the entry is written, and mappings it replaces are given up (R276, R277). -/
def State.setPage (s : State) (pol : Nat) (m : MapArgs) (i addr : Nat) : Option State :=
  (s.reachPage pol (m.pageVa i) m.level).map (fun p =>
    let old := p.2.framesUnder pol (5 - m.level) m.level p.1
    let s1 := p.2.putEntry pol p.1 (mkLeaf m.rd m.wr false m.target addr m.rank)
    (s1.when (m.target == 0) (fun s => s.refRun (addr / 4096) (pageSize m.level / 4096))).unrefAll pol old)

/-- Page `i` of a MAP; `rest` are the pages it still has to map. -/
def State.mapPage (s : State) (pol : Nat) (m : MapArgs) (i : Nat) (rest : List Nat) : PageRes :=
  let n := pageSize m.level / 4096
  let noTable := PageRes.quota (s.tablesShort pol m rest - s.tablesLeft pol)
  let put (s1 : State) (addr : Nat) : PageRes :=
    match s1.setPage pol m i addr with
    | some s2 => .done s2
    | none => .quota 0
  if s.tablesLeft pol < s.tablesShort pol m [i] then noTable
  else if m.fresh then
    match s.allocRun pol n with
    | some (f, s1) => put s1 (4096 * f)
    | none => .quota 0
  else if m.target = 0 then
    match s.aliasRun pol (m.pageAddr i) n with
    | .error (r, va) => .fault r va
    | .ok none => .quota 0
    | .ok (some f) => put s (4096 * f)
  else put s (m.pageAddr i)

/-- What the pages of a list need from the quota: frames, and table pages taken from it (R278). -/
def State.mapNeed (s : State) (pol : Nat) (m : MapArgs) (todo : List Nat) : Nat :=
  (if m.fresh then todo.length * (pageSize m.level / 4096) else 0) + (if s.ptHbm pol then s.tablesShort pol m todo else 0)

/-- The pages of a MAP in ascending order. `prog` is the page it resumes from, `done` the pages changed. What the pages from there on need
stays claimed while it is suspended (R278). -/
def State.mapPages (s : State) (x : Desc) (m : MapArgs) (done : Nat) : List Nat → State
  | [] => s.endDesc x.id stSuccess 0 done
  | i :: rest =>
    if s.mapSkips x.pol m i then s.mapPages x m done rest
    else match s.mapPage x.pol m i ((i :: rest).filter (fun j => !s.mapSkips x.pol m j)) with
      | .done s1 => s1.mapPages x m (done + 1) rest
      | .quota k => s.endDesc x.id stQuota k done
      | .fault r va =>
        let left := s.mapNeed x.pol m ((i :: rest).filter (fun j => !s.mapSkips x.pol m j))
        (s.onDesc x.id (fun y => { y with prog := i, claim := left })).descFault x 1 r va 1 done

/-- An access to a page of another package, through a translation of [lo, lo + n), has not finished (R275, R277). -/
def State.inUse (s : State) (pol lo n : Nat) : Bool :=
  s.remotes.any (fun r => r.pol == pol && decide ((r.lva % 2 ^ 48 + 2 ^ 48 - lo) % 2 ^ 48 < n))

/-- MAP: the pages it needs from the quota are claimed first; if they are short, nothing is mapped (R278). It waits for accesses that use
the translations it replaces (R277). A MAP that goes on takes its claim up again. -/
def execMap (d : Nat) (s : State) : Out :=
  .next (s.runDesc d 0x40 (fun x s =>
    let m := x.mapArgs
    if s.tablesWait x.pol || s.inUse x.pol m.va (m.pages * pageSize m.level) then s
    else
      let s := s.onDesc d (fun y => { y with claim := 0 })
      let all := (List.range m.pages).drop x.prog
      let need := s.mapNeed x.pol m (all.filter (fun i => !s.mapSkips x.pol m i))
      if s.quotaFree x.pol < need then s.endDesc d stQuota (need - s.quotaFree x.pol) x.done
      else s.mapPages x m x.done all))

/-! UNMAP (R276–R278). -/

/-- The range of an UNMAP, EMBANK or RELEASE, in 4 KiB pages. -/
def Desc.range (x : Desc) : Nat × Nat :=
  let lo := x.field 0x18 8 % 2 ^ 48 / 4096 * 4096
  (lo, min (2 ^ 48) (lo + (x.field 0x20 8 + 4095) / 4096 * 4096))

/-- Where the walk to an address ends for MAP and UNMAP: at nothing, with the end of what is not mapped, or at a page: its level, the
address of its entry, the entry. -/
def State.findPage (s : State) (pol va : Nat) : Nat → Nat → Nat → Except Nat (Nat × Nat × Nat)
  | 0, _, _ => .error ((va / 4096 + 1) * 4096)
  | fuel + 1, level, table =>
    let a := table + 8 * tableIndex level va
    match s.entry pol level a with
    | none => .error ((va / pageSize level + 1) * pageSize level)
    | some e => if pteLeaf e then .ok (level, a, e) else s.findPage pol va fuel (level + 1) (pteAddr e)
def State.pageAt (s : State) (pol va : Nat) : Except Nat (Nat × Nat × Nat) :=
  match s.ptRoot pol with
  | none => .error (2 ^ 48)
  | some r => s.findPage pol va 4 1 r

/-- The translations of [v, hi) are removed; a larger page that the range covers in part is split first. -/
def State.unmapFrom (s : State) (x : Desc) (lo hi : Nat) : Nat → Nat → Nat → State
  | 0, _, done => s.endDesc x.id stSuccess 0 done
  | fuel + 1, v, done =>
    if hi ≤ v then s.endDesc x.id stSuccess 0 done
    else match s.lockedAt x.pol v with
      | some l => s.unmapFrom x lo hi fuel (l.va + l.size) done
      | none =>
        match s.pageAt x.pol v with
        | .error nxt => s.unmapFrom x lo hi fuel nxt done
        | .ok (level, a, e) =>
          let size := pageSize level
          let base := v / size * size
          if lo ≤ base ∧ base + size ≤ hi then
            let s1 := (s.putEntry x.pol a 0).unrefAll x.pol (if pteTarget e = 0 then [(pteAddr e / 4096, size / 4096)] else [])
            s1.unmapFrom x lo hi fuel (base + size) (done + 1)
          else
            match s.splitLeaf x.pol 4 3 level a e with
            | some s1 => s1.unmapFrom x lo hi fuel v done
            | none =>
              let need := if level = 3 then 1 else 513
              let left := if s.ptHbm x.pol then min (s.tablesLeft x.pol) (s.quotaFree x.pol) else s.tablesLeft x.pol
              s.endDesc x.id stQuota (need - left) done

/-- UNMAP: it waits for accesses that use the translations it removes (R277). -/
def execUnmap (d : Nat) (s : State) : Out :=
  .next (s.runDesc d 0x41 (fun x s =>
    if s.tablesWait x.pol || s.inUse x.pol x.range.1 (x.range.2 - x.range.1) then s
    else
      let (lo, hi) := x.range
      s.unmapFrom x lo hi (2 * ((hi - lo) / 4096) + 2) lo x.done))

/-! EMBANK, RELEASE (R279). -/

/-- Pages of [v, hi) that an EMBANK would still lock, up to the first that is not mapped. -/
def State.lockShort (s : State) (pol hi : Nat) : Nat → Nat → Nat
  | 0, _ => 0
  | fuel + 1, v =>
    if hi ≤ v then 0
    else match s.lockedAt pol v with
      | some l => s.lockShort pol hi fuel (l.va + l.size)
      | none =>
        match s.walk pol v with
        | .leaf level _ e =>
          b2n (decide (pteTarget e ≤ 1)) + s.lockShort pol hi fuel ((v / pageSize level + 1) * pageSize level)
        | _ => 0

/-- Every page of [v, hi) whose target is HBM or host memory is embanked. `done` counts them. -/
def State.embankFrom (s : State) (x : Desc) (hi : Nat) : Nat → Nat → Nat → State
  | 0, _, done => s.endDesc x.id stSuccess 0 done
  | fuel + 1, v, done =>
    if hi ≤ v then s.endDesc x.id stSuccess 0 done
    else match s.lockedAt x.pol v with
      | some l => s.embankFrom x hi fuel (l.va + l.size) (done + 1)
      | none =>
        let fault (r : Nat) : State := (s.onDesc x.id (fun y => { y with prog := v })).descFault x 1 r (v / 4096 * 4096) 1 done
        match s.walk x.pol v with
        | .hole _ _ => fault 1
        | .bad => fault 3
        | .leaf level a e =>
          let size := pageSize level
          let base := v / size * size
          if 1 < pteTarget e then s.embankFrom x hi fuel (base + size) done
          else if pteTarget e = 0 ∧ s.ownsLeaf x.pol level e = false then fault 3
          else if 65536 ≤ s.locked.length then s.endDesc x.id stQuota (s.lockShort x.pol hi fuel v) done
          else
            let l : Locked := { pol := x.pol, va := base, size := size, target := pteTarget e, addr := pteAddr e,
                                rd := pteRead e, wr := pteWrite e }
            (({ s with locked := s.locked ++ [l] } : State).setPte x.pol a (e / 32 * 32 + e % 16 + 16)).embankFrom x hi fuel
              (base + size) (done + 1)

/-- EMBANK. -/
def execEmbank (d : Nat) (s : State) : Out :=
  .next (s.runDesc d 0x42 (fun x s =>
    if s.tablesWait x.pol then s
    else
      let (lo, hi) := x.range
      s.embankFrom x hi ((hi - lo) / 4096 + 1) (if x.done = 0 ∧ x.prog = 0 then lo else x.prog) x.done))

/-- A RELEASE touches a page of a region that the resident schedule lists, while that schedule needs it. -/
def State.releaseBarred (s : State) (pol lo hi : Nat) : Bool :=
  match s.sched.image with
  | none => false
  | some im =>
    im.owner == pol && [2, 3, 4, 5].contains s.schedSt && im.regions.any (fun g =>
      let b := g.base % 2 ^ 48
      (decide (b < hi) && decide (lo < b + g.len)) ||
        (s.lockedIn pol lo hi).any (fun l => decide (b < l.va + l.size) && decide (l.va < b + g.len)))

/-- EMBANKED is cleared in the entries of [v, hi): one, or several where a part of the page has moved (R285). -/
def State.clearEmb (s : State) (pol hi : Nat) : Nat → Nat → State
  | 0, _ => s
  | fuel + 1, v =>
    if hi ≤ v then s
    else match s.pageAt pol v with
      | .ok (level, a, e) =>
        (s.when (pteEmb e) (fun s => s.setPte pol a (e - 16))).clearEmb pol hi fuel ((v / pageSize level + 1) * pageSize level)
      | .error next => s.clearEmb pol hi fuel next

/-- A page is no longer embanked. -/
def State.unlock (s : State) (l : Locked) : State :=
  ({ s with locked := s.locked.erase l } : State).clearEmb l.pol (l.va + l.size) (if l.moved.isEmpty then 1 else l.size / 4096 + 1) l.va

/-- RELEASE. -/
def execRelease (d : Nat) (s : State) : Out :=
  .next (s.runDesc d 0x43 (fun x s =>
    if s.tablesWait x.pol then s
    else
      let (lo, hi) := x.range
      if s.releaseBarred x.pol lo hi then
        s.endDesc d stSchedState (s.schedSt + 256 * b2n ((s.sched.image.map (fun im => im.owner != x.pol)).getD false)) 0
      else
        let ls := s.lockedIn x.pol lo hi
        (s.each ls (fun s l => s.unlock l)).endDesc d stSuccess 0 ls.length))

/-! Answers to faults (R282). -/

/-- The ACTION of a FAULT_REPLY. -/
def Desc.replyAbort (x : Desc) : Bool := x.field 0x1C 1 == 1

/-- The fault a FAULT_REPLY names, if it is outstanding. -/
def State.faultNamed (s : State) (x : Desc) : Option FaultRec :=
  s.faults.find? (fun f => f.pol == x.pol && f.slot.isSome && f.id == x.field 0x18 4)

/-- A FAULT_REPLY of an action; one that names no outstanding fault has no effect. -/
def State.faultReply (s : State) (d : Nat) (abort : Bool) (g : State → FaultRec → State) : State :=
  s.runDesc d 0x44 (fun x s =>
    if x.replyAbort ≠ abort then s
    else (match s.faultNamed x with
      | some f => g s f
      | none => s).endDesc d stSuccess 0 0)

def execFaultReplyRetry (d : Nat) (s : State) : Out := .next (s.faultReply d false (fun s f => s.retryFault f))
def execFaultReplyAbort (d : Nat) (s : State) : Out := .next (s.faultReply d true (fun s f => s.abortFault f))

/-- FAULT_TIMEOUT: a fault unanswered for TIMEOUT_MS, where that is not 0, is aborted. -/
def execFaultTimeout (pol : Fin 8) (slot : Nat) (s : State) : Out :=
  .next (match s.faults.find? (fun f => f.pol == pol.val && f.slot == some slot) with
    | some f => if s.get MMU_FQ_CFG.TIMEOUT_MS pol = 0 then s else s.abortFault f
    | none => s)

/-! Errors of memory (R229, R284, R285). -/

/-- Opcodes whose work reads memory. -/
def readsMemory (op : Nat) : Bool := [0x02, 0x10, 0x18, 0x19, 0x1A, 0x20, 0x2B, 0x2D, 0x30].contains op

/-- Opcodes whose work goes through device-virtual addresses, so that it may read tables in host memory. -/
def walksTables (op : Nat) : Bool :=
  readsMemory op || [0x03, 0x2A, 0x2C, 0x38, 0x39, 0x40, 0x41, 0x42, 0x43].contains op

/-- The address lies in a page of host memory that the polder may read. -/
def State.inHost (s : State) (pol addr : Nat) : Bool :=
  match s.xlat pol addr false with
  | .ok x => x.target == 1
  | .error _ => false

/-- A table entry that descriptor work reads in host memory does not come: PT_ERROR at the address, and the work suspends (R290). -/
def State.tableLost (s : State) (x : Desc) (addr : Nat) : State :=
  (s.each (s.enginesOf x.id) (fun s n => s.setEngine n { s.engine n with trk := [] })).descFault x
    (if x.opcode = 0x18 ∨ x.opcode = 0x19 ∨ x.opcode = 0x1A then 4 else 1) 3 (addr % 2 ^ 48 / 4096 * 4096) 1 (s.progress x)

/-- HOST_READ_ERROR: a poisoned or timed-out read of host memory, for the work at a device-virtual address. Where the address lies in a
page of host memory the read was one of data: it ends its descriptor with the address, and one of descriptors disables its ring (R229,
R263, R270). Else, with the tables in host memory, it was one of a table: PT_ERROR (R290; log 234, DEDUCED). -/
def execHostReadError (d : Option Nat) (r : Fin 8192) (addr : Nat) (s : State) : Out :=
  .next (match d with
    | some d =>
      (match s.desc d with
       | some x =>
         if x.active && readsMemory x.opcode && s.inHost x.pol addr then s.endDesc d stHostMemError addr (s.progress x)
         else if x.active && walksTables x.opcode && !s.ptHbm x.pol then s.tableLost x addr
         else s
       | none => s)
    | none =>
      match s.ringOwner r with
      | some pol =>
        if !(s.fetches.any (fun f => f.ring == r.val)) || s.fetchBlocked r then s
        else if s.inHost pol addr then s.ringAbort r 2 none
        else if !s.ptHbm pol then
          s.ringFault r pol 2 3 1 (addr % 2 ^ 48 / 4096 * 4096) (s.get RNG_STATE.HEAD r % s.ringSize r) none
        else s
      | none => s)

/-- HBM_PATROL: the unit at `pa` has `bad` wrong symbols in the worse of its two words of 32 bytes. The patrol scrubber corrects one, and
makes the unit poisoned for more; while it is off, they stay for the next read to meet (R284; log 230, DESIGN CHOICE). -/
def execHbmPatrol (pa bad : Nat) (s : State) : Out :=
  .next (
    let u := pa / 64
    let n := max bad (SMap.get 0 s.hbmErr u)
    if decide (s.part.hbmGib * 2 ^ 30 ≤ pa) || n == 0 then s
    else if !s.bit MMU_HBM_SCRUB.EN then { s with hbmErr := SMap.set 0 s.hbmErr u n }
    else if n = 1 then s.correctUnit u
    else (s.poisonUnit u).when (!s.poisoned u) (fun s => s.raise0 30 (detail [(0, 64 * u % 2 ^ 48), (48, (Config.hbmStack (64 * u)).toNat)])))

/-! Books (R291). -/

/-- QUOTA_A_READ: the read latches the MMU_QUOTA_B that belongs with it. -/
def execQuotaARead (p : Fin 4) (pol : Fin 8) (s : State) : Out := .next (s.portRead p (0x100000 + 0x10000 * pol + 0x6020))

/-! Pages of other packages (R275). -/

/-- Every byte of an access from another package lies in embanked pages that allow it. -/
def State.mayServe (s : State) (q : Served) : Bool :=
  s.isOpen q.pol && (List.range (q.wr.elim q.len List.length)).all (fun i =>
    match s.lockedAt q.pol ((q.va + i) % 2 ^ 48) with
    | some l => if q.wr.isSome then l.wr else l.rd
    | none => false)

/-- The answer to an access of another package (log 27, DESIGN CHOICE): 0 with the data, 1 denied, 2 poison. -/
def State.answerRemote (s : State) (q : Served) (st : Nat) (bs : List Byte) : State :=
  s.sendFree q.rank (BitVec.ofNat 32 q.tag) (leBytes 1 st ++ bs)

/-- An access of another package to this one is served or denied, and answered; one to host memory waits while the port issues no request
(R229, R275). -/
def State.serveRemote (s : State) (q : Served) : State :=
  if !s.mayServe q then s.answerRemote q 1 []
  else match q.wr with
    | none =>
      let s1 := s.demand q.pol q.va q.len
      match s1.vread q.pol q.va q.len with
      | .ok bs => s1.answerRemote q 0 bs
      | .error (.hbm _ pa) => (s1.meetUnit (pa / 64)).answerRemote q 2 []
      | .error .wait => { s1 with served := s1.served ++ [q] }
      | .error _ => s1.answerRemote q 1 []
    | some bs =>
      match s.vwriteAll q.pol q.va bs with
      | .ok s' => s'.answerRemote q 0 []
      | .error (.hbm _ _) => s.answerRemote q 2 []
      | .error .wait => { s with served := s.served ++ [q] }
      | .error _ => s.answerRemote q 1 []

/-- Accesses that waited for a port are taken again. -/
def State.serveWaiting (s : State) : State := ({ s with served := [] } : State).each s.served (fun s q => s.serveRemote q)

/-- REMOTE_ACCESS_REQUEST. -/
def execRemoteAccessRequest (a : Via) (rank tag : Nat) (pol : Fin 8) (va len : Nat) (wr : Option (List Byte)) (s : State) : Out :=
  .next (s.onMsg a 1 2 (flitsOf (12 + (wr.getD []).length)) rank (fun s =>
    s.serveRemote { rank := rank, tag := tag, pol := pol, va := va, len := len, wr := wr }))

/-- REMOTE_ACCESS_TIMEOUT: no answer within 100 ms is REMOTE_UNREACHABLE. -/
def execRemoteAccessTimeout (tag : Nat) (s : State) : Out :=
  .next (match s.remotes.find? (fun r => r.tag == tag && r.ans.isNone) with
    | some r => s.remFail r (some 5)
    | none => s)

end Sys2Proof.Machine
end

