-- ==== Sys2Proof/Machine/Rings.lean ====
section
/-! DEFINITION. The rows of rings, sluices and descriptors (spec/12) that the ring engine and the copy engine carry out. -/

namespace Sys2Proof.Machine

/-! Set-up (R246, R269). -/

/-- A write to RNG_CTRL of the ring that RNG_SEL names, where the polder owns it. -/
def State.ctrlWrite (s : State) (p n : Nat) (g : Nat → State → State) : State :=
  s.polderWrite p n (fun s => let r := s.get RNG_SEL.RING n; s.when (s.ownsRing n r) (g r))

/-- A write of 1 to ENABLE: at once, queued while a disable is in progress, nothing on an enabled ring. -/
def execEnable (p : Fin 4) (pol : Fin 8) (s : State) : Out :=
  .next (s.ctrlWrite p pol (fun r s =>
    if s.bit RNG_CTRL.BUSY r then s.put RNG_CTRL.QUEUED 1 r
    else if s.bit RNG_CTRL.ENABLED r then s
    else s.enableRing r))

/-- A write of 1 to DISABLE. -/
def execDisable (p : Fin 4) (pol : Fin 8) (s : State) : Out := .next (s.ctrlWrite p pol (fun r s => s.disableRing r false))

/-! Sluices (R248–R250). -/

/-- A new counter value is taken where it lies at most `room` ahead of the old one. -/
def advanceTo (old new room : Nat) : Nat := if (new + 65536 - old) % 65536 ≤ room then new else old

/-- A sluice is applied to a ring (R249). -/
def State.applySluice (s : State) (r : Nat) (v : BitVec 64) : State :=
  let tail := s.get RNG_STATE.TAIL r
  let s1 := s.put RNG_STATE.TAIL (advanceTo tail (bitsOf v.toNat 0 16) (s.ringSize r - s.announcedOn r)) r
  let old := s.get RNG_STATE.CQ_HEAD r
  s1.when (bitsOf v.toNat 63 1 == 1) (fun s =>
    s.put RNG_STATE.CQ_HEAD (advanceTo old (bitsOf v.toNat 32 16) ((s.get RNG_STATE.CQ_TAIL r + 65536 - old) % 65536)) r)

/-- A write of `size` bytes to a doorbell page. -/
def execSluice (p : Fin 4) (addr size : Nat) (v : BitVec 64) (s : State) : Out :=
  .next (
    if addr < 0x180000 ∨ 0x200000 ≤ addr then s
    else
      let off := addr - 0x180000
      let r := 64 * (off / 4096) + off % 4096 / 64
      if !((s.ringOwner r).map (fun n => s.openOn n p)).getD false || size != 8 || off % 64 != 0 ||
          !s.bit RNG_CTRL.ENABLED r || s.bit RNG_CTRL.BUSY r then s.drop p
      else s.applySluice r v)

/-! Fetch (R253, R254). -/

/-- A ring's place in the rotation: by polder, then by ring. -/
def State.ringKey (s : State) (r : Nat) : Nat := (s.ringOwner r).getD 0 * 8192 + r

/-- The ring whose key is smallest. -/
def State.firstRing (s : State) (rs : List Nat) : Option Nat :=
  rs.foldl (fun (m : Option Nat) r =>
    match m with
    | some k => if s.ringKey r < s.ringKey k then some r else m
    | none => some r) none

/-- The eligible ring of the highest priority that comes next in the rotation. -/
def State.nextGrant (s : State) : Option Nat :=
  let es := s.ringsUp.filter s.eligible
  let top := es.foldl (fun m r => min m (s.get RNG_CFG.PRIO r)) 3
  let cs := es.filter (fun r => s.get RNG_CFG.PRIO r == top)
  (s.firstRing (cs.filter (fun r => decide (s.ringPtr ≤ s.ringKey r)))).or (s.firstRing cs)

/-- What one read fetches. -/
def State.fetchCount (s : State) (r : Nat) : Nat :=
  min (min 8 (s.ringSize r - s.get RNG_STATE.HEAD r % s.ringSize r))
    (min (s.announcedOn r) (min (s.recordRoom r) (8 - s.waitingOn r)))

/-- One grant of the ring engine; none during a management pause (R270), nor while the XD core clock is stopped (R323) or RESET_N is low
(R381). -/
def execRingGrant (s : State) : Out :=
  .next (if s.bit FWU_STATUS.PAUSED || s.bit PWR_IDLE.IDLE || !s.pins.resetN then s
    else match s.nextGrant with
      | none => s
      | some r => { s with ringPtr := s.ringKey r + 1,
                           fetches := s.fetches ++ [{ ring := r, pos := s.get RNG_STATE.HEAD r, n := s.fetchCount r }] })

/-- A descriptor enters the ring engine; a cancel that waited for its slot compares USER (R267). -/
def State.takeDesc (s : State) (r pol pos : Nat) (raw : List Byte) : State :=
  let x : Desc := { id := s.nextDesc, ring := r, pol := pol, pos := pos, raw := raw, cancelled := !s.bit RNG_CTRL.ENABLED r }
  let mine := s.cancels.filter (fun c => c.ring == r && c.pos == pos)
  let s1 : State := { s with nextDesc := s.nextDesc + 1, cancels := s.cancels.filter (fun c => !(c.ring == r && c.pos == pos)) }
  let s2 := { s1 with descs := s1.descs ++ [x] }
  s2.each mine (fun s c =>
    if c.user = x.user then (s.onDesc x.id (fun y => { y with cancelled := true })).endDesc c.by_ stSuccess 1 0
    else s.cancelFetched c.by_ r (pos % s.ringSize r) c.user)

/-- The fetch read of a ring returns, or meets an error (R251, R254, R269, R270). -/
def execDescriptorFetched (r : Fin 8192) (s : State) : Out :=
  .next (match s.fetches.find? (fun f => f.ring == r.val), s.ringOwner r with
    | some f, some pol =>
      if s.fetchBlocked r then s
      else
        let slot := f.pos % s.ringSize r
        let a := s.get RNG_SQ_BASE.ADDR r * 64 + 64 * slot
        let s0 := s.demand pol a (64 * f.n)
        match s0.vread pol a (64 * f.n) with
        | .error e => s0.ringErr r pol 2 1 slot none e
        | .ok bs =>
          let s1 : State := { s0 with fetches := s0.fetches.filter (fun g => g.ring != r.val)
                                      remotes := s0.remotes.filter (fun q => !(q.ring == r.val && q.requester == 2)) }
          let s2 := s1.put RNG_STATE.HEAD (f.pos + f.n) r
          (s2.each (List.range f.n) (fun s i =>
            s.takeDesc r pol ((f.pos + i) % 65536) ((bs.drop (64 * i)).take 64))).ringIdle r
    | _, _ => s)

/-! Completion (R262, R265). -/

/-- The 32 bytes of a completion record. -/
def State.recordBytes (s : State) (x : Desc) : List Byte :=
  let tail := s.get RNG_STATE.CQ_TAIL x.ring
  leBytes 8 x.user ++ leBytes 1 x.status ++ leBytes 1 (1 + 128 * b2n (tail / s.ringSize x.ring % 2 == 0)) ++
  leBytes 2 (s.slotOf x) ++ leBytes 4 (s.shortStamp (s.stampBase x.pol)) ++ leBytes 6 x.detail ++
  leBytes 2 (s.get RNG_STATE.HEAD x.ring) ++ leBytes 8 x.done

/-- The signal of a descriptor that ended with SUCCESS is applied, once. -/
def State.applySignal (s : State) (x : Desc) : State :=
  let s1 := s.onDesc x.id (fun y => { y with signalled := true })
  if x.signalled ∨ x.status ≠ stSuccess then s1
  else match s.signalObj x with
    | some o => s1.addObj o 1
    | none => s1

/-- Records of a ring are written in the order in which its descriptors ended. -/
def State.recordTurn (s : State) (x : Desc) : Bool :=
  !(s.descs.any (fun y => y.ring == x.ring && y.phase == .ended && decide (y.endAt < x.endAt))) && !s.recordBlocked x.ring

/-- The record of a descriptor is written, then its event is raised; or the write meets an error (R270). -/
def State.writeRecord (s : State) (x : Desc) : State :=
  let r := x.ring
  let tail := s.get RNG_STATE.CQ_TAIL r
  match s.vwriteAll x.pol (s.get RNG_CQ_BASE.ADDR r * 32 + 32 * (tail % s.ringSize r)) (s.recordBytes x) with
  | .error e => s.ringErr r x.pol 3 2 (s.slotOf x) (some x.id) e
  | .ok s1 =>
    let s2 := (s1.put RNG_STATE.CQ_TAIL (tail + 1) r).bump RNG_STAT.COMPLETED r
    (s2.when x.event (fun s => s.raise (512 * x.pol) (detail [(0, r), (16, s.slotOf x)]))).dropDesc x

/-- DESCRIPTOR_COMPLETE: signal, record, event. No record is written during a management pause (R270), nor to a port that was
reset (R237, R239). -/
def execDescriptorComplete (d : Nat) (s : State) : Out :=
  .next (match s.desc d with
    | none => s
    | some x =>
      if x.phase ≠ .ended then s
      else
        let s1 := s.applySignal x
        if s1.mute.getD x.pol false ∨ 8192 ≤ x.ring then s1.dropDesc x
        else if s1.bit FWU_STATUS.PAUSED || !s1.recordTurn x then s1
        else s1.writeRecord x)

/-! NOP, COPY, FILL (R257, R260, R283). -/

/-- NOP completes at issue. -/
def execNopDescriptor (d : Nat) (s : State) : Out := .next (s.runDesc d 0x01 (fun _ s => s.endDesc d stSuccess 0 0))

/-- The descriptor goes to the copy engine. -/
def Desc.isCopy (x : Desc) : Bool := x.opcode == 0x02 || x.opcode == 0x03
/-- Bytes and destination of a COPY or FILL. -/
def Desc.moveLen (x : Desc) : Nat := if x.opcode = 0x02 then x.length 0x28 else x.length 0x20
def Desc.moveDst (x : Desc) : Nat := if x.opcode = 0x02 then x.field 0x20 8 else x.field 0x18 8

/-- What a rotating pointer chooses from a list of keys: the first from it on, else the first of all. -/
def nextFrom (p : Nat) (ks : List Nat) : Option Nat := ((ks.filter (fun k => decide (p ≤ k))).min?).or ks.min?

/-- Priority of a descriptor's ring. -/
def State.prioOf (s : State) (x : Desc) : Nat := s.get RNG_CFG.PRIO x.ring

/-- Copies of a priority that wait to start; one of no bytes needs no place. -/
def State.copyQueue (s : State) (p : Nat) : List Desc :=
  s.descs.filter (fun y => y.isCopy && y.phase == .issued && s.prioOf y == p && y.moveLen != 0)

/-- The descriptor is the next to start of its priority: rings of one priority take turns, and those of one ring start in the order in
which they issued (R255; log 233, DEDUCED). -/
def State.copyTurn (s : State) (x : Desc) : Bool :=
  let q := s.copyQueue (s.prioOf x)
  match nextFrom (SMap.get 0 s.copyPtr (s.prioOf x)) (q.map (fun y => s.ringKey y.ring)) with
  | some k => (q.find? (fun y => s.ringKey y.ring == k)).map (·.id) == some x.id
  | none => false

/-- The copy engine has a place for the descriptor: at most 64 are active, higher priorities start first, and equal ones take turns
(R255). -/
def State.copyRoom (s : State) (x : Desc) : Bool :=
  decide ((s.descs.filter (fun y => y.isCopy && y.phase == .running)).length < 64) &&
    (List.range (s.prioOf x)).all (fun p => (s.copyQueue p).isEmpty) && s.copyTurn x

/-- A COPY or FILL starts; one of no bytes is done. -/
def State.copyStart (s : State) (d opcode : Nat) : State :=
  match s.desc d with
  | none => s
  | some x =>
    if x.phase ≠ .issued ∨ x.opcode ≠ opcode then s
    else if x.moveLen = 0 then s.endDesc d stSuccess 0 0
    else if s.copyRoom x then
      ({ s with copyPtr := SMap.set 0 s.copyPtr (s.prioOf x) (s.ringKey x.ring + 1) } : State).onDesc d (fun x => { x with phase := .running })
    else s

/-- The COPY descriptor starts. -/
def execCopy (d : Nat) (s : State) : Out := .next (s.copyStart d 0x02)
/-- The FILL descriptor starts. -/
def execFill (d : Nat) (s : State) : Out := .next (s.copyStart d 0x03)

/-- Bytes of the piece that begins at offset `pos`: to the end of an aligned 4 KiB of destination. -/
def Desc.pieceLen (x : Desc) (pos : Nat) : Nat := min (4096 - (x.moveDst + pos) % 4096) (x.moveLen - pos)

/-- One piece is moved, or the access that did not succeed: 1 a read, 2 a write. -/
def State.movePiece (s : State) (x : Desc) (pos : Nat) : Except (Nat × MemErr) State :=
  let n := x.pieceLen pos
  let put (bs : List Byte) : Except (Nat × MemErr) State :=
    match s.vwriteAll x.pol (x.moveDst + pos) bs with
    | .ok s' => .ok s'
    | .error e => .error (2, e)
  if x.opcode = 0x02 then
    match s.vread x.pol (x.field 0x18 8 + pos) n with
    | .ok bs => put bs
    | .error e => .error (1, e)
  else put ((List.range n).map (fun i => x.raw.getD (0x28 + (pos + i) % 8) 0))

/-- The read of a piece's source meets the wrong symbols there (R284). -/
def State.demandPiece (s : State) (x : Desc) (pos : Nat) : State :=
  if x.opcode = 0x02 then s.demand x.pol (x.field 0x18 8 + pos) (x.pieceLen pos) else s

/-- Up to `fuel` pieces in flight beyond one that suspends are written all the same; nothing from an uncorrectable unit on
(R283, R284). -/
def State.moveBeyond (s : State) (x : Desc) : Nat → Nat → State
  | 0, _ => s
  | fuel + 1, pos =>
    if x.moveLen ≤ pos then s
    else
      let s1 := s.demandPiece x pos
      match s1.movePiece x pos with
      | .ok s' => s'.moveBeyond x fuel (pos + x.pieceLen pos)
      | .error (_, .hbm _ _) => s1
      | .error _ => s1.moveBeyond x fuel (pos + x.pieceLen pos)

/-- The descriptor's piece is the next of its priority: active copies of one priority take turns (R255; log 233, DEDUCED). -/
def State.pieceTurn (s : State) (x : Desc) : Bool :=
  nextFrom (SMap.get 0 s.copyPtr (4 + s.prioOf x))
    ((s.descs.filter (fun y => y.isCopy && y.phase == .running && s.prioOf y == s.prioOf x)).map (·.id)) == some x.id

/-- COPY_PIECE: the copy engine finishes the next piece. Eight move at once, so that up to seven beyond one that faults are written
as well (R255, R283). -/
def execCopyPiece (d : Nat) (s : State) : Out :=
  .next (match s.desc d with
    | none => s
    | some x =>
      if !x.isCopy || x.phase != .running || !s.pieceTurn x then s
      else
        let s0 := ({ s with copyPtr := SMap.set 0 s.copyPtr (4 + s.prioOf x) (x.id + 1) } : State).demandPiece x x.done
        match s0.movePiece x x.done with
        | .ok s1 =>
          let done := x.done + x.pieceLen x.done
          let s2 := { s1 with remotes := s1.remotes.filter (fun r => r.desc != some d) }
          if x.moveLen ≤ done then s2.endDesc d stSuccess 0 x.moveLen else s2.onDesc d (fun x => { x with done := done })
        | .error (a, .fault n va) => (s0.moveBeyond x 7 (x.done + x.pieceLen x.done)).descErr x 1 a x.done (.fault n va)
        | .error (a, e) => s0.descErr x 1 a x.done e)

/-! CANCEL (R267). -/

/-- The ring a CANCEL names: one of the polder, else its own. -/
def State.cancelRing (s : State) (x : Desc) : Nat :=
  let r := x.field 0x18 2 % 8192
  if s.ownsRing x.pol r then r else x.ring

/-- The position at which a slot is announced and will yet be fetched: on a ring in service, or, while a disable is in progress, where a
fetch granted before it is still out (R267, R269). -/
def State.announcedAt (s : State) (r slot : Nat) : Option Nat :=
  let size := s.ringSize r
  let h := s.get RNG_STATE.HEAD r
  let pos := (h + (slot + size - h % size) % size) % 65536
  if (s.bit RNG_CTRL.ENABLED r ∧ (slot + size - h % size) % size < s.announcedOn r) ∨ s.fetching r pos then some pos else none

/-- The CANCEL descriptor: a descriptor announced in the slot is compared at its fetch; else those fetched from it, newest first. -/
def execCancel (d : Nat) (s : State) : Out :=
  .next (s.runDesc d 0x04 (fun x s =>
    let r := s.cancelRing x
    let slot := x.field 0x1A 2 % s.ringSize r
    if s.cancels.any (fun c => c.by_ == d) then s
    else match s.announcedAt r slot with
      | some pos => { s with cancels := s.cancels ++ [{ ring := r, pos := pos, user := x.field 0x20 8, by_ := d }] }
      | none => s.cancelFetched d r slot (x.field 0x20 8)))

end Sys2Proof.Machine
end

