-- ==== Sys2Proof/Machine/Settings.lean ====
section
/-! DEFINITION. The settings block in use (R336–R338): its fields, clamped, and the factory defaults. -/

namespace Sys2Proof.Machine

/-- Field [off, off + n) of the block in use, brought into [lo, hi]; the factory default where no block is in use. -/
def State.setting (s : State) (off n dflt lo hi : Nat) : Nat :=
  if s.settings.isEmpty then dflt else max lo (min hi (leNat ((s.settings.drop off).take n)))

def State.setBond (s : State) : Nat := s.setting 0x40 1 0 0 255 % 4
def State.setPort (s : State) : Nat := s.setting 0x41 1 0 0 3
def State.setRings (s : State) : Nat := s.setting 0x42 1 2 0 128
def State.setSync (s : State) : Nat := s.setting 0x44 2 4 0 256
def State.setHbm (s : State) : Nat := s.setting 0x46 2 8 0 s.part.hbmGib
def State.setVset (s : State) : Nat := s.setting 0x48 2 800 650 850
def State.setEnvelope (s : State) : Nat := s.setting 0x4A 2 s.part.envelope 300 s.part.envelope
def State.setTj (s : State) : Nat := s.setting 0x4C 1 105 85 105
def State.setDisc (s : State) : Nat := s.setting 0x4D 1 20 2 200
def State.setCalWait (s : State) : Nat := s.setting 0x4E 2 0 0 10000
/-- A reserved value of an enumerated field is read as its default. -/
def State.setPref (s : State) : Nat := if s.setting 0x50 1 0 0 255 = 1 then 1 else 0
def State.setPlanEn (s : State) : Bool := s.setting 0x51 1 0 0 255 == 1
def State.setIdle (s : State) : Nat := s.setting 0x52 2 100 0 65535
/-- The embedded lane plan. -/
def State.setPlan (s : State) : List Byte := (s.settings.drop 0x400).take 4160

/-- The factory defaults as a block of 8,192 bytes; the check word is filled in by whoever writes it. -/
def factoryBlock (p : Variant) : List Byte :=
  leBytes 4 0x5453484C ++ leBytes 4 1 ++ leBytes 56 0 ++
  leBytes 1 0 ++ leBytes 1 0 ++ leBytes 2 2 ++ leBytes 2 4 ++ leBytes 2 8 ++ leBytes 2 800 ++ leBytes 2 p.envelope ++
  leBytes 1 105 ++ leBytes 1 20 ++ leBytes 2 0 ++ leBytes 2 0 ++ leBytes 2 100 ++ List.replicate (8192 - 0x54) 0

end Sys2Proof.Machine
end

