-- ==== Sys2Proof/Machine/Time.lean ====
section
/-! DEFINITION. Time (spec/10): setting and following time bases, the machine tick count, peer delay, PPS, compare units, REFCLK. -/

namespace Sys2Proof.Machine

/-- The bounds of FREQ_ADJ (R212). -/
def freqMax : Int := 128000000
def clampFreq (x : Int) : Int := max (-freqMax) (min freqMax x)

/-! Writes of a base's registers (R213, R214, R219). -/

/-- A write to base `n` through the global copy, or through the copy of a polder that owns it. -/
def State.baseWrite (s : State) (p : Nat) (pol : Option (Fin 8)) (n : Nat) (g : State → State) : State :=
  match pol with
  | none => s.adminWrite p g
  | some q => s.polderWrite p q (fun s => if s.get TIM_TB_CFG.OWNER n = q.val then g s else s)

/-- A SET of TB0 loads the backup-domain counter too (R225). -/
def State.loadBackup (s : State) (n : Nat) : State :=
  if n = 0 then { s with bkCount := (s.base 0).t / 65536 * 32768 / 1000000000, bkFrac := 0 } else s

/-- SET: accepted where SRC is 0 or this package holds ROOT_RANK. -/
def State.setTime (s : State) (n : Nat) : State :=
  if s.get TIM_TB_CFG.SRC n = 0 ∨ s.get TIM_TB_CFG.ROOT_RANK n = s.rank then
    let t := (s.get TIM_TB_SET_SEC.SEC n * 1000000000 + s.get TIM_TB_SET_NS.NS n) * 65536 + s.get TIM_TB_SET_NS.FRAC n
    ((s.setBase n { s.base n with t := t % baseSpan, frac := 0 }).put TIM_TB_STATUS.VALID 1 n).loadBackup n
  else s.put TIM_TB_STATUS.SET_IGNORED 1 n

/-- SET. -/
def execSet (p : Fin 4) (pol : Option (Fin 8)) (n : Fin 8) (s : State) : Out := .next (s.baseWrite p pol n (fun s => s.setTime n))

/-- REACQUIRE: no effect with SRC 0. -/
def execReacquire (p : Fin 4) (pol : Option (Fin 8)) (n : Fin 8) (s : State) : Out :=
  .next (s.baseWrite p pol n (fun s => if s.get TIM_TB_CFG.SRC n = 0 then s else s.put TIM_TB_STATUS.STATE 1 n))

/-- A write of SRC: from 0 to 1 or 2 the base acquires; to 0 it is FREE. -/
def State.setSrc_ (s : State) (n src : Nat) : State :=
  let new := s.clampTo TIM_TB_CFG.SRC n src
  let s1 := s.put TIM_TB_CFG.SRC new n
  if new = 0 then s1.put TIM_TB_STATUS.STATE 0 n
  else if s.get TIM_TB_CFG.SRC n = 0 then s1.put TIM_TB_STATUS.STATE 1 n
  else s1

/-- TB_SRC_WRITE. -/
def execTbSrcWrite (p : Fin 4) (pol : Option (Fin 8)) (n : Fin 8) (src : BitVec 2) (s : State) : Out :=
  .next (s.baseWrite p pol n (fun s => s.setSrc_ n src.toNat))

/-! The tree of a domain (R215, R222). -/

/-- A link carries time. -/
def State.timeLink (s : State) (k : Nat) : Bool := s.linkUp k && s.bit TIM_PORT.TIME_EN k
/-- The parent link toward a root. -/
def State.timeParent (s : State) (root : Nat) : Option Nat :=
  ((s.path (s.edgeUp s.timeLink) s.rank root).bind (·.head?)).bind (fun x => s.linkFor s.timeLink x.1 x.2 false)
/-- The tick root: the lowest rank with a working package. -/
def State.tickRoot (s : State) : Nat := ((List.range s.ranks).find? s.reach).getD s.rank
/-- The root of a domain. -/
def State.rootOf (s : State) (d : Nat) : Nat := if d = 200 then s.tickRoot else s.get TIM_TB_CFG.ROOT_RANK d
/-- The links toward the children of this package in the tree of a root, every one of them: their far ends' routes come through here
(R222). -/
def State.timeChildren (s : State) (root : Nat) : List Nat :=
  (List.range 128).filter (fun k => s.timeLink k &&
    ((s.path (s.edgeUp s.timeLink) (s.planLink k).peer root).bind (·.head?)).map (·.1) == some s.rank)

/-! The servo (R219, R220). -/

/-- A base meets an offset, in 1/16 ns. -/
def State.servo (s : State) (n : Nat) (o : Int) : State :=
  let b := s.base n
  let s1 := s.put TIM_TB_CTRL.LAST_OFFSET (uint 32 (Int.fdiv o 16)) n
  if s.get TIM_TB_STATUS.STATE n = 1 then
    (s1.setBase n { b with t := (((b.t : Int) - o * 4096) % (baseSpan : Int)).toNat, integ := 0 }).put TIM_TB_STATUS.STATE 2 n
  else
    let s2 := s1.put TIM_TB_STATUS.STATE 2 n
    if s.get TIM_TB_SERVO.JUMP_NS n * 16 < o.natAbs then
      (s2.bump TIM_TB_STATUS.REFUSED n).raise0 25 (detail [(0, n), (32, uint 32 (Int.fdiv o 16))])
    else
      let i := clampFreq (b.integ + s.get TIM_TB_SERVO.KI n * o)
      s2.setBase n { b with integ := i, freq := -clampFreq (s.get TIM_TB_SERVO.KP n * o + i) }

/-- A base enters HOLDOVER (R220). -/
def State.holdover (s : State) (n : Nat) : State :=
  if s.get TIM_TB_STATUS.STATE n = 3 then s else (s.put TIM_TB_STATUS.STATE 3 n).raise0 26 (detail [(0, n)])

/-- TIME_HOLDOVER: a base with SRC 1 has no Sync for 4 intervals, or its root is out of reach. The root itself follows none. -/
def execTimeHoldover (n : Fin 8) (s : State) : Out :=
  .next (if s.get TIM_TB_CFG.SRC n = 1 ∧ s.get TIM_TB_CFG.ROOT_RANK n ≠ s.rank then s.holdover n else s)

/-! The machine tick count (R222, R224). -/

/-- The tick count is stepped by an offset, in 1/16 ns; or the offset is removed by slewing, in 1/4,000,000 of a tick. -/
def State.tickOffset (s : State) (k : Nat) (o : Int) : State :=
  let s1 := ((s.put TIM_MTICK_STAT.OFFSET (uint 32 o)).put TIM_MTICK_STAT.PARENT k).put TIM_MTICK_STAT.ROOT s.tickRoot
  if !s.joined || !s.schedBusy then
    let tot := ((s.get TIM_MTICK.TICKS : Int) * 4000000 + s.tickFrac - o * 250000) % (2 ^ 64 * 4000000)
    (({ s1 with joined := true, slew := 0, tickFrac := tot.toNat % 4000000 } : State).put TIM_MTICK.TICKS (tot.toNat / 4000000)).put
      TIM_MTICK_STAT.ALIGNED 1
  else
    let far := decide (160 < o.natAbs)
    (({ s1 with slew := -(o * 250000) } : State).put TIM_MTICK_STAT.ALIGNED (b2n !far)).when far (fun s =>
      (s.bump TIM_MTICK_STAT.ALIGN_EVT).raise0 27 (detail [(0, uint 32 o), (32, k)]))

/-! Messages (R215–R218). -/

/-- Time synchronisation on a port is restarted: until a peer-delay exchange is whole, no servo uses the port (R163). -/
def State.restartTime (s : State) (k : Nat) : State :=
  s.setLink k { s.link k with timeOk := false, syncRx := [], pdOut := none }

/-- An illegal message (R218), and a legal one. -/
def State.onTime (s : State) (a : Via) (legal : Bool) (g : State → State) : State :=
  s.onMsg a 5 0 1 0 (fun s => if legal then g s else (s.violation a.k 5).restartTime a.k)

/-- A domain number that exists. -/
def timeDomain (d : Nat) : Bool := decide (d ≤ 7) || d == 200

/-- The offset of a Sync, in 1/16 ns (R217). -/
def State.syncOffset (s : State) (k d origin : Nat) : Int :=
  Int.fdiv ((s.domainNow d : Int) - (origin + (s.link k).delay + sint 16 (s.get TIM_PORT.ASYM k) * 4096)) 4096

/-- SYNC_SEND: on links toward the children of the base's tree, by its root and by those that follow it. -/
def execSyncSend (dom : Fin 9) (s : State) : Out :=
  .next (
    let d := if dom.val = 8 then 200 else dom.val
    let root := s.rootOf d
    let s1 := s.when (d == 200 && root == s.rank) (fun s =>
      ((({ s with joined := true } : State).put TIM_MTICK_STAT.ROOT root).put TIM_MTICK_STAT.ALIGNED 1).put TIM_MTICK_STAT.OFFSET 0)
    if d ≠ 200 ∧ root ≠ s.rank ∧ s.get TIM_TB_CFG.SRC d ≠ 1 then s1
    else
      s1.each (s1.timeChildren root) (fun s k =>
        let q := SMap.get 0 (s.link k).syncTx d
        (s.setLink k { s.link k with syncTx := SMap.set 0 (s.link k).syncTx d ((q + 1) % 65536) }).sendTo k
          (.sync d q (s.domainNow d))))

/-- SYNC_MESSAGE. One from a link that is not the parent is dropped. -/
def execSyncMessage (a : Via) (m : SyncMsg) (s : State) : Out :=
  .next (
    let k := a.k
    let last := SMap.get none (s.link k).syncRx m.domain
    let inSeq := (last.map (fun q => decide (m.seqId = (q + 1) % 65536))).getD true
    let legal := m.typ == 0 && m.version == 2 && m.len == 44 && m.tagLen == m.len && timeDomain m.domain && inSeq
    s.onTime a legal (fun s =>
      let x := s.link k
      let s1 := s.setLink k { x with syncRx := SMap.set none x.syncRx m.domain (some m.seqId) }
      let parent := s.timeParent (s.rootOf m.domain)
      if parent ≠ some k.val ∨ x.timeOk = false then s1
      else
        let o := s.syncOffset k m.domain m.origin
        if m.domain = 200 then s1.tickOffset k o
        else if s.get TIM_TB_CFG.SRC m.domain = 1 then s1.servo m.domain o
        else s1))

/-- PDELAY_SEND: a port with TIME_EN = 1 sends a Pdelay_Req. -/
def execPdelaySend (k : Fin 128) (s : State) : Out :=
  .next (if s.timeLink k then
      let x := s.link k
      (s.setLink k { x with pdSeq := (x.pdSeq + 1) % 65536 }).sendTo k (.pdelayReq x.pdSeq)
    else s)

/-- The checks of R218 that the peer-delay messages of type `typ` share. -/
def pdelayLegal (typ : Nat) (m : PdelayMsg) : Bool :=
  m.typ == typ && m.version == 2 && m.len == 54 && m.tagLen == m.len && timeDomain m.domain

/-- PDELAY_REQ: answered by a Pdelay_Resp that carries the turnaround, on a port with TIME_EN = 1 (R215). -/
def execPdelayReq (a : Via) (m : PdelayMsg) (s : State) : Out :=
  .next (s.onTime a (pdelayLegal 2 m) (fun s => s.when (s.timeLink a.k) (fun s => s.sendTo a.k (.pdelayResp m.seqId s.portNow))))

/-- PDELAY_RESP: the port's mean link delay (R217); a restart of time on the port is complete. -/
def execPdelayResp (a : Via) (m : PdelayMsg) (s : State) : Out :=
  .next (
    let k := a.k
    let out := (s.link k).pdOut
    s.onTime a ((pdelayLegal 3 m) && (out.map (·.1)) == some m.seqId) (fun s =>
      match out with
      | some (_, t1) =>
        s.setLink k { s.link k with pdOut := none, timeOk := true,
                                    delay := Int.fdiv ((s.portNow : Int) - t1 - m.turnaround) 2 }
      | none => s))

/-! PPS (R219, R380). -/

/-- A second in units of 2^-16 ns. -/
def onePps : Nat := 1000000000 * 65536

/-- The signed distance from a stamp to the nearest whole second, in 1/16 ns. -/
def ppsOffset (t : Nat) : Int :=
  let r := t % onePps
  Int.fdiv (if 2 * r ≤ onePps then (r : Int) else (r : Int) - onePps) 4096

/-- PPS_EDGE: a rising edge of the input; one less than 500 ms after the last accepted one is ignored. -/
def execPpsEdge (s : State) : Out :=
  .next (
    let near := (s.pins.lastPps.map (fun c => decide (s.clk < c + 781250000))).getD false
    if !s.bit TIM_CFG.PPS_DIR || near then s
    else
      let o := ppsOffset (s.base (s.get TIM_CFG.PPS_BASE)).t
      ({ s with pins := { s.pins with lastPps := some s.clk } } : State).each
        ((List.range 8).filter (fun n => s.get TIM_TB_CFG.SRC n == 2)) (fun s n => s.servo n o))

/-- PPS_OUTPUT: PPS is high for 100 ms from each whole second of PPS_BASE. -/
def execPpsOutput (s : State) : Out :=
  .next (
    let r := (s.base (s.get TIM_CFG.PPS_BASE)).t % onePps
    { s with pins := { s.pins with ppsOut := !s.bit TIM_CFG.PPS_DIR && decide (r < onePps / 10) } })

/-! Compare units (R221). -/

/-- TIME_COMPARE. -/
def execTimeCompare (m : Fin 8) (s : State) : Out :=
  .next (
    let d := (s.get TIM_CMP.TARGET m + 2 ^ 32 - s.shortStamp (s.get TIM_CMP.BASE m)) % 2 ^ 32
    if s.bit TIM_CMP.ARM m && decide (sint 32 d ≤ 0) then
      ((s.put TIM_CMP.ARM 0 m).put TIM_CMP.FIRED 1 m).raise0 28 (detail [(0, m)])
    else s)

/-- TB_NS_READ: the read latches the seconds (R227). -/
def execTbNsRead (p : Fin 4) (pol : Option (Fin 8)) (n : Fin 8) (s : State) : Out :=
  .next (s.portRead p (match pol with
    | none => 0x3f128 + 0x40 * n
    | some q => 0x100000 + 0x10000 * q + 0x5028 + 0x40 * n))

/-! REFCLK (R377, R389). -/

/-- REFCLK_LOST: every link goes DOWN, the bases that follow a source enter HOLDOVER; for a schedule it is a fault. -/
def execRefclkLost (s : State) : Out :=
  .next (if !s.pins.refclk then s
    else
      let s1 : State := { s with pins := { s.pins with refclk := false } }
      let s2 := s1.each (List.range 512) (fun s l => s.when ([2, 3].contains (s.get LSW_LANE.STATE l)) (fun s => s.put LSW_LANE.STATE 0 l))
      let s3 := s2.each ((List.range s.plan.links.length).filter (fun k => [1, 2, 3, 4].contains (s2.get LNK_STATE.STATE k)))
        (fun s k => s.linkDown k 0)
      let s4 := s3.each ((List.range 8).filter (fun n => s3.get TIM_TB_CFG.SRC n != 0)) (fun s n => s.holdover n)
      s4.when (s4.schedSt == 2 || s4.schedSt == 3) (fun s => s.schedFault))

/-- REFCLK_RETURN: the lanes train again. -/
def execRefclkReturn (s : State) : Out :=
  .next (if s.pins.refclk then s
    else
      ({ s with pins := { s.pins with refclk := true } } : State).each ((List.range 512).filter (fun l => s.usable l)) (fun s l =>
        s.when (s.get LSW_LANE.STATE l == 0) (fun s => s.put LSW_LANE.STATE 2 l)))

end Sys2Proof.Machine
end

