-- ==== Sys2Proof/Machine/Polder.lean ====
section
/-! DEFINITION. The rows of host ports and polders (spec/11). -/

namespace Sys2Proof.Machine

/-! Opening (R235, R236). -/

/-- Free places in a row from `i` on, of `n` places. -/
def freeRun (busy : Nat → Bool) (n i : Nat) : Nat := ((List.range (n - i)).takeWhile (fun j => !busy (i + j))).length

/-- The lesser of a request and the longest free run, at the lowest place where that many fit: the place and the number. -/
def grantRun (busy : Nat → Bool) (n req : Nat) : Nat × Nat :=
  let k := min req (((List.range n).map (freeRun busy n)).foldl max 0)
  (((List.range n).find? (fun i => decide (k ≤ freeRun busy n i))).getD 0, k)

/-- A page, or a block, is granted to some polder. -/
def State.pageBusy (s : State) (i : Nat) : Bool := (List.range 8).any (fun m =>
  decide (s.get GLB_PLD_STAT.RING_BASE m ≤ i) && decide (i < s.get GLB_PLD_STAT.RING_BASE m + s.get GLB_PLD_STAT.RING_PAGES m))
def State.blockBusy (s : State) (i : Nat) : Bool := (List.range 8).any (fun m =>
  decide (s.get GLB_PLD_STAT.SYNC_BASE m ≤ i) && decide (i < s.get GLB_PLD_STAT.SYNC_BASE m + s.get GLB_PLD_STAT.SYNC_BLOCKS m))

/-- Polder `n` is bound to port `q`, or to none; vectors of it that are pending on the other ports are raised no more (R233). -/
def State.bind (s : State) (n : Nat) (q : Option Nat) : State :=
  s.each (List.range 4) (fun s p =>
    (s.put GLB_PORT.POLDERS (setBits (s.get GLB_PORT.POLDERS p) n 1 (b2n (q == some p))) p).when (q != some p) (fun s =>
      { s with msix := SMap.clear s.msix (msixKey p (2048 + 2 * n)) (msixKey p (2050 + 2 * n)) }))

/-- The registers of a polder's block, and what stands behind them, as they are when it is opened (R281, R292, R313). -/
def State.freshPolder (s : State) (n : Nat) : State :=
  let s1 := s.clearRegs (regsOf .polder) n 1
  let s2 : State := { s1 with
    srcs := SMap.clear s1.srcs (512 * n) (512 * n + 512)
    tgts := SMap.clear s1.tgts (16 * n) (16 * n + 16)
    watchMet := SMap.clear s1.watchMet (128 * n) (128 * n + 128)
    quotaB := SMap.set 0 s1.quotaB n 0
    faultSeq := SMap.set 0 s1.faultSeq n 0
    mute := s1.mute.set n false }
  (s2.put RNG_SEL.RING (s2.ringsOf n).1 n).put SYN_SEL.OBJ (s2.objsOf n).1 n

/-- An OPEN binds the polder and grants what its requests name, from what the others leave (R235). -/
def State.openPolder (s : State) (n : Nat) : State :=
  let q := s.clampSpecial GLB_PLD_CFG.PORT n (s.get GLB_PLD_CFG.PORT n)
  let rings := grantRun s.pageBusy 128 (s.get GLB_PLD_CFG.RINGS_REQ n)
  let objs := grantRun s.blockBusy 256 (s.get GLB_PLD_CFG.SYNC_REQ n)
  let gib := min (s.get GLB_PLD_CFG.HBM_REQ n) (s.unallocatedFrames / 262144)
  let s1 := (s.bind n (some q)).setReg .GLB_PLD_STAT n 0 0
  let s2 := (((s1.put GLB_PLD_STAT.RING_BASE rings.1 n).put GLB_PLD_STAT.RING_PAGES rings.2 n).put GLB_PLD_STAT.SYNC_BASE
    objs.1 n).put GLB_PLD_STAT.SYNC_BLOCKS objs.2 n
  let s3 := ((s2.put GLB_PLD_STAT.HBM_GIB gib n).put GLB_PLD_STAT.ARCH (s.get GLB_PLD_CFG.ARCH_REQ n) n).freshPolder n
  (s3.put GLB_PLD_STAT.STATE 1 n).put GLB_PLD_STAT.BUSY 1 n

/-- Polder 0 opens on the port and with the requests that settings name (R236). -/
def State.openAdmin (s : State) : State :=
  ((((s.put GLB_PLD_CFG.PORT (s.clampSpecial GLB_PLD_CFG.PORT 0 s.setPort) 0).put GLB_PLD_CFG.RINGS_REQ s.setRings 0).put
    GLB_PLD_CFG.SYNC_REQ s.setSync 0).put GLB_PLD_CFG.HBM_REQ s.setHbm 0).openPolder 0

/-! Closing (R237, R239). -/

/-- A descriptor of a closing polder: stopped where it waits or at its restartable point; work that has none, and an administrator
operation in execution, runs on. -/
def State.closeDesc (s : State) (x : Desc) : State :=
  match x.phase with
  | .ended => s
  | .waiting => s.endDesc x.id stClosing 0 0
  | .suspended => s.stopDesc x.id x.done
  | _ =>
    let on :=
      if adminOp x.opcode then s.warden.head? == some x.id || (s.recable.map (fun r => r.desc == some x.id)).getD false ||
        s.doms.any (fun p => p.2.desc.contains x.id || (p.2.queued.map (fun q => q.desc == x.id)).getD false)
      else s.adds.any (fun a => a.desc == some x.id) || s.sched.startDesc == some x.id || s.sched.preDescs.contains x.id ||
        (x.opcode == 0x19 && !(s.enginesOf x.id).isEmpty)
    if on then s else s.endDesc x.id stClosing 0 (s.progress x)

/-- The records of a polder whose port was reset are discarded; what still runs has no ring any more. -/
def State.muteDescs (s : State) (n : Nat) : State :=
  let gone := s.descs.filter (fun x => x.pol == n && x.phase == .ended)
  { s with descs := (s.descs.filter (fun x => !(x.pol == n && x.phase == .ended))).map (fun x =>
             if x.pol = n then { x with ring := 8192 } else x)
           warden := s.warden.filter (fun w => !(gone.any (fun x => x.id == w))) }

/-- An OPEN polder begins to close; `mute`: by a reset of its port. -/
def State.closePolder (s : State) (n : Nat) (mute : Bool) : State :=
  let s0 := (s.put GLB_PLD_STAT.STATE 3 n).put GLB_PLD_STAT.BUSY 1 n
  let s1 : State := { s0 with
    mute := if mute then s0.mute.set n true else s0.mute
    fetches := s0.fetches.filter (fun f => !s0.ownsRing n f.ring)
    cancels := s0.cancels.filter (fun c => !s0.ownsRing n c.ring) }
  let s2 := s1.each (s1.descs.filter (fun x => x.pol == n)) (fun s x =>
    match s.desc x.id with
    | some y => s.closeDesc y
    | none => s)
  let s3 := s2.when ((s2.sched.image.map (fun im => im.owner == n)).getD false) (fun s => if s.schedBusy then s.cancelRun else s.unload)
  let s4 := s3.each ((List.range 16).filter (fun e => s3.get GTH_ASSIGN.OWNER e == n)) (fun s e =>
    (s.put GTH_ASSIGN.EN 0 e).setEngine e { s.engine e with
      queued := (s.engine e).queued.filter (fun q => bitsOf q.toNat 0 3 != n) })
  let s5 := s4.each ((List.range 8).filter (fun b => s4.get TIM_TB_CFG.OWNER b == n)) (fun s b =>
    (s.put TIM_TB_CFG.OWNER 0 b).setSrc_ b 0)
  let s6 := s5.each ((List.range 16).filter (fun j => s5.bit EVC_TGT_CFG.EN n j)) (fun s j => s.disableTarget n j)
  let s7 := { s6 with faults := s6.faults.filter (fun f => f.pol != n) }
  (s7.when mute (fun s => s.muteDescs n)).settleClosing n

/-! Commands of GLB_PLD_STAT.CMD (R235–R238). -/

/-- OPEN: at once on a CLOSED polder, nothing on an OPEN one, queued while it opens or closes. In safe mode only polder 0 opens (R331). -/
def State.cmdOpen (s : State) (n : Nat) : State :=
  if s.bit PWR_START.SAFE && n != 0 then s
  else match s.polderSt n with
  | 0 => s.openPolder n
  | 2 => s
  | _ => s.put GLB_PLD_STAT.QUEUED 1 n

/-- CLOSE: ignored for polder 0, nothing on a CLOSED polder, queued while it opens or closes. -/
def State.cmdClose (s : State) (n : Nat) : State :=
  if n = 0 then s
  else match s.polderSt n with
    | 0 => s
    | 2 => s.closePolder n false
    | _ => s.put GLB_PLD_STAT.QUEUED 2 n

def execPolderOpen (p : Fin 4) (n : Fin 8) (s : State) : Out := .next (s.adminWrite p (fun s => s.cmdOpen n))
def execPolderClose (p : Fin 4) (n : Fin 8) (s : State) : Out := .next (s.adminWrite p (fun s => s.cmdClose n))

/-- POLDER_OPENED: the opening ends, and a queued CLOSE takes effect. -/
def execPolderOpened (n : Fin 8) (s : State) : Out :=
  .next (if s.polderSt n ≠ 1 then s
    else
      let queued := s.get GLB_PLD_STAT.QUEUED n
      let s1 := ((s.put GLB_PLD_STAT.STATE 2 n).put GLB_PLD_STAT.BUSY 0 n).put GLB_PLD_STAT.QUEUED 0 n
      if queued = 2 then s1.cmdClose n else s1)

/-- The HBM of a polder is zeroed and returned, with its sources, its binding and its grants. -/
def State.freePolder (s : State) (n : Nat) : State :=
  let s0 := s.dropContext n
  let mine := s0.frames.filter (fun p => p.2 == n + 1)
  let s1 := s0.each mine (fun s p => s.zeroRun p.1 1)
  let s2 : State := { s1 with frames := s1.frames.filter (fun p => p.2 != n + 1),
                              refs := s1.refs.filter (fun p => !(mine.any (fun q => q.1 == p.1))),
                              zeroLeft := SMap.set 0 s1.zeroLeft n 0 }
  (((s2.bind n none).setReg .GLB_PLD_STAT n 0 0).clearRegs [.EVC_PEND, .EVC_ACTIVE] n 1)

/-- POLDER_ZEROED: the polder is CLOSED, and a queued OPEN takes effect (R238). Polder 0 reopens where its port has trained since, else
when it has (R239). -/
def execPolderZeroed (n : Fin 8) (s : State) : Out :=
  .next (if !s.closedOut n then s
    else
      let s1 := s.freePolder n
      if n.val = 0 then s1.when (s1.portUp.getD (s1.clampSpecial GLB_PLD_CFG.PORT 0 s1.setPort) false) State.openAdmin
      else if s.get GLB_PLD_STAT.QUEUED n = 1 then s1.openPolder n else s1)

/-! Ports (R228, R229, R239). -/

/-- The port is the upper one of a bonded pair: it has no function. -/
def State.upperPort (s : State) (q : Nat) : Bool := s.bit GLB_PORT.BONDED q && q % 2 == 1

/-- Every polder bound to a port closes, and nothing more is written to it; one that is closing already is not written to either. -/
def State.closePort (s : State) (q : Nat) : State :=
  s.each ((List.range 8).filter (fun n => s.bound n q)) (fun s n =>
    match s.polderSt n with
    | 1 => s.closePolder n true
    | 2 => s.closePolder n true
    | 3 => (({ s with mute := s.mute.set n true } : State).muteDescs n).settleClosing n
    | _ => s)

/-- PORT_RESET of any kind. -/
def execPortReset (q : Fin 4) (s : State) : Out :=
  .next (if s.upperPort q then s
    else
      let s1 := (((s.bump GLB_PORT.RESETS q).put GLB_PORT.LINK_UP 0 q).put GLB_PORT.RATE 0 q).put GLB_PORT.WIDTH 0 q
      ({ s1 with inReset := s1.inReset.set q true, portUp := s1.portUp.set q false, busMaster := s1.busMaster.set q false,
                 msix := SMap.clear s1.msix (msixKey q 0) (msixKey q 4096) } : State).closePort q)

/-- PORT_RESET_END: the port is ready for training. -/
def execPortResetEnd (q : Fin 4) (s : State) : Out :=
  .next (if s.upperPort q then s else { s with inReset := s.inReset.set q false })

/-- A start has reached PORTS; in safe mode the one port is polder 0's (R325, R331). -/
def State.portRuns (s : State) (q : Nat) : Bool :=
  decide (3 ≤ s.get PWR_START.PHASE) && (!s.bit PWR_START.SAFE || q == s.setPort)

/-- PORT_TRAINED: the link is up; polder 0 reopens on its port, once it is CLOSED. -/
def execPortTrained (q : Fin 4) (gen : Fin 7) (width : Fin 17) (s : State) : Out :=
  .next (if s.upperPort q || s.inReset.getD q false || !s.portRuns q then s
    else
      let s1 := ((s.put GLB_PORT.LINK_UP 1 q).put GLB_PORT.RATE gen q).put GLB_PORT.WIDTH width q
      let s2 := { s1 with portUp := s1.portUp.set q true }
      if s2.clampSpecial GLB_PLD_CFG.PORT 0 s2.setPort ≠ q.val then s2
      else if s2.polderSt 0 = 0 then s2.openAdmin else s2)

/-- BUS_MASTER_ENABLE: a port that issues requests again sends what is pending; retirements and accesses of other packages that waited for
it go on. -/
def execBusMasterEnable (q : Fin 4) (on : Bool) (s : State) : Out :=
  .next (
    let s1 : State := { s with busMaster := s.busMaster.set q on }
    if on then
      ((s1.each (List.range 128) (fun s v => s.sendPending q v)).each ((List.range 8).filter (fun n => s1.bound n q)) (fun s n =>
        (s.fillFaults n).retireWaiting n)).serveWaiting
    else s1)

/-! Apertures (R232, R284). -/

/-- A read through an aperture. -/
def State.bar2Read (s : State) (p n va len : Nat) : State :=
  let zero (s : State) : State := { s with readBytes := List.replicate len 0, readPoison := false }
  let s := s.demand n va len
  match s.vread n va len with
  | .ok bs => { s with readBytes := bs, readPoison := false }
  | .error (.fault _ _) => zero (s.bar2Miss p n)
  | .error (.hbm _ pa) => { s.meetUnit (pa / 64) with readBytes := [], readPoison := true }
  | .error (.remote rank rva k wr v) => (s.askRemote none 8192 5 1 n rank rva k wr v).getD (zero ((s.noRoute rank).bar2Miss p n))
  | .error .wait => s

/-- A write through an aperture: whole, or not at all. -/
def State.bar2Write (s : State) (p n va : Nat) (bs : List Byte) : State :=
  match s.vwriteAll n va bs with
  | .ok s' => s'
  | .error (.fault _ _) => s.bar2Miss p n
  | .error (.hbm _ _) => s
  | .error (.remote rank rva k wr v) => (s.askRemote none 8192 5 2 n rank rva k wr v).getD ((s.noRoute rank).bar2Miss p n)
  | .error .wait => s

/-- BAR2_ACCESS: byte a of aperture n is the polder's device-virtual address BASE + a. It restarts a stopped XD core clock (R323). -/
def execBar2Access (p : Fin 4) (off len : Nat) (wr : Option (List Byte)) (s0 : State) : Out :=
  let s := s0.wakeXd
  .next (
    let n := off / 2 ^ 33
    let va := s.get PLD_BAR2.BASE n * 2 ^ 21 + off % 2 ^ 33
    if 8 ≤ n || !s.openOn n p then
      (if wr.isNone then ({ s with readBytes := List.replicate len 0, readPoison := false } : State) else s).drop p
    else match wr with
      | none => s.bar2Read p n va len
      | some bs => s.bar2Write p n va bs)

end Sys2Proof.Machine
end

