-- ==== Sys2Proof/Machine/Start.lean ====
section
/-! DEFINITION. The rows of starts, of rails and trips, and of the backup domain (spec/15, R381, R382). -/

namespace Sys2Proof.Machine

/-! Flash (R336, R337, R348). -/

/-- Byte address of a slot in the image area of flash. -/
def slotAt (k : Nat) : Nat := k * 50331648
def State.slotNum (s : State) (k off n : Nat) : Nat := leNat (s.flash.slots.read (slotAt k + off) n)
/-- The slot holds an image header; the image a part leaves the factory with is not part of the model (log 4, DESIGN CHOICE). -/
def State.slotHere (s : State) (k : Nat) : Bool := s.slotNum k 0 4 == 0x5746484C
def State.slotSv (s : State) (k : Nat) : Nat :=
  if s.slotHere k then s.slotNum k 0x10 4 else s.get FWU_STATUS.RUN_SV
/-- The image of a slot reads a settings format; that of the factory reads format 1. -/
def State.readsFmt (s : State) (k f : Nat) : Bool :=
  if s.slotHere k then s.slotNum k 0x17 1 / 2 ^ f % 2 == 1 else f == 1
/-- The state of a slot in FWU_STATUS. -/
def slotFld (k : Nat) : Fld := if k = 0 then FWU_STATUS.SLOT0 else FWU_STATUS.SLOT1

/-- The check that a settings block fails first: 1 MAGIC or its length, 2 FMT, 3 CRC. -/
def settingsCheck (bs : List Byte) : Option Nat :=
  if bs.length < 8192 ∨ numAt bs 0 4 ≠ 0x5453484C then some 1
  else if numAt bs 4 1 % 16 ≠ 1 then some 2
  else if crc32c (zeroAt bs 0xC 4) ≠ numAt bs 0xC 4 then some 3 else none

/-- A copy passes, and its format is one the running image reads. -/
def State.copyOk (s : State) (bs : List Byte) : Bool :=
  settingsCheck bs == none && s.readsFmt (s.get FWU_STATUS.ACTIVE_SLOT) (numAt bs 4 1 % 16)
/-- A copy whose format alone cannot be read. -/
def State.fmtUnread (s : State) (bs : List Byte) : Bool :=
  decide (8192 ≤ bs.length) && numAt bs 0 4 == 0x5453484C && !s.readsFmt (s.get FWU_STATUS.ACTIVE_SLOT) (numAt bs 4 1 % 16)

/-- The later of two generations by signed 32-bit difference. -/
def laterGen (a b : Nat) : Bool := decide ((a + 4294967296 - b) % 4294967296 < 2147483648)

/-- The copy to use: 0 A, 1 B. -/
def State.pickCopy (s : State) : Option Nat :=
  match s.copyOk s.flash.setA, s.copyOk s.flash.setB with
  | true, true => some (if laterGen (numAt s.flash.setA 8 4) (numAt s.flash.setB 8 4) then 0 else 1)
  | true, false => some 0
  | false, true => some 1
  | false, false => none

/-- The settings block in use is chosen (R336, R337). -/
def State.chooseSettings (s : State) : State :=
  let s1 := (s.put CFG_SETTINGS.A_OK (b2n (s.copyOk s.flash.setA))).put CFG_SETTINGS.B_OK (b2n (s.copyOk s.flash.setB))
  match s.pickCopy with
  | some k =>
    let bs := if k = 0 then s.flash.setA else s.flash.setB
    (({ s1 with settings := bs } : State).put CFG_SETTINGS.IN_USE k).put CFG_SETTINGS.GENERATION (numAt bs 8 4)
  | none =>
    let cause := if s.fmtUnread s.flash.setA || s.fmtUnread s.flash.setB then 2 else 1
    ((({ s1 with settings := [] } : State).put CFG_SETTINGS.DEFAULTED 1).put CFG_SETTINGS.CAUSE cause).raise0 44 (detail [(0, cause)])

/-- The fields that start from settings (R338, R347). The bonding is read at starts only (R228). -/
def State.applySettings (s : State) (bond : Bool) : State :=
  let s1 := ((((s.put PWR_WEIR.VSET_MV s.setVset).put PWR_WEIR.VNOW_MV s.setVset).put PWR_WEIR.ENVELOPE_W s.setEnvelope).put
    PWR_WEIR.TJ_LIMIT s.setTj).put PWR_LASER.DISC_MS s.setDisc
  let s2 := (s1.put PWR_IDLE.DELAY_US s.setIdle).put SCU_CTRL.PREF s.setPref
  s2.when bond (fun s => s.each (List.range 4) (fun s p => s.put GLB_PORT.BONDED (s.setBond / 2 ^ (p / 2) % 2) p))

/-! What a start leaves (R324, R330, R342, R344). -/

/-- The registers that a start does not reset: those of flash and fuses, of the backup domain, of the laser-safety input. -/
def keptRegs : List RegName :=
  [.FWU_STATUS, .FWU_XFER, .FWU_FUSE, .FWU_BITMAP, .PWR_BK_STAT, .PWR_BK_ALARM, .PWR_BK_LOG, .PWR_START, .PWR_LASER]
def keepRegs (rs : List RegName) (m : SMap Word) : SMap Word := m.filter (fun p => rs.any (fun r => r.ctorIdx == p.1 / 4294967296))

/-- What lies outside the package, in flash, in the backup domain and at the pins, with the model's own counters; all else as after
reset. -/
def State.outside (s : State) : State :=
  { pending := s.pending, part := s.part, serial := s.serial, free := s.free, host := s.host, flash := s.flash, clk := s.clk,
    bkCount := s.bkCount, bkFrac := s.bkFrac, rails := s.rails, mainPower := s.mainPower,
    vbat := s.vbat, bkKept := s.bkKept, readData := s.readData, readBytes := s.readBytes, readPoison := s.readPoison,
    pins := { thermTrip := s.pins.thermTrip, resetN := s.pins.resetN, refclk := s.pins.refclk, ir := s.pins.ir,
              boundary := s.pins.boundary, smbShadow := s.pins.smbShadow, smbOut := s.pins.smbOut, wake := s.pins.wake } }

/-- Everything but D00 and the backup domain is as after reset. A warm start keeps the calibration held, the discrepancy fault and
its cycle bits. -/
def State.restart (s : State) (cold : Bool) : State :=
  let o := s.outside
  let s1 : State := { o with
    regs := keepRegs keptRegs s.regs
    laserWent := if cold then 0 else s.laserWent
    discSince := s.discSince
    cal := if cold then [] else s.cal
    loops := if cold then [] else SMap.mapVal {} (fun x => { cal := x.cal }) s.loops
    pins := { o.pins with thermTrip := o.pins.thermTrip && !cold } }
  let s2 := s1.each ([FWU_STATUS.PAUSED, FWU_STATUS.ROM_LOADER, FWU_STATUS.LAST_CODE, PWR_START.RESTORED, PWR_START.SAFE,
    PWR_START.READY, PWR_LASER.ARMED, PWR_LASER.SHUTDOWNS, PWR_LASER.GLITCHES] ++
    (if cold then [PWR_LASER.DISC_FAULT, PWR_LASER.A_CYCLED, PWR_LASER.B_CYCLED] else [])) (fun s f => s.put f 0)
  ((s2.put PWR_LASER.DISC_MS 20).put PWR_START.KIND (b2n !cold)).put TIM_TB_STATUS.VALID (s.get TIM_TB_STATUS.VALID 0) 0

/-- A start begins: phase FIRMWARE. -/
def State.startAnew (s : State) (cold : Bool) : State := (s.restart cold).put PWR_START.PHASE 1

/-- A warm start is begun: a cold one where FORCE_COLD is set, or out of safe mode (R324, R331). -/
def State.warmStart (s : State) : State := s.startAnew (s.bit PWR_START.FORCE_COLD || s.bit PWR_START.SAFE)

/-- A start is under way. -/
def State.starting (s : State) : Bool :=
  decide (1 ≤ s.get PWR_START.PHASE) && decide (s.get PWR_START.PHASE < 12) && !s.bit PWR_START.SAFE

/-! The phases (R325, R329). -/

/-- A domain is turned on in its phase, unless the tokens hold it back; its units are brought up with it. One with a rail that is out of
range is not turned on (R315). -/
def State.startDomain (s : State) (d : Nat) : State :=
  if !s.part.hasDomain d || s.domOn d || !s.railsGood d then s
  else if d < 6 ∨ (s.part.demand d : Int) ≤ s.tokensFree then (s.setDomSt d 2).setDomSt d 3
  else (s.put PWR_DOMAIN.HELD_BACK 1 d).put PWR_TOKEN.SHORT 1

/-- Domains that a phase of a start turns on (R325). -/
def phaseDoms (ph : Nat) : List Nat :=
  match ph with
  | 2 => [1, 2, 3, 4, 5]
  | 5 => (List.range 8).map (24 + ·)
  | 6 => (List.range 16).map (6 + ·)
  | 7 => [22, 23, 32, 33, 34, 35]
  | _ => []

/-- TB0 is loaded from the backup-domain counter; it is valid where that counter has kept a valid time (R225). -/
def State.loadTb0 (s : State) : State :=
  (s.setBase 0 { t := s.bkCount * 2000000000 }).put TIM_TB_STATUS.VALID (b2n (s.bit TIM_TB_STATUS.VALID 0 && s.bkKept)) 0

/-- Polder 0 opens; the edges that its sources' latches caught until now enter the pending bits. -/
def State.openFirst (s : State) : State :=
  let edges := s.srcs.filter (fun p => decide (p.1 < 512) && p.2.latch)
  let s1 := (s.put PWR_START.PHASE 3).openAdmin
  s1.each edges (fun s p => s.pendEdge p.1 p.2.held)

/-- FIRMWARE ends (R357, R358): the active slot, else the other one, else the start fails with cause 7. -/
def State.endFirmware (s : State) (ok : Nat → Bool) : Option State :=
  let a := s.get FWU_STATUS.ACTIVE_SLOT
  let go (s : State) (k : Nat) : State :=
    ((s.put FWU_STATUS.RUN_SV (s.slotSv k)).put PWR_START.PHASE 2).when s.flash.revertNext (fun s =>
      ({ s with flash := { s.flash with revertNext := false } } : State).raise0 49 (detail [(0, k)]))
  if ok a then some (go s a)
  else if ok (1 - a) then
    let s1 := (((s.put FWU_STATUS.ACTIVE_SLOT (1 - a)).put FWU_STATUS.PROVISIONAL 0).put (slotFld (1 - a)) 3).put (slotFld a) 5
    some ((go s1 (1 - a)).raise0 50 (detail [(0, 1 - a)]))
  else none

/-- PROCESSORS ends: settings are in use, D01–D05 on, the control loops run; those of the lane switch and the bias heaters wait for
light (R197). PORTS begins. -/
def State.endProcessors (s : State) : State :=
  let s1 := (s.chooseSettings).applySettings true
  let s2 := (s1.each (phaseDoms 2) (fun s d => s.startDomain d)).loadTb0
  let s3 := s2.each s2.fitted (fun s i => s.put SCU_LOOP_STAT.STATE (if i < 776 then 4 else 1) i)
  s3.openFirst

/-- LASERS ends: the banks are on and locked; they are armed where the input allows it (R341). -/
def State.endLasers (s : State) : State :=
  let s1 := s.each (phaseDoms 7) (fun s d => s.startDomain d)
  let arm := s.bit PWR_LASER.STABLE && !s.bit PWR_LASER.DISC_FAULT
  (s1.put PWR_LASER.ARMED (b2n arm)).each (if s.part.hz then [0, 1] else []) (fun s e =>
    s.put HZE_STATUS.LASER_OK (b2n (arm && s.domOn (22 + e))) e)

/-- Units that a start calibrates: fitted, and their domain on (R329). -/
def State.calUnits (s : State) : List Nat := (List.range 6).filter (fun u => s.unitFitted u && s.domOn (unitDomain u))

/-- A unit's held calibration is reused (R326). -/
def State.reuses (s : State) (held : Nat) (u : Nat) : Bool :=
  s.bit PWR_START.KIND && (s.calUnit u).gen != 0 && !(s.calUnit u).fail && held / 2 ^ u % 2 == 1 && decide ((s.calUnit u).ageH ≤ 720)

/-- How the start calibrates a unit (R326, R327): 1, a trim, for those of a file that CAL_RESTORE gave, and 0, in full, for the others
then, and for all where a wait has ended without one; else 2, reuse, or 0. -/
def State.calKind (s : State) (held u : Nat) : Nat :=
  match s.calFile with
  | some file => if file / 2 ^ u % 2 = 1 then 1 else 0
  | none => if !s.calFull && s.reuses held u then 2 else 0

/-- CALIBRATION ends (R326, R327). A CAL_RESTORE that the start took ends with it. -/
def State.endCalibration (s : State) (failed held : Nat) : State :=
  let file := s.calFile.getD 0
  let us := s.calUnits
  let s1 := (s.calibrate us (s.calKind held) (fun u => failed / 2 ^ u % 2 == 1)).put PWR_START.RESTORED (b2n s.calFile.isSome)
  let bad := bitSet 6 (fun u => us.contains u && file / 2 ^ u % 2 == 1 && (s1.calUnit u).fail)
  (s1.each (s.descs.filter (fun x => x.opcode == 0x2B && x.phase == .running)) (fun s x =>
    s.endDesc x.id (if bad = 0 then stSuccess else stCalFailed) bad 0)).put PWR_START.PHASE 10

/-- READY (R325, R330). -/
def State.endStart (s : State) : State :=
  let s1 := ((((s.put PWR_START.PHASE 12).put PWR_START.READY 1).put PWR_START.START_MS s.startMs).put PWR_START.FAILS 0).put
    PWR_START.FORCE_COLD 0
  s1.raise0 47 (detail [(0, s.get PWR_START.KIND), (1, s.get PWR_START.RESTORED),
    (3, b2n ((List.range 36).any (fun d => s.bit PWR_DOMAIN.HELD_BACK d))), (32, s.startMs % 4294967296)])

/-! Failed starts and safe mode (R330, R331, R357). -/

/-- Safe mode: D00, D01, flash and one port; polder 0 opens on the port of the settings. `rom`: the loader in boot ROM serves (R358). -/
def State.safeMode (s : State) (rom : Bool) : State :=
  let s1 := (((s.restart true).put PWR_START.SAFE 1).put FWU_STATUS.ROM_LOADER (b2n rom)).chooseSettings.applySettings false
  let s2 := ((s1.startDomain 1).loadTb0).openFirst
  s2.raise0 47 (detail [(2, 1)])

/-- A start fails: FAILS grows, the boot record of a provisional image goes back, a cold start or safe mode follows. -/
def State.failStart (s : State) (cause : Nat) : State :=
  let fails := s.get PWR_START.FAILS
  let s1 := (((s.put PWR_START.FAILS (min 3 (fails + 1))).put PWR_START.FAIL_CAUSE cause).put PWR_START.FAIL_PHASE
    (s.get PWR_START.PHASE)).put PWR_START.FORCE_COLD 1
  let a := s.get FWU_STATUS.ACTIVE_SLOT
  let s2 := s1.when (s.bit FWU_STATUS.PROVISIONAL) (fun s =>
    let s' := (((s.put FWU_STATUS.ACTIVE_SLOT (1 - a)).put FWU_STATUS.PROVISIONAL 0).put (slotFld (1 - a)) 3).put (slotFld a) 5
    { s' with flash := { s'.flash with revertNext := true } })
  if 2 ≤ fails then s2.safeMode (cause == 7) else s2.startAnew true


/-- A rail of a domain that this phase turns on is out of range: the start fails with cause 5 (R315, R330). -/
def State.railOut (s : State) (ph : Nat) : Bool := (phaseDoms ph).any (fun d => s.part.hasDomain d && !s.railsGood d)

/-- START_PHASE_DONE: the phase in progress ends and the next begins. CAL_WAIT ends by rows of its own. -/
def execStartPhaseDone (r : PhaseResult) (s0 : State) : Out :=
  let s : State := { s0 with startMs := s0.startMs + r.ms }
  .next (if !s0.starting then s0
    else if s.railOut (s.get PWR_START.PHASE) then s.failStart 5
    else match s.get PWR_START.PHASE with
      | 1 => (s.endFirmware (fun k => if k = 0 then r.imageOk0 else r.imageOk1)).getD (s.failStart 7)
      | 2 => s.endProcessors
      | 3 => s.put PWR_START.PHASE (if s.bit PWR_START.KIND then 5 else 4)
      | 4 => s.put PWR_START.PHASE 5
      | 5 => (s.each (phaseDoms 5) (fun s d => s.startDomain d)).put PWR_START.PHASE 6
      | 6 => (s.each (List.range 16) (fun s c => (s.startDomain (6 + c)).zeroCluster c)).put PWR_START.PHASE 7
      | 7 =>
        let s1 := s.endLasers
        let skip := s1.setCalWait == 0 ||
          (s1.bit PWR_START.KIND && (s1.calUnitsOf s1.unitMask).all (s1.reuses r.calReuse.toNat))
        s1.put PWR_START.PHASE (if skip then 9 else 8)
      | 9 => s.endCalibration r.calFailed.toNat r.calReuse.toNat
      | 10 => (s.when s.setPlanEn (fun s => s.putPlan (Plan.of s.setPlan) 0)).put PWR_START.PHASE 11
      | 11 => s.endStart
      | _ => s0)

/-- CAL_WAIT_EXPIRED: the wait was that of the settings; the start calibrates in full. -/
def execCalWaitExpired (s : State) : Out :=
  .next (if s.starting && s.get PWR_START.PHASE == 8 then
      ({ s with calFull := true, startMs := s.startMs + s.setCalWait } : State).put PWR_START.PHASE 9
    else s)

/-- START_FAIL: the causes of R330. -/
def execStartFail (cause : Fin 8) (s : State) : Out := .next (if s.starting && cause != 0 then s.failStart cause else s)

/-- START_WATCHDOG: the time in CAL_WAIT does not count. -/
def execStartWatchdog (s : State) : Out :=
  .next (if s.starting && s.get PWR_START.PHASE != 8 then s.failStart 6 else s)

/-! What begins a start (R324, R381). -/

/-- POWER_ON: the backup domain's log is reported once (R345). -/
def execPowerOn (s : State) : Out :=
  .next (if s.mainPower && s.get PWR_START.PHASE != 0 then s
    else
      let s1 : State := { s with mainPower := true, rails := List.replicate 7 true, pins := { s.pins with wake := false } }
      let s2 := ((({ s1 with bkKept := s.vbat } : State).put PWR_BK_STAT.VALID (b2n s.bkKept)).put TIM_TB_STATUS.VALID (b2n s.bkKept) 0).startAnew true
      let n := s2.get PWR_BK_STAT.ENTRIES
      s2.when (n != 0) (fun s => s.raise0 46 (detail [(8, n), (16, s.get PWR_BK_STAT.LOST)])))

/-- What a write of PWR_RESET.KIND begins. -/
def State.resetBy (s : State) (kind : Nat) : State :=
  match kind with
  | 1 => s.warmStart
  | 2 => s.startAnew true
  | 3 => s.safeMode false
  | _ => s

def execResetWarm (p : Fin 4) (s : State) : Out :=
  .next (s.adminWrite p (fun s => s.unlessHeld .PWR_RESET (.reset 1) (fun s => s.resetBy 1)))
def execResetCold (p : Fin 4) (s : State) : Out :=
  .next (s.adminWrite p (fun s => s.unlessHeld .PWR_RESET (.reset 2) (fun s => s.resetBy 2)))
def execResetSafe (p : Fin 4) (s : State) : Out :=
  .next (s.adminWrite p (fun s => s.unlessHeld .PWR_RESET (.reset 3) (fun s => s.resetBy 3)))

/-- RESET_N: low, or released after some time; a start follows where it was low for 10 µs. The test port loads BYPASS at the release
(R385, R389). -/
def execResetN (us : Option Nat) (s : State) : Out :=
  .next (match us with
    | none => { s with pins := { s.pins with resetN := false } }
    | some n =>
      let ir := if [0x00, 0x04, 0x05].contains s.pins.ir.toNat then 0xFF else s.pins.ir
      let s1 : State := { s with pins := { s.pins with resetN := true, ir := ir } }
      if n < 10 || !s.mainPower then s1 else s1.warmStart)

/-! Rails and trips (R315, R382). -/

/-- Domains that fail together, with the lasers off first. One whose units a busy schedule uses is a schedule fault. -/
def State.failDomains (s : State) (ds : List Nat) : State :=
  let lit := s.bit PWR_LASER.ARMED
  let used (d : Nat) : Bool := d == 1 || d == 4 || d == 5 || (decide (6 ≤ d) && decide (d < 22)) || (decide (24 ≤ d) && decide (d < 32))
  (s.driversOff.each ds (fun s d => s.failDomain d)).when (!lit && ds.any used) (fun s => s.schedFault)

/-- RAIL_FAULT. -/
def execRailFault (r : Fin 7) (back : Bool) (s : State) : Out :=
  let out : State := { s with rails := s.rails.set r false }
  let ds := s.domsLive ((List.range 36).filter (fun d => (railsOf d).contains r.val))
  let settle (s' : State) : State := if back then { s' with rails := s'.rails.set r true } else s'
  .next (settle (if ds.isEmpty || !s.mainPower then out else if s.starting then out.failStart 5 else out.failDomains ds))

/-- THERMAL_TRIP: any die above 115 °C for 1 ms. -/
def execThermalTrip (s : State) : Out :=
  .next (if !s.mainPower then s
    else
      let s1 := ({ s with pins := { s.pins with thermTrip := true } } : State).put PWR_START.FORCE_COLD 1
      if s.starting then s1.failStart 5 else s1.failDomains (s1.domsLive ((List.range 35).map (1 + ·))))

/-! The backup domain (R344, R345). -/

/-- An alarm on the cell alone: a log entry, or a count of those lost, and WAKE_N. -/
def State.logAlarm (s : State) (cause : Nat) : State :=
  let n := s.get PWR_BK_STAT.ENTRIES
  let s1 : State := { s with pins := { s.pins with wake := true } }
  if 64 ≤ n then s1.bump PWR_BK_STAT.LOST
  else ((s1.put PWR_BK_LOG.SEC (s.bkCount / 32768) n).put PWR_BK_LOG.CAUSE cause n).put PWR_BK_STAT.ENTRIES (n + 1)

/-- The counter's seconds equal the alarm time, while it is enabled. -/
def State.alarmDue (s : State) : Bool :=
  s.bit PWR_BK_ALARM.EN && s.bkCount / 32768 % 2 ^ 48 == s.get PWR_BK_ALARM.SEC

/-- BACKUP_ALARM: the causes of R345; the time match only where it holds. -/
def execBackupAlarm (cause : Fin 5) (s : State) : Out :=
  .next (if cause = 0 || (cause == 1 && !s.alarmDue) then s
    else
      let s1 := ((s.when (cause == 2) (fun s => s.put PWR_BK_STAT.VBAT_LOW 1)).when (decide (3 ≤ cause.val)) (fun s =>
        s.put PWR_BK_STAT.TEMP_BAD 1))
      if s.mainPower then
        s1.raise0 46 (detail [(0, cause), (8, s1.get PWR_BK_STAT.ENTRIES), (16, s1.get PWR_BK_STAT.LOST)])
      else s1.logAlarm cause)

/-- The log and LOST are cleared. -/
def State.clearLog (s : State) : State :=
  ((s.put PWR_BK_STAT.ENTRIES 0).put PWR_BK_STAT.LOST 0).clearRegs [.PWR_BK_LOG] 0 64
/-- BK_LOG_CLR. -/
def execBkLogClr (p : Fin 4) (s : State) : Out :=
  .next (s.adminWrite p (fun s => s.unlessHeld .PWR_BK_STAT .logClr (fun s => s.clearLog)))

/-- The backup domain loses its content. -/
def State.dropBackup (s : State) : State :=
  let s1 := ((s.put PWR_START.FAILS 0).put PWR_START.FORCE_COLD 0).clearRegs [.PWR_BK_LOG] 0 64
  let s2 := s1.clearRegs [.PWR_BK_STAT, .PWR_BK_ALARM] 0 1
  { s2 with bkCount := 0, bkFrac := 0, bkKept := false }

/-- BACKUP_POWER_LOSS. -/
def execBackupPowerLoss (s : State) : Out := .next { s.dropBackup with vbat := false }

/-- MAIN_POWER_LOSS: what flash and the backup domain hold is left. -/
def execMainPowerLoss (s : State) : Out :=
  .next (if !s.mainPower then s
    else
      let s1 : State := { s.outside with
        regs := keepRegs [.FWU_STATUS, .FWU_XFER, .FWU_FUSE, .FWU_BITMAP, .PWR_BK_STAT, .PWR_BK_ALARM, .PWR_BK_LOG] s.regs
        mainPower := false
        pins := {} }
      let s2 := s1.each [FWU_STATUS.PAUSED, FWU_STATUS.ROM_LOADER, FWU_STATUS.LAST_CODE] (fun s f => s.put f 0)
      let s3 := (s2.put PWR_START.FAILS (s.get PWR_START.FAILS)).put PWR_START.FORCE_COLD (s.get PWR_START.FORCE_COLD)
      if s.vbat then s3 else s3.dropBackup)

end Sys2Proof.Machine
end

