-- ==== Sys2Proof/Machine/Calib.lean ====
section
/-! DEFINITION. The rows of calibration and of settings descriptors (spec/15). -/

namespace Sys2Proof.Machine

/-- Outside a start, calibration waits for no schedule: SCHED_STATE (R263, R334). -/
def State.unlessBusy (s : State) (x : Desc) (g : State → State) : State := if s.schedBusy then s.badState x else g s

/-- A calibration of units ends: SUCCESS, or CAL_FAILED with those that failed. -/
def State.calDone (s : State) (d : Nat) (us : List Nat) : State :=
  let bad := bitSet 6 (fun u => us.contains u && (s.calUnit u).fail)
  s.endDesc d (if bad = 0 then stSuccess else stCalFailed) bad 0

/-- CAL_RUN: the units named, or every fitted unit, in full. -/
def execCalRun (d : Nat) (failed : BitVec 6) (s : State) : Out :=
  .next (s.runDesc d 0x29 (fun x s => s.unlessBusy x (fun s =>
    let us := s.calRunUnits (x.field 0x18 8)
    (s.calibrate us (fun _ => 0) (fun u => failed.toNat / 2 ^ u % 2 == 1)).calDone d us)))

/-- The bytes of a calibration file: its header, and a body that the manual does not give (R335, log 3, DESIGN CHOICE). -/
def State.calFileBytes (s : State) (body : List Byte) : List Byte :=
  let bs := leBytes 4 0x4643484C ++ leBytes 1 1 ++ leBytes 1 s.unitMask ++ leBytes 2 0 ++ leBytes 4 0 ++ leBytes 4 0 ++
    leBytes 8 s.serial.toNat ++ leBytes 8 ((s.base 0).t / 65536 / 1000000000) ++ List.replicate 32 0 ++ body
  bs.take 8 ++ leBytes 4 (crc32c bs) ++ bs.drop 12

/-- CAL_SAVE. The file is that of the moment of issue. -/
def execCalSave (d : Nat) (s : State) : Out :=
  .next (s.runDesc d 0x2A (fun x s =>
    if x.blob.isEmpty then
      let (body, s') := s.drawBytes 1048512
      s'.writeBuffer x (s'.calFileBytes body)
    else s.writeBuffer x x.blob))

/-- The check of R335 that a file fails first. -/
def State.fileCheck (s : State) (bs : List Byte) : Option Nat :=
  let now := (s.base 0).t / 65536 / 1000000000
  if numAt bs 0 4 ≠ 0x4643484C then some 0x11
  else if numAt bs 4 1 % 16 ≠ 1 then some 0x12
  else if crc32c (zeroAt bs 8 4) ≠ numAt bs 8 4 then some 0x13
  else if numAt bs 0x10 8 ≠ s.serial.toNat then some 0x14
  else if !s.bit TIM_TB_STATUS.VALID 0 || decide (numAt bs 0x18 8 + 720 * 3600 < now) then some 0x15 else none

/-- CAL_WAIT ends with a file: the start takes it. The time waited counts in START_MS; how long it was, the command does not say
(R325, R327; log 238). -/
def State.takeFile (s : State) (us : List Nat) : State :=
  let (w, s1) := s.draw
  ({ s1 with calFile := some (bitSet 6 us.contains), startMs := s1.startMs + w.toNat % (s1.setCalWait + 1) } : State).put
    PWR_START.PHASE 9

/-- CAL_RESTORE: a file is checked; in CAL_WAIT the start takes it, else its units are trimmed (R327, R334). -/
def execCalRestore (d : Nat) (failed : BitVec 6) (s : State) : Out :=
  .next (s.runDesc d 0x2B (fun x s =>
    if s.starting && s.calFile.isSome then s
    else s.unlessBusy x (fun s =>
      if x.length 0x20 < 1048576 then s.endDesc d stFileRefused 0x11 0
      else s.readSource x (x.field 0x18 8 / 64 * 64) 1048576 (fun bs s =>
        match s.fileCheck bs with
        | some c => s.endDesc d stFileRefused c 0
        | none =>
          let us := s.calUnitsOf (numAt bs 5 1 % 64)
          if s.starting && s.get PWR_START.PHASE == 8 then s.takeFile us
          else (s.calibrate us (fun _ => 1) (fun u => failed.toNat / 2 ^ u % 2 == 1)).calDone d us))))

/-! Settings (R336–R338). -/

/-- A block with its check word. -/
def withCrc (bs : List Byte) : List Byte := bs.take 0xC ++ leBytes 4 (crc32c (zeroAt bs 0xC 4)) ++ bs.drop 0x10

/-- A settings block with its reserved and growth fields at zero; LANE_PLAN, which has a check word of its own, stays as it is (R8, R338;
log 237, DEDUCED). -/
def cleanSettings (bs : List Byte) : List Byte :=
  bs.take 4 ++ leBytes 4 (numAt bs 4 1 % 16) ++ (bs.drop 8).take 8 ++ List.replicate 48 0 ++ leBytes 1 (numAt bs 0x40 1 % 4) ++
  (bs.drop 0x41).take 2 ++ leBytes 1 0 ++ (bs.drop 0x44).take 16 ++ List.replicate (0x400 - 0x54) 0 ++ (bs.drop 0x400).take 4160 ++
  List.replicate (8192 - 0x1440) 0

/-- What SETTINGS_READ gives: the block in use, or the defaults, with reserved fields as zero. -/
def State.settingsBlock (s : State) : List Byte :=
  withCrc (if s.settings.isEmpty then factoryBlock s.part else cleanSettings s.settings)

/-- SETTINGS_READ: the block in use, or the defaults. -/
def execSettingsRead (d : Nat) (s : State) : Out :=
  .next (s.runDesc d 0x2C (fun x s => s.writeBuffer x s.settingsBlock))

/-- The generation of the latest valid copy. -/
def State.lastGen (s : State) : Nat :=
  match s.pickCopy with
  | some k => numAt (if k = 0 then s.flash.setA else s.flash.setB) 8 4
  | none => 0

/-- The check a block fails: those of its header, and 4 for an embedded lane plan that fails R148. -/
def State.blockCheck (s : State) (bs : List Byte) : Option Nat :=
  match settingsCheck bs with
  | some c => some c
  | none =>
    let plan := (bs.drop 0x400).take 4160
    if (numAt bs 0x51 1 == 1 || plan.any (fun b => b != 0)) && (planCheck s.part false plan).isSome then some 4 else none

/-- SETTINGS_WRITE: both copies take the block under the next generation; it is in use from the next start on. -/
def execSettingsWrite (d : Nat) (s : State) : Out :=
  .next (s.runDesc d 0x2D (fun x s =>
    if x.length 0x20 < 8192 then s.endDesc d stFileRefused 1 0
    else s.readSource x (x.field 0x18 8 / 64 * 64) 8192 (fun bs s =>
      match s.blockCheck bs with
      | some c => s.endDesc d stFileRefused c 0
      | none =>
        let new := withCrc (bs.take 8 ++ leBytes 4 ((s.lastGen + 1) % 4294967296) ++ bs.drop 0xC)
        let s1 : State := { s with flash := { s.flash with setA := new, setB := new } }
        ((s1.put CFG_SETTINGS.A_OK 1).put CFG_SETTINGS.B_OK 1).endDesc d stSuccess 0 0)))

end Sys2Proof.Machine
end

