-- ==== Sys2Proof/Machine/Convert.lean ====
section
/-! DEFINITION. The conversions of VCVT (R31, R32, R61, R390). -/

namespace Sys2Proof.Machine

/-! Shared forms. -/

/-- The rounding of an element at position `p` of its destination, by MOD[1:0]; the reserved mode is mode 0 (R53, R390). -/
def State.cvtMode (s : State) (t : Nat) (f : TF) (p : Nat) : RMode :=
  match f.md.toNat % 4 with
  | 1 => .rtz
  | 2 => .stoch (stochBits (s.tile t).seed (BitVec.ofNat 64 (s.get GLB_STEP_NOW.STEP)) t p)
  | _ => .rne

/-- The position of a lane of v[D] (R390). -/
def regPos (d : BitVec 5) (lane : Nat) : Nat := 2 ^ 25 + 32 * (256 * vnum d + lane)
/-- The position of the element of `w` bits with index `i` of a row at tile-store address `a` (R390). -/
def storePos (a w i : Nat) : Nat := 8 * a + w * i

/-- Conversion results laid out: element bits, and all flags together. -/
def cvtBits (rs : List (Nat × BitVec 4)) : List Nat := rs.map (·.1)
def cvtFlags (rs : List (Nat × BitVec 4)) : BitVec 4 := rs.foldl (fun f r => f ||| r.2) 0

/-- Lanes converted into v[D]. -/
def State.cvtReg (s : State) (t : Fin 192) (i : Instr) (f : TF) (g : Nat → Nat → Nat × BitVec 4) : State :=
  s.issue t i (fun s =>
    let rs := (List.zip (List.range 256) (s.vreg t f.a)).map (fun p => g p.1 p.2)
    ((s.setV t f.d (cvtBits rs)).addFlags t (cvtFlags rs)).advance t)

/-- Lanes converted into a row at s[D], 64-byte aligned: 256 elements of `w` bits. -/
def State.cvtStore (s : State) (t : Fin 192) (f : TF) (w : Nat) (g : Nat → Nat → Nat × BitVec 4) : State :=
  let a := clearLow 6 (s.sreg t f.d).toNat
  s.access t [] [(a, 32 * w)] (fun s =>
    let rs := (List.zip (List.range 256) (s.vreg t f.a)).map (fun p => g (storePos a w p.1) p.2)
    ((s.tsWrite (t * tsSize + a) (leBytes (32 * w) (packBits w (cvtBits rs)))).addFlags t (cvtFlags rs)).advance t)

/-- An FP32 lane converted to a format (R31). -/
def State.cvtTo (s : State) (t : Nat) (f : TF) (fmt : Fmt) (p x : Nat) : Nat × BitVec 4 :=
  fmt.encode (s.cvtMode t f p) (f.modBit 2) false (fFP32.val x)

/-! Minor 0. -/

/-- What minor 0 reads: an element format, integers, or an MX row; IMM[3:0], reserved values read as 0 (R53). -/
inductive CvtSrc where
  | float (fmt : Fmt)
  | int (w : Nat)
  | mx (x : Elem)
  deriving DecidableEq, Repr

def CvtSrc.of (f : TF) : CvtSrc :=
  match f.immf 0 4 with
  | 1 => .float fE5M2
  | 2 => .float fBF16
  | 3 => .float fFP16
  | 4 => .int 8
  | 5 => .int 4
  | 6 => .mx (mxElem (f.immf 4 3))
  | _ => .float fE4M3

/-- Bits of an element of the source. -/
def CvtSrc.width : CvtSrc → Nat
  | .float f => f.width
  | .int w => w
  | .mx x => x.width
/-- Bytes of the source: an MX row has its 8 scales after the elements (R63). -/
def CvtSrc.bytes : CvtSrc → Nat
  | .mx x => 32 * x.width + 8
  | c => 32 * c.width
/-- Address bits the source clears (R54). -/
def CvtSrc.clear : CvtSrc → Nat
  | .mx _ => 6
  | c => if c.width = 16 then 1 else 0

/-- A lane of minor 0. The conversion is exact; where an MX element under its scale lies beyond FP32, no rule says what the
lane holds: a free value of the element and its scale (`open_`), with the overflow and inexact flags of R31 (log 26, DESIGN CHOICE). -/
def cvtLane (c : CvtSrc) (scale : Nat) (open_ x : Nat) : Nat × BitVec 4 :=
  match c with
  | .int w => (uint 32 (sint w x), 0)
  | .float f => if f.val x = .nan then (fFP32.qnan, 0) else ((fFP32.round (f.val x)).bits, 0)
  | .mx e =>
    if scale = 0xFF then (fFP32.qnan, 0)
    else
      let r := fFP32.round ((e.fmt.val x).scale ((scale : Int) - 127))
      if r.may &&& flOverflow = 0 then (r.bits, 0) else (open_, flOverflow ||| flInexact)

/-- VCVT minor 0: tile store at s[A] to v[D], FP32 or INT32 lanes; MOD is ignored. -/
def execVcvtFromStore (t : Fin 192) (f : TF) (s : State) : Out :=
  .next (s.issue t (.vcvtFromStore t f) (fun s =>
    let c := CvtSrc.of f
    let a := clearLow c.clear (s.sreg t f.a).toNat
    s.access t [(a, c.bytes)] [] (fun s =>
      let raw := s.tsRead (t * tsSize + a) c.bytes
      let xs := unpackBits c.width 256 (leNat (raw.take (32 * c.width)))
      let sc := (raw.drop (32 * c.width)).map (·.toNat)
      let rs := (List.zip (List.range 256) xs).map (fun p =>
        cvtLane c (sc.getD (p.1 / 32) 0) (Config.mxBeyond (f.immf 4 3) (sc.getD (p.1 / 32) 0) p.2).toNat p.2)
      ((s.setV t f.d (cvtBits rs)).addFlags t (cvtFlags rs)).advance t)))

/-! Minors 1–7. -/

/-- VCVT minor 1: FP32 to BF16. -/
def execVcvtBf16 (t : Fin 192) (f : TF) (s : State) : Out :=
  .next (s.cvtReg t (.vcvtBf16 t f) f (fun i x => s.cvtTo t f fBF16 (regPos f.d i) x))

/-- VCVT minor 2: FP32 to binary16. -/
def execVcvtFp16 (t : Fin 192) (f : TF) (s : State) : Out :=
  .next (s.cvtReg t (.vcvtFp16 t f) f (fun i x => s.cvtTo t f fFP16 (regPos f.d i) x))

/-- VCVT minor 3: FP32 to 256 bytes of E4M3. -/
def execVcvtE4m3 (t : Fin 192) (f : TF) (s : State) : Out :=
  .next (s.issue t (.vcvtE4m3 t f) (fun s => s.cvtStore t f 8 (fun p x => s.cvtTo t f fE4M3 p x)))

/-- VCVT minor 4: FP32 to 256 bytes of E5M2. -/
def execVcvtE5m2 (t : Fin 192) (f : TF) (s : State) : Out :=
  .next (s.issue t (.vcvtE5m2 t f) (fun s => s.cvtStore t f 8 (fun p x => s.cvtTo t f fE5M2 p x)))

/-- The 8 blocks of an MX row at address `a`. -/
def State.mxRow (s : State) (t : Nat) (f : TF) (x : Elem) (a : Nat) : List (Nat × List Nat × BitVec 4) :=
  let vs := (s.vreg t f.a).map fFP32.val
  (List.range 8).map (fun b =>
    mxBlock x (fun i => s.cvtMode t f (storePos a x.width (32 * b + i))) ((vs.drop (32 * b)).take 32))

/-- VCVT minor 5: FP32 to an MX row, 256 elements in 8 blocks, then 8 E8M0 scales (R32, R63). -/
def execVcvtMxRow (t : Fin 192) (f : TF) (s : State) : Out :=
  .next (s.issue t (.vcvtMxRow t f) (fun s =>
    let x := mxElem (f.immf 0 3)
    let a := clearLow 6 (s.sreg t f.d).toNat
    s.access t [] [(a, 32 * x.width + 8)] (fun s =>
      let bs := s.mxRow t f x a
      let row := leBytes (32 * x.width) (packBits x.width (bs.flatMap (·.2.1))) ++ bs.map (fun b => BitVec.ofNat 8 b.1)
      ((s.tsWrite (t * tsSize + a) row).addFlags t (bs.foldl (fun g b => g ||| b.2.2) 0)).advance t)))

/-- VCVT minor 6: FP32 to integers that saturate; IMM[1:0] 0 INT8 and 1 INT4 to tile store, 2 INT32 to v[D]; 3 is 0 (R53). -/
def execVcvtIntegers (t : Fin 192) (f : TF) (s : State) : Out :=
  .next (match f.immf 0 2 with
    | 2 => s.cvtReg t (.vcvtIntegers t f) f (fun i x => encodeInt 32 (s.cvtMode t f (regPos f.d i)) (fFP32.val x))
    | 1 => s.issue t (.vcvtIntegers t f) (fun s =>
      s.cvtStore t f 4 (fun p x => encodeInt 4 (s.cvtMode t f p) (fFP32.val x)))
    | _ => s.issue t (.vcvtIntegers t f) (fun s =>
      s.cvtStore t f 8 (fun p x => encodeInt 8 (s.cvtMode t f p) (fFP32.val x))))

/-- VCVT minor 7: INT32 to FP32. -/
def execVcvtInt32Fp32 (t : Fin 192) (f : TF) (s : State) : Out :=
  .next (s.cvtReg t (.vcvtInt32Fp32 t f) f (fun i x =>
    fFP32.encode (s.cvtMode t f (regPos f.d i)) (f.modBit 2) false (.fin (decide (sint 32 x < 0)) (sint 32 x).natAbs 0)))

end Sys2Proof.Machine
end

