-- ==== Sys2Proof/Machine/Sign.lean ====
section
/-! DEFINITION. The signature scheme that R349 names: SHA-384 and ECDSA over P-384. The manual names them and gives no more; they are as
FIPS 180-4, FIPS 186-4 and SEC 2 publish them (log 70, PRESUMED). -/

namespace Sys2Proof.Machine

/-! SHA-384. -/

def w64 (x : Nat) : Nat := x % 2 ^ 64
def rotr (n x : Nat) : Nat := x / 2 ^ n + (x % 2 ^ n) * 2 ^ (64 - n)

/-- The largest number whose `k`-th power is at most `x`, found from bit `n` downward. -/
def rootOf (k x : Nat) : Nat → Nat → Nat
  | 0, r => r
  | n + 1, r => rootOf k x n (if (r + 2 ^ n) ^ k ≤ x then r + 2 ^ n else r)

def isPrime (n : Nat) : Bool := decide (2 ≤ n) && (List.range n).all (fun d => decide (d < 2) || n % d != 0)
/-- The first 80 primes. -/
def primes80 : List Nat := ((List.range 410).filter isPrime).take 80
/-- The round constants: 64 bits of the fractional parts of cube roots of primes. -/
def shaK : List Nat := primes80.map (fun p => w64 (rootOf 3 (p * 2 ^ 192) 70 0))
/-- The initial value: 64 bits of the fractional parts of square roots of the 9th to 16th primes. -/
def shaIv : List Nat := ((primes80.drop 8).take 8).map (fun p => w64 (rootOf 2 (p * 2 ^ 128) 70 0))

def beNat (bs : List Byte) : Nat := bs.foldl (fun x b => x * 256 + b.toNat) 0

/-- The message padded to whole blocks of 128 bytes. -/
def shaPad (bs : List Byte) : List Byte :=
  bs ++ [0x80] ++ List.replicate ((239 - bs.length % 128) % 128) 0 ++ beBytes 16 (8 * bs.length)

/-- The message schedule, newest word first. -/
def shaSchedule : Nat → List Nat → List Nat
  | 0, ws => ws
  | n + 1, ws =>
    let s0 (x : Nat) := rotr 1 x ^^^ rotr 8 x ^^^ x / 2 ^ 7
    let s1 (x : Nat) := rotr 19 x ^^^ rotr 61 x ^^^ x / 2 ^ 6
    shaSchedule n (w64 (s1 (ws.getD 1 0) + ws.getD 6 0 + s0 (ws.getD 14 0) + ws.getD 15 0) :: ws)

/-- One round over the eight working words. -/
def shaRound (v : List Nat) (kw : Nat) : List Nat :=
  match v with
  | [a, b, c, d, e, f, g, h] =>
    let t1 := h + (rotr 14 e ^^^ rotr 18 e ^^^ rotr 41 e) + ((e &&& f) ^^^ ((2 ^ 64 - 1 - e) &&& g)) + kw
    let t2 := (rotr 28 a ^^^ rotr 34 a ^^^ rotr 39 a) + ((a &&& b) ^^^ (a &&& c) ^^^ (b &&& c))
    [w64 (t1 + t2), a, b, c, w64 (d + t1), e, f, g]
  | _ => v

/-- One block. -/
def shaBlock (h : List Nat) (bs : List Byte) : List Nat :=
  let ws := (List.range 16).map (fun i => beNat ((bs.drop (8 * i)).take 8))
  let all := (shaSchedule 64 ws.reverse).reverse
  List.zipWith (fun x y => w64 (x + y)) h ((List.zipWith (· + ·) shaK all).foldl shaRound h)

/-- The blocks of a padded message. -/
def shaBlocks : Nat → List Byte → List Nat → List Nat
  | 0, _, h => h
  | n + 1, bs, h => shaBlocks n (bs.drop 128) (shaBlock h (bs.take 128))

/-- SHA-384 of a message: 48 bytes. -/
def sha384 (bs : List Byte) : List Byte :=
  let p := shaPad bs
  ((shaBlocks (p.length / 128) p shaIv).take 6).flatMap (beBytes 8)

/-! ECDSA over P-384. -/

def p384 : Nat := 2 ^ 384 - 2 ^ 128 - 2 ^ 96 + 2 ^ 32 - 1
def n384 : Nat := 0xFFFFFFFFFFFFFFFFFFFFFFFFFFFFFFFFFFFFFFFFFFFFFFFFC7634D81F4372DDF581A0DB248B0A77AECEC196ACCC52973
def b384 : Nat := 0xB3312FA7E23EE7E4988E056BE3F82D19181D9C6EFE8141120314088F5013875AC656398D8A2ED19D2A85C8EDD3EC2AEF
def gx384 : Nat := 0xAA87CA22BE8B05378EB1C71EF320AD746E1D3B628BA79B9859F741E082542A385502F25DBF55296C3A545E3872760AB7
def gy384 : Nat := 0x3617DE4A96262C6F5D9E98BF9292DC29F8F41DBD289A147CE9DA3113B5F0B8C00A60B1CE1D7E819D7A431D7C90EA0E5F

/-- b^e mod m, over the low `n` bits of e. -/
def powMod (b e m : Nat) : Nat → Nat
  | 0 => 1 % m
  | n + 1 => (powMod (b * b % m) (e / 2) m n) * (if e % 2 = 1 then b else 1) % m
/-- The inverse modulo a prime of 384 bits. -/
def invMod (x m : Nat) : Nat := powMod (x % m) (m - 2) m 384

/-- A point of the curve; none is the point at infinity. -/
abbrev Pt := Option (Nat × Nat)

def ptAdd : Pt → Pt → Pt
  | none, q => q
  | p, none => p
  | some (x1, y1), some (x2, y2) =>
    if x1 = x2 ∧ (y1 + y2) % p384 = 0 then none
    else
      let k := if x1 = x2 then 3 * (x1 * x1 + (p384 - 1)) * invMod (2 * y1) p384 % p384
        else (y2 + p384 - y1) * invMod (x2 + p384 - x1) p384 % p384
      let x3 := (k * k + 2 * p384 - x1 - x2) % p384
      some (x3, (k * (x1 + p384 - x3) + p384 - y1) % p384)

/-- k times a point, over the low `n` bits of k. -/
def ptMul (k : Nat) (q : Pt) : Nat → Pt
  | 0 => none
  | n + 1 => ptAdd (if k % 2 = 1 then q else none) (ptMul (k / 2) (ptAdd q q) n)

def onCurve (x y : Nat) : Bool :=
  decide (x < p384) && decide (y < p384) && (y * y) % p384 == (x * x * x + (p384 - 3) * x + b384) % p384

/-- A signature, r then s of 48 bytes each, verifies under an uncompressed public point of 97 bytes over a hash. -/
def ecdsaOk (key sig hash : List Byte) : Bool :=
  let x := beNat ((key.drop 1).take 48)
  let y := beNat ((key.drop 49).take 48)
  let r := beNat (sig.take 48)
  let s := beNat ((sig.drop 48).take 48)
  let w := invMod s n384
  key.head? == some 4 && onCurve x y && decide (0 < r) && decide (r < n384) && decide (0 < s) && decide (s < n384) &&
    (match ptAdd (ptMul (beNat hash * w % n384) (some (gx384, gy384)) 384) (ptMul (r * w % n384) (some (x, y)) 384) with
     | some (vx, _) => vx % n384 == r
     | none => false)

end Sys2Proof.Machine
end

