-- ==== Sys2Proof/Machine/Firmware.lean ====
section
/-! DEFINITION. The rows of firmware update (spec/16): transfer, activation, the management pause, commit and revert. -/

namespace Sys2Proof.Machine

/-! The image header (R348). -/

/-- Every section of a header lies inside its image. -/
def sectionsInside (h : List Byte) : Bool :=
  (List.range 7).all (fun i => decide (numAt h (0x120 + 16 * i) 4 + numAt h (0x124 + 16 * i) 4 ≤ numAt h 0x8 4))

/-- The check of R348 that a header fails first. -/
def State.headerCheck (s : State) (h : List Byte) : Option Nat :=
  let size := numAt h 0x8 4
  if numAt h 0 4 ≠ 0x5746484C then some 0x22
  else if numAt h 4 1 % 16 ≠ 1 then some 0x23
  else if numAt h 6 2 ≠ 4096 then some 0x22
  else if size < 4096 ∨ 50331648 < size then some 0x22
  else if crc32c (zeroAt (zeroAt h 0xC 4) 0xC0 96) ≠ numAt h 0xC 4 then some 0x22
  else if numAt h 0x10 4 < s.get FWU_FUSE.MIN_SV then some 0x24
  else if numAt h 0x14 2 ≠ (size + 65535) / 65536 then some 0x22
  else if numAt h 0x16 1 / 2 ^ (s.part.code - 1) % 2 = 0 then some 0x2A
  else if !sectionsInside h then some 0x22 else none

/-- The key of a header is one fused and not revoked (R349). -/
def State.keyOk (s : State) (h : List Byte) : Bool :=
  let k := numAt h 5 1 % 4
  s.get FWU_FUSE.REVOKED / 2 ^ k % 2 == 0 && s.flash.keyHash.getD k [] == sha384 ((h.drop 0x50).take 97)

/-- SIGNATURE verifies over the header, and DIGEST matches the body (R349). -/
def signedOk (h body : List Byte) : Bool :=
  ecdsaOk ((h.drop 0x50).take 97) ((h.drop 0xC0).take 96) (sha384 (zeroAt (zeroAt h 0xC 4) 0xC0 96)) &&
    sha384 body == (h.drop 0x20).take 48

/-- What an image in a slot fails first of R348 and R349. -/
def State.slotCheck (s : State) (k : Nat) : Option Nat :=
  let h := s.flash.slots.read (slotAt k) 4096
  let body := s.flash.slots.read (slotAt k + 4096) (numAt h 0x8 4 - 4096)
  match s.headerCheck h with
  | some c => some c
  | none => if !s.keyOk h then some 0x25 else if !signedOk h body then some 0x29 else none

/-! Transfer (R350, R351). -/

/-- The slot that does not run. -/
def State.otherSlot (s : State) : Nat := 1 - s.get FWU_STATUS.ACTIVE_SLOT

/-- A firmware descriptor is refused with a check code. -/
def State.fwRefuse (s : State) (d code : Nat) : State := (s.put FWU_STATUS.LAST_CODE code).endDesc d stFileRefused code 0

/-- The bit of a chunk, and the number of bits set. -/
def State.chunkSet (s : State) (i : Nat) : Bool := s.get FWU_BITMAP.CHUNK (i / 64) / 2 ^ (i % 64) % 2 == 1
def State.chunksSet (s : State) : Nat := ((List.range 768).filter s.chunkSet).length
/-- The bit of a chunk takes a value, and DONE follows. -/
def State.markChunk (s : State) (i : Nat) (b : Bool) : State :=
  let s1 := s.put FWU_BITMAP.CHUNK (setBits (s.get FWU_BITMAP.CHUNK (i / 64)) (i % 64) 1 (b2n b)) (i / 64)
  s1.put FWU_XFER.DONE s1.chunksSet
/-- Every chunk of the open transfer is written and checked. -/
def State.allChunks (s : State) : Bool := s.bit FWU_XFER.OPEN && (List.range (s.get FWU_XFER.CHUNKS)).all s.chunkSet

/-- The bitmap is empty. -/
def State.clearBitmap (s : State) : State := (s.clearRegs [.FWU_BITMAP] 0 12).put FWU_XFER.DONE 0

/-- A header opens a transfer, or continues that of the same DIGEST. -/
def State.openTransfer (s : State) (h : List Byte) : State :=
  let dg := (h.drop 0x20).take 48
  if s.bit FWU_XFER.OPEN && s.flash.digest == dg then s
  else
    let s1 := ({ s with flash := { s.flash with digest := dg } } : State).clearBitmap
    (((s1.put FWU_XFER.OPEN 1).put FWU_XFER.CHUNKS (numAt h 0x14 2)).put FWU_XFER.DIGEST_ID (leNat (dg.take 4))).put
      (slotFld s.otherSlot) 1

/-- The bytes of chunk `i` that its check word covers: of the first from 4,096 on, of the last those of the image. -/
def chunkBody (size i : Nat) (bs : List Byte) : List Byte :=
  let part := bs.take (size - 65536 * i)
  if i = 0 then part.drop 4096 else part

/-- A chunk is programmed and read back against its check word. -/
def State.writeChunk (s : State) (d i : Nat) (bs : List Byte) : State :=
  let k := s.otherSlot
  let s1 := s.markChunk i false
  let s2 : State := { s1 with flash := { s1.flash with slots := s1.flash.slots.write (slotAt k + 65536 * i) bs } }
  if crc32c (chunkBody (s2.slotNum k 0x8 4) i bs) = s2.slotNum k (0x200 + 4 * i) 4 then
    let s3 := s2.markChunk i true
    (s3.put (slotFld k) (if s3.allChunks then 2 else 1)).endDesc d stSuccess 0 0
  else (s2.put (slotFld k) 1).fwRefuse d 0x27

/-- FW_CHUNK. -/
def execFwChunk (d : Nat) (s : State) : Out :=
  .next (s.runDesc d 0x30 (fun x s =>
    let i := min 767 (x.field 0x20 2)
    if s.bit FWU_STATUS.PROVISIONAL then s.fwRefuse d 0x2B
    else if i ≠ 0 ∧ s.bit FWU_XFER.OPEN = false then s.fwRefuse d 0x21
    else if i ≠ 0 ∧ s.get FWU_XFER.CHUNKS ≤ i then s.fwRefuse d 0x26
    else s.readSource x (x.field 0x18 8 / 64 * 64) 65536 (fun bs s =>
      if i ≠ 0 then s.writeChunk d i bs
      else match s.headerCheck (bs.take 4096) with
        | some c => s.fwRefuse d c
        | none => if s.keyOk (bs.take 4096) then (s.openTransfer (bs.take 4096)).writeChunk d 0 bs else s.fwRefuse d 0x25)))

/-! Activation and the pause (R352, R353, R356). -/

/-- The boot record names slot `k`; what ran until now takes state `old`. -/
def State.selectSlot (s : State) (k prov old : Nat) : State :=
  (((s.put FWU_STATUS.ACTIVE_SLOT k).put FWU_STATUS.PROVISIONAL prov).put (slotFld k) 3).put (slotFld (1 - k)) old

/-- The pause begins: the hand-over of the switch control units with it (R207). -/
def State.beginPause (s : State) : State :=
  let s1 := ({ s with scu := { s.scu with handover := s.scu.holder } } : State).put FWU_STATUS.PAUSED 1
  s1.when s.scu.tracking State.handOver

/-- A re-cable is armed or running (R352). -/
def State.recabling (s : State) : Bool := s.get LSW_STATUS.STATE != 0 || s.recable.isSome

/-- FW_ACTIVATE. Its record follows the pause. -/
def execFwActivate (d : Nat) (s : State) : Out :=
  .next (s.runDesc d 0x31 (fun _ s =>
    let k := s.otherSlot
    if s.bit FWU_STATUS.PAUSED then s
    else if s.bit FWU_STATUS.PROVISIONAL then s.fwRefuse d 0x2B
    else if s.recabling then s.fwRefuse d 0x2E
    else if !s.allChunks then s.fwRefuse d 0x28
    else match s.slotCheck k with
      | some c => (s.put (slotFld k) 5).fwRefuse d c
      | none => (((s.selectSlot k 1 4).clearBitmap.put FWU_XFER.OPEN 0).put FWU_XFER.CHUNKS 0).beginPause))

/-- FW_REVERT: the previous image runs as committed after the pause. -/
def execFwRevert (d : Nat) (s : State) : Out :=
  .next (s.runDesc d 0x33 (fun _ s =>
    if s.bit FWU_STATUS.PAUSED then s
    else if s.bit FWU_STATUS.PROVISIONAL then (s.selectSlot s.otherSlot 0 4).beginPause else s.fwRefuse d 0x2B))

/-- A write that waited for the end of a pause takes effect, or waits on for the first sample of a new active unit (R208). -/
def State.replayHeld (s : State) (c : Held) : State :=
  match c with
  | .reg p addr be v =>
    match s.target p addr with
    | .reg r i j _ copy => s.unlessHeld r c (fun s => s.noteHz (s.writeReg r i j copy be v.toNat))
    | _ => s
  | .mode i m => s.unlessHeld .SCU_LOOP_CTRL c (fun s => s.setMode i m)
  | .restart i => s.unlessHeld .SCU_LOOP_CTRL c (fun s => s.restartReq i)
  | .coef i v => s.unlessHeld .SCU_LOOP_COEF c (fun s => s.writeCoef i v)
  | .scuSwitch => s.switchReq
  | .lane l on => s.laneReq l on
  | .retrain k => s.retrainReq k
  | .shape be v => s.writeShape be v
  | .discMs v => s.setDiscMs v
  | .logClr => s.clearLog
  | .reset kind => s.resetBy kind

/-- The descriptors whose pause this is. -/
def State.pauseDescs (s : State) : List Desc :=
  s.descs.filter (fun x => x.phase == .running && (x.opcode == 0x31 || x.opcode == 0x33))

/-- PAUSE_END: the new image runs, its descriptor ends, held writes take effect in their order. -/
def execPauseEnd (s : State) : Out :=
  .next (if !s.bit FWU_STATUS.PAUSED then s
    else
      let k := s.get FWU_STATUS.ACTIVE_SLOT
      let s1 := ((s.put FWU_STATUS.PAUSED 0).put FWU_STATUS.ROM_LOADER 0).put FWU_STATUS.RUN_SV (s.slotSv k)
      let s2 := ({ s1 with scu := { s1.scu with handover := none }, heldWrites := [] } : State).each s.pauseDescs (fun s x =>
        s.endDesc x.id stSuccess 0 0)
      let s3 := s2.raise0 48 (detail [(0, k), (32, s.slotSv k)])
      s3.each s.heldWrites (fun s c => s.replayHeld c))

/-! Commit (R355). -/

/-- The image is committed; the host is told when few fuse increments are left. -/
def State.commitImage (s : State) (d : Nat) : State :=
  let left := 255 - s.get FWU_FUSE.USED
  ((s.put FWU_STATUS.PROVISIONAL 0).when (decide (left ≤ 8)) (fun s => s.raise0 51 (detail [(0, left)]))).endDesc d stSuccess 0 0

/-- FW_COMMIT. -/
def execFwCommit (d : Nat) (s : State) : Out :=
  .next (s.runDesc d 0x32 (fun _ s =>
    let sv := s.get FWU_STATUS.RUN_SV
    let used := s.get FWU_FUSE.USED
    if !s.bit FWU_STATUS.PROVISIONAL then s.fwRefuse d 0x2B
    else if s.bit CFG_SETTINGS.DEFAULTED && s.get CFG_SETTINGS.CAUSE == 2 then s.fwRefuse d 0x2C
    else if sv ≤ s.get FWU_FUSE.MIN_SV then s.commitImage d
    else if 255 ≤ used then s.fwRefuse d 0x2D
    else ((s.put FWU_FUSE.USED (used + 1)).put FWU_FUSE.MIN_SV sv).commitImage d))

end Sys2Proof.Machine
end

