-- ==== Sys2Proof/Machine/Counters.lean ====
section
/-! DEFINITION. The rows of counters and test multiplexers (spec/17). -/

namespace Sys2Proof.Machine

/-! Counters (R361, R362). -/

/-- The step-table index of the current step. -/
def State.stepIndex (s : State) : Option Nat :=
  s.sched.image.map (fun im => s.get GLB_STEP_NOW.STEP % im.steps.length)

/-- The keys of counter `c` match tile `t`, where it counts `event`. -/
def State.counts (s : State) (c t event : Nat) : Bool :=
  let pc := (s.tile t).pc.toNat
  s.bit DBG_CNT_CFG.EN c && s.get DBG_CNT_CFG.EVENT c == event &&
    (s.get DBG_CNT_CFG.TILE c == 255 || s.get DBG_CNT_CFG.TILE c == t) &&
    (s.bit DBG_CNT_CFG.ANY_STEP c || s.stepIndex == some (s.get DBG_CNT_CFG.STEP c)) &&
    decide (s.get DBG_CNT_CFG.PC_LO c ≤ pc) && decide (pc ≤ s.get DBG_CNT_CFG.PC_HI c)

/-- Counter `c` grows by `n`; a wrap adds to OVF, and the first of a snapshot interval is reported (R364). -/
def State.countUp (s : State) (c n : Nat) : State :=
  let x := s.ctr c
  let wraps := (x.value + n) / 2 ^ 48
  let s1 := s.setCtr c { x with value := (x.value + n) % 2 ^ 48, ovf := min 255 (x.ovf + wraps) }
  if wraps = 0 ∨ s.wrapped = true then s1 else ({ s1 with wrapped := true } : State).raise0 56 (detail [(0, c)])

/-- COUNTER_INCREMENT. -/
def execCounterIncrement (t : Fin 192) (event : Fin 8) (n : Nat) (s : State) : Out :=
  .next (s.each ((List.range 1024).filter (fun c => s.counts c t event)) (fun s c => s.countUp c n))

/-- A whole write of DBG_CNT_CFG by its clamps (R370). -/
def State.setCtrCfg (s : State) (c : Nat) (v : Nat) : State :=
  let tile := bitsOf v 0 8
  let lo := bitsOf v 33 15
  s.each [(DBG_CNT_CFG.TILE, if 192 ≤ tile then 255 else tile), (DBG_CNT_CFG.EN, bitsOf v 8 1),
    (DBG_CNT_CFG.EVENT, if 7 < bitsOf v 9 4 then 0 else bitsOf v 9 4), (DBG_CNT_CFG.OWNER, bitsOf v 13 3),
    (DBG_CNT_CFG.STEP, bitsOf v 16 16), (DBG_CNT_CFG.ANY_STEP, bitsOf v 32 1), (DBG_CNT_CFG.PC_LO, lo),
    (DBG_CNT_CFG.PC_HI, max lo (bitsOf v 48 15))] (fun s fv => s.put fv.1 fv.2 c)

/-- COUNTER_CFG_WRITE. -/
def execCounterCfgWrite (p : Fin 4) (c : Fin 1024) (v : BitVec 64) (s : State) : Out :=
  .next (s.adminWrite p (fun s => (s.setCtrCfg c v.toNat).setCtr c { reprog := true }))

/-! Snapshots (R363). -/

/-- The counters a polder captures. -/
def State.ctrsOf (s : State) (pol : Nat) : List Nat :=
  (List.range 1024).filter (fun c => pol == 0 || s.get DBG_CNT_CFG.OWNER c == pol)

/-- The header and records of a snapshot. -/
def State.snapshot (s : State) (pol : Nat) : List Byte :=
  let cs := s.ctrsOf pol
  leBytes 4 0x4E43484C ++ leBytes 2 1 ++ leBytes 2 cs.length ++ leBytes 8 (s.get GLB_STEP_NOW.STEP) ++
  leBytes 8 (s.get TIM_MTICK.TICKS) ++ leBytes 4 (s.shortStamp (s.stampBase pol)) ++ List.replicate 36 0 ++
  cs.flatMap (fun c =>
    let x := s.ctr c
    leBytes 6 x.value ++ leBytes 1 x.ovf ++ leBytes 1 (b2n x.reprog + 2 * b2n (x.ovf == 255) + 4 * s.get DBG_CNT_CFG.EN c) ++
    leBytes 2 c ++ List.replicate 6 0)

/-- COUNTER_SNAPSHOT: the capture is made once; it clears each REPROG captured. -/
def execCounterSnapshot (d : Nat) (s : State) : Out :=
  .next (s.runDesc d 0x39 (fun x s =>
    if s.bit FWU_STATUS.PAUSED then s
    else if x.blob.isEmpty && decide (64 + 16 * (s.ctrsOf x.pol).length ≤ x.length 0x20) then
      let s1 : State := { s.each (s.ctrsOf x.pol) (fun s c => s.setCtr c { s.ctr c with reprog := false }) with wrapped := false }
      s1.writeBuffer x (s.snapshot x.pol)
    else s.writeBuffer x (s.snapshot x.pol)))

/-! Test multiplexers (R368). -/

/-- The pins become live, or low again. -/
def State.setTmux (s : State) (on : Bool) : State :=
  if s.bit DBG_TMUX_CTRL.UNLOCKED = on then s
  else (s.put DBG_TMUX_CTRL.UNLOCKED (b2n on)).raise0 58 (detail [(0, b2n on)])

/-- TMUX_KEY: the two keys one after the other unlock; any other key restarts. -/
def execTmuxKey (p : Fin 4) (v : BitVec 16) (s : State) : Out :=
  .next (s.adminWrite p (fun s =>
    if v = 0xC3A5 ∧ s.tmuxStep = 1 then ({ s with tmuxStep := 0 } : State).setTmux true
    else { s with tmuxStep := if v = 0x7A3C then 1 else 0 }))

/-- TMUX_KEY_TIMEOUT. -/
def execTmuxKeyTimeout (s : State) : Out := .next { s with tmuxStep := 0 }

/-- TMUX_LOCK. -/
def execTmuxLock (p : Fin 4) (s : State) : Out := .next (s.adminWrite p (fun s => s.setTmux false))

/-- The level of a signal of the table of R368. -/
def State.signalLevel (s : State) (v : Nat) : Bool :=
  if v = 0 then false
  else if v ≤ 0xC0 then (s.tile (v - 1)).st == .complete
  else if 0x100 ≤ v ∧ v < 0x110 then s.clusterDone (v - 0x100)
  else if 0x160 ≤ v ∧ v < 0x170 then (s.engine (v - 0x160)).batch.isSome
  else if 0x200 ≤ v ∧ v < 0x280 then s.get LNK_STATE.STATE (v - 0x200) == 2 || s.get LNK_STATE.STATE (v - 0x200) == 3
  else match v with
    | 0x110 => s.sched.join0
    | 0x111 => s.sched.join1
    | 0x120 => s.bit GLB_STEP_STATE.HELD
    | 0x121 => s.bit GLB_STEP_STATE.HOLDING
    | 0x130 => s.scu.holder == some 0
    | 0x131 => s.scu.holder == some 1
    | 0x140 => s.bit PWR_LASER.ARMED
    | 0x141 => s.bit PWR_LASER.A_SAFE
    | 0x142 => s.bit PWR_LASER.B_SAFE
    | 0x150 => s.domOn 1 && !s.bit PWR_IDLE.IDLE
    | 0x170 => s.hzReady 0
    | 0x171 => s.hzReady 1
    | _ => false

/-- The level of pin TMUX[k]. -/
def State.tmuxPin (s : State) (k : Nat) : Bool :=
  s.bit DBG_TMUX_CTRL.UNLOCKED && s.signalLevel (s.get DBG_TMUX_SEL.SIGNAL k)

end Sys2Proof.Machine
end

