-- ==== Sys2Proof/Machine/Issue.lean ====
section
/-! DEFINITION. The issue of descriptors: order, the checks of R258, dispatch (spec/12). -/

namespace Sys2Proof.Machine

/-! Units absent (R3, R13, R260). -/

/-- The DETAIL of UNIT_ABSENT, where the descriptor names a unit that is not fitted. -/
def State.absentUnit (s : State) (x : Desc) : Option Nat :=
  match x.opcode with
  | 0x28 => if s.part.hasDomain x.domain then none else some (1 + 256 * x.domain)
  | 0x29 =>
    ((List.range 6).find? (fun u => x.field 0x18 8 / 2 ^ u % 2 == 1 && !s.unitFitted u)).map (fun u =>
      if u < 2 then 2 + 256 * u else 3 + 256 * (u - 2))
  | _ => none

/-! Units that cannot take a descriptor (R263, R270, R320, R328, R358). -/

/-- Safe mode serves these opcodes, and the loader in boot ROM these. -/
def safeOps : List Nat := [0x01, 0x2C, 0x2D, 0x30, 0x31, 0x32, 0x33, 0x38, 0x39]
def romOps : List Nat := [0x01, 0x30, 0x31]

/-- The phase of a start that turns a domain on. -/
def domPhase (d : Nat) : Nat := if d < 6 then 2 else if d < 22 then 6 else if 24 ≤ d ∧ d < 32 then 5 else 7

/-- The phase of a start that must have ended for the unit of a descriptor, and a domain of that unit. -/
def Desc.needs (x : Desc) : Nat × Nat :=
  match x.opcode with
  | 0x10 | 0x11 | 0x13 => (6, 6)
  | 0x20 => (9, 32)
  | 0x28 => (domPhase x.domain, x.domain)
  | 0x29 | 0x2A | 0x2B => (9, 32)
  | 0x2E => (7, 32)
  | 0x40 => if x.field 0x30 1 = 1 ∨ x.field 0x30 1 = 2 ∨ x.field 0x30 1 = 3 then (2, 1) else (5, 24)
  | _ => (2, 0)

/-- The descriptor waits for a phase of the start in progress; CAL_RESTORE is served in CAL_WAIT (R328). -/
def State.phaseLeft (s : State) (x : Desc) : Bool :=
  s.starting && decide (s.get PWR_START.PHASE ≤ x.needs.1) && !(x.opcode == 0x2B && s.get PWR_START.PHASE == 8)

/-- The DETAIL of UNIT_UNAVAILABLE: the first reason that holds in the order 7, 8, 1, 2, 3, 4, 5, 6. -/
def State.unavailable (s : State) (x : Desc) : Option Nat :=
  let op := x.opcode
  if (s.bit PWR_START.SAFE && !safeOps.contains op) || (s.bit FWU_STATUS.ROM_LOADER && !romOps.contains op) then some 7
  else if op = 0x28 ∧ x.action = 1 ∧ s.domOn x.domain = false ∧ s.railsGood x.domain = false then some (8 + 256 * x.domain)
  else if s.phaseLeft x then some (1 + 256 * x.needs.2)
  else match op with
    | 0x11 | 0x13 => s.tileDomainOff.map (fun d => 1 + 256 * d)
    | 0x29 =>
      ((s.calRunUnits (x.field 0x18 8)).find? (fun u => !s.domOn (unitDomain u))).map (fun u => 1 + 256 * unitDomain u)
    | 0x18 | 0x19 | 0x1A => (s.engineReason x.pol (x.field 0x18 1 % 16)).map (fun r => r + 256 * (x.field 0x18 1 % 16))
    | _ => none

/-- The check of R258 that a descriptor fails first: its status and detail. -/
def State.issueCheck (s : State) (x : Desc) : Option (Nat × Nat) :=
  if !opcodes.contains x.opcode then some (stUndefined, 0)
  else if adminOp x.opcode && x.pol != 0 then some (stAdminOnly, 0)
  else match s.absentUnit x with
    | some det => some (stUnitAbsent, det)
    | none => (s.unavailable x).map (fun det => (stUnavailable, det))

/-! Order (R264). -/

/-- Every earlier descriptor of the ring has its record written. -/
def State.fenceOpen (s : State) (x : Desc) : Bool := s.descs.all (fun y => y.ring != x.ring || decide (x.id ≤ y.id))

/-- The wait object has reached its value. -/
def State.waitOpen (s : State) (x : Desc) : Bool :=
  match s.waitObj x with
  | some o => decide (x.waitValue ≤ (s.obj o).toNat)
  | none => true

/-- The descriptor of a ring whose turn it is to issue; nothing issues while RESET_N is low (R381). -/
def State.nextToIssue (s : State) (r : Nat) : Option Desc :=
  if s.pins.resetN then s.descs.find? (fun x => x.ring == r && x.phase == .waiting) else none

/-- The descriptor goes to its unit, behind those that have issued before; administrator-only ones to the warden core (R266). -/
def State.dispatch (s : State) (x : Desc) : State :=
  { s with descs := s.descs.filter (fun y => y.id != x.id) ++ [{ x with phase := .issued }]
           warden := if adminOp x.opcode then s.warden ++ [x.id] else s.warden }

/-- The opcode is one of the gather engines. -/
def gatherOp (op : Nat) : Bool := op == 0x18 || op == 0x19 || op == 0x1A

/-- A gather descriptor reads its batch command as it issues, and keeps it; a read that does not give its data is met as any access of
it (R260, R283). -/
def State.readCmd (s : State) (x : Desc) : State :=
  let a := x.field 0x20 8 / 64 * 64
  let s1 := s.demand x.pol a 64
  match s1.vread x.pol a 64 with
  | .ok c => s1.onDesc x.id (fun y => { y with blob := c })
  | .error e => s1.descErr { x with phase := .issued } 4 1 0 e

/-- DESCRIPTOR_ISSUE: the next descriptor of the ring. One that a cancel reached ends at its turn, POLDER_CLOSING where its polder
closes (R237, R267); a ring whose record waits on a fault issues nothing more (R270). -/
def execDescriptorIssue (r : Fin 8192) (s : State) : Out :=
  .next (match s.nextToIssue r with
    | none => s
    | some x =>
      if x.cancelled then s.cancelUnstarted x
      else if s.recordBlocked r || (x.fence && !s.fenceOpen x) then s
      else match s.issueCheck x with
        | some (st, det) => s.endDesc x.id st det 0
        | none => if s.waitOpen x then (s.dispatch x).when (gatherOp x.opcode) (fun s => s.readCmd x) else s)

end Sys2Proof.Machine
end

