-- ==== Sys2Proof/Machine/Port.lean ====
section
/-! DEFINITION. The tile instructions of the cluster port: XFER, LNK, SYN, HZ and STEP (spec/03, "Transfers" to "Step end"),
and the ends of asynchronous operations. -/

namespace Sys2Proof.Machine

/-! XFER (R64). -/

/-- Why a transfer cannot be performed: a tile fault, a schedule fault (R280), an uncorrectable HBM unit (R284), a port that
issues no request now (R229). -/
inductive XErr where
  | tile (code : Nat)
  | sched
  | unit (u : Nat)
  | wait
  deriving DecidableEq, Repr

/-- What a transfer that cannot be performed does; `pc` is the index of its instruction (R46). -/
def State.xferErr (s : State) (t pc : Nat) : XErr → State
  | .tile c => s.tileFaultAt t c pc
  | .sched => s.schedFault
  | .unit u => ((s.poisonUnit u).unitFault u).tileFaultAt t 7 pc
  | .wait => s

/-- An access to device memory in schedule work that did not give its data. -/
def XErr.ofMem : MemErr → XErr
  | .hbm _ pa => .unit (pa / 64)
  | .wait => .wait
  | _ => .sched

/-- Bytes of package tile store, read under the error rules. An uncorrectable word of the tile's own cluster is TSTORE_UE; one of another
cluster arrives through the port marked at its source, which is PORT_POISON (R26, R43; log 218, DEDUCED). -/
def State.storeSource (s : State) (t a n : Nat) : Except XErr (List Byte × State) :=
  let s1 := s.tsCorrect [(a, n)]
  let near := s1.tsErr.any (fun p => decide (2 ≤ p.2) && wordIn [(a, n)] p.1 && 8 * p.1 / tsSize / 12 == t / 12)
  if s1.tsBad [(a, n)] then .error (.tile (if near then 1 else 7)) else .ok (s1.tsRead a n, s1)

/-- The source of a transfer. -/
def State.xferRead (s : State) (t : Nat) (o : TileOp) : Except XErr (List Byte × State) :=
  match o.kind with
  | .hbmRd =>
    if (s.sched.image.map (fun im => im.mayRange o.src o.len false)).getD false then
      let s1 := s.demand s.owner o.src o.len
      match s1.vread s.owner o.src o.len with
      | .ok bs => .ok (bs, s1)
      | .error e => .error (.ofMem e)
    else .error .sched
  | .tsRd => s.storeSource t o.src o.len
  | .gthRd =>
    let k := 192 * o.arg + t
    let bs := (SMap.get [] s.streams k).take o.len
    if bs.any (·.2) then .error (.tile 7)
    else .ok (bs.map (·.1), { s with streams := SMap.set [] s.streams k ((SMap.get [] s.streams k).drop o.len) })
  | _ => s.storeSource t (t * tsSize + o.src) o.len

/-- The destination of a transfer. -/
def State.xferWrite (s : State) (t : Nat) (o : TileOp) (bs : List Byte) : Except XErr State :=
  match o.kind with
  | .hbmWr =>
    if (s.sched.image.map (fun im => im.mayRange o.dst o.len true)).getD false then
      match s.vwriteAll s.owner o.dst bs with
      | .ok s' => .ok s'
      | .error e => .error (.ofMem e)
    else .error .sched
  | .tsWr => .ok (s.tsWrite o.dst bs)
  | _ => .ok (s.tsWrite (t * tsSize + o.dst) bs)

/-- A whole transfer. -/
def State.xferRun (s : State) (t : Nat) (o : TileOp) : Except XErr State :=
  match s.xferRead t o with
  | .error e => .error e
  | .ok (bs, s') => s'.xferWrite t o bs

/-- A transfer is issued: one whose access is refused faults at once; an empty one performs no access and has finished with its issue
(R54; log 36, DEDUCED). -/
def State.xferIssue (s : State) (t : Nat) (o : TileOp) : State :=
  if o.len = 0 then s.advance t
  else match s.xferRun t o with
    | .error e => s.xferErr t (s.tile t).pc.toNat e
    | .ok _ => s.addOp t o

/-- The addresses and length of an XFER, their low 6 bits cleared (R54). -/
def State.xferArgs (s : State) (t : Nat) (f : TF) (k : OpKind) : TileOp :=
  { id := 0, kind := k, dst := clearLow 6 (s.sreg t f.d).toNat, src := clearLow 6 (s.sreg t f.a).toNat,
    len := clearLow 6 (s.sreg t f.b).toNat }

def isXfer (k : OpKind) : Bool := k == .hbmRd || k == .hbmWr || k == .tsRd || k == .tsWr || k == .gthRd

/-- XFENCE waits until every XFER of the tile has finished. -/
def execXfence (t : Fin 192) (f : TF) (s : State) : Out :=
  .next (s.issue t (.xfence t f) (fun s => s.fence t [.hbmRd, .hbmWr, .tsRd, .tsWr, .gthRd]))

/-- HBM_RD: tile store at s[D] ← device memory at s[A]. -/
def execHbmRd (t : Fin 192) (f : TF) (s : State) : Out :=
  .next (let o := s.xferArgs t f .hbmRd
    s.issueAsync t (.hbmRd t f) [(o.dst, o.len)] [] (fun s => s.xferIssue t o))

/-- HBM_WR: device memory at s[D] ← tile store at s[A]. -/
def execHbmWr (t : Fin 192) (f : TF) (s : State) : Out :=
  .next (let o := s.xferArgs t f .hbmWr
    s.issueAsync t (.hbmWr t f) [(o.src, o.len)] [] (fun s => s.xferIssue t o))

/-- TS_RD: tile store at s[D] ← package tile store at s[A] (R55). -/
def execTsRd (t : Fin 192) (f : TF) (s : State) : Out :=
  .next (let o := s.xferArgs t f .tsRd
    s.issueAsync t (.tsRd t f) [(o.dst, o.len)] [(o.src, o.len)] (fun s => s.xferIssue t o))

/-- TS_WR: package tile store at s[D] ← tile store at s[A] (R55). -/
def execTsWr (t : Fin 192) (f : TF) (s : State) : Out :=
  .next (let o := s.xferArgs t f .tsWr
    s.issueAsync t (.tsWr t f) [(o.src, o.len)] [(o.dst, o.len)] (fun s => s.xferIssue t o))

/-- GTH_RD takes bytes from the tile's result stream of engine IMM[3:0]; an engine not assigned to the schedule gives zero
bytes at once (R104, R106). -/
def execGthRd (t : Fin 192) (f : TF) (s : State) : Out :=
  .next (let o := { s.xferArgs t f .gthRd with arg := f.immf 0 4 }
    s.issueAsync t (.gthRd t f) [(o.dst, o.len)] [] (fun s =>
      if o.len = 0 then s.advance t
      else if s.schedEngine o.arg then s.addOp t o
      else (s.tsWrite (t * tsSize + o.dst) (List.replicate o.len 0)).advance t))

/-- An XFER has finished: its bytes are at the destination (R64). A GTH_RD finishes once its stream has them all, after those of the same
stream that were issued before it (R50, R104). -/
def execXferDone (t : Fin 192) (id : Nat) (s : State) : Out :=
  .next (match (s.tile t).op id with
    | none => s
    | some o =>
      if !isXfer o.kind then s
      else if o.kind = .gthRd ∧
          ((s.tile t).firstOf o = false ∨ (SMap.get [] s.streams (192 * o.arg + t)).length < o.len) then s
      else match s.xferRun t o with
        | .error e => s.xferErr t o.pc e
        | .ok s' => s'.endOp t id)

/-! LNK (R65). -/

/-- LFENCE waits until every LSEND of the tile has finished. -/
def execLfence (t : Fin 192) (f : TF) (s : State) : Out :=
  .next (s.issue t (.lfence t f) (fun s => s.fence t [.lsend]))

/-- The send (or receive) channel of the tile that IMM[15:0] names; none where the image has no such channel. -/
def State.tileChan (s : State) (t : Nat) (f : TF) (send : Bool) : Option Chan :=
  (s.chan (f.immf 0 16)).bind (fun c => if c.send = send ∧ c.localTile = t then some c else none)

/-- LSEND appends s[B] bytes from tile store at s[A] to the channel; a channel absent from the image has no effect (R66). -/
def execLsend (t : Fin 192) (f : TF) (s : State) : Out :=
  .next (let o : TileOp := { s.xferArgs t f .lsend with arg := f.immf 0 16 }
    s.issueAsync t (.lsend t f) [(o.src, o.len)] [] (fun s =>
      if (s.tileChan t f true).isNone || o.len == 0 then s.advance t else s.addOp t o))

/-- An LSEND has finished: its last byte has crossed the cluster port into the link buffer, and the link carries it. A channel is an
ordered stream, so that those of one channel finish in program order (R50, R65). -/
def execLsendDone (t : Fin 192) (id : Nat) (s : State) : Out :=
  .next (match (s.tile t).op id with
    | none => s
    | some o =>
      match o.kind, s.chan o.arg with
      | .lsend, some c =>
        if (s.tile t).firstOf o = false then s
        else match s.storeSource t (t * tsSize + o.src) o.len with
        | .error e => s.xferErr t o.pc e
        | .ok (bs, s1) =>
          let s2 := s1.endOp t id
          if s.chanPeer c = s.rank then s2.chanPush c.peerChan 0 bs
          else s2.sendBytes (s.chanPeer c) (BitVec.ofNat 32 c.peerChan) bs
      | _, _ => s)

/-- LRECV waits until s[B] bytes have arrived, writes them to tile store at s[D] and removes them from the channel. -/
def execLrecv (t : Fin 192) (f : TF) (s : State) : Out :=
  .next (s.issue t (.lrecv t f) (fun s =>
    let n := clearLow 6 (s.sreg t f.b).toNat
    let a := clearLow 6 (s.sreg t f.d).toNat
    let c := f.immf 0 16
    if (s.tileChan t f false).isNone then s.advance t
    else s.access t [] [(a, n)] (fun s =>
      if (s.chanBytes c).length < n then s.waitAt t .lrecv
      else ((s.tsWrite (t * tsSize + a) ((s.chanBytes c).take n)).chanTake c n).advance t)))

/-! SYN (R66). -/

/-- SFENCE waits until every SSIGNAL of the tile has been applied. -/
def execSfence (t : Fin 192) (f : TF) (s : State) : Out :=
  .next (s.issue t (.sfence t f) (fun s => s.fence t [.signal, .remoteSignal]))

/-- The bytes of a remote add (log 27, DESIGN CHOICE): polder, whether an epoch goes with it, the epoch, object, value. -/
def addBytes (pol obj : Nat) (epoch : Option Nat) (v : Word) : List Byte :=
  leBytes 1 pol ++ leBytes 1 (b2n epoch.isSome) ++ leBytes 2 (epoch.getD 0) ++ leBytes 4 obj ++ leBytes 8 v.toNat

/-- SSIGNAL adds s[B] to the slot's object, here or on the package at the far end of channel IMM[27:12] (R66, R295, R298). A
slot or channel absent from the image has no effect. -/
def execSsignal (t : Fin 192) (f : TF) (s : State) : Out :=
  .next (s.issueAsync t (.ssignal t f) [] [] (fun s =>
    let v := s.sreg t f.b
    match s.slotObj (f.immf 0 12) with
    | none => s.advance t
    | some obj =>
      if f.modBit 0 then
        match s.chan (f.immf 12 16) with
        | none => s.advance t
        | some c =>
          let r := s.chanPeer c
          let id := (s.tile t).nextOp
          if r = s.rank then s.addOp t { id := 0, kind := .signal, arg := obj, val := v }
          else
            let s1 := s.addOp t { id := 0, kind := .remoteSignal, arg := obj, val := v }
            let a : RAdd := { tag := s.nextAdd, pol := s.owner, obj := obj, val := v, rank := r, tileOp := some (t, id) }
            let s2 := { s1 with adds := s1.adds ++ [a], nextAdd := s1.nextAdd + 1 }
            s2.sendBytes r (BitVec.ofNat 32 a.tag) (addBytes s.owner obj (some (s.get GLB_STEP_STATE.EPOCH)) v)
      else s.addOp t { id := 0, kind := .signal, arg := obj, val := v }))

/-- A local SSIGNAL is applied: one atomic add, after which waits and watches see the new value. -/
def execSsignalApplied (t : Fin 192) (id : Nat) (s : State) : Out :=
  .next (match (s.tile t).op id with
    | none => s
    | some o => if o.kind = .signal then (s.endOp t id).addObj o.arg o.val else s)

/-- SWAIT waits until the slot's object is at least s[A], unsigned; a slot absent from the image ends it at once. -/
def execSwait (t : Fin 192) (f : TF) (s : State) : Out :=
  .next (s.issue t (.swait t f) (fun s =>
    match s.slotObj (f.immf 0 12) with
    | none => s.advance t
    | some obj => if (s.sreg t f.a).toNat ≤ (s.obj obj).toNat then s.advance t else s.waitAt t .swait))

/-! HZ (R67, R68). -/

/-- The engine an HZ instruction drives. -/
def hzOf (f : TF) : Nat := b2n (f.modBit 0)

/-- HZWAIT waits until every HZLOAD and HZSTREAM of the tile has finished. -/
def execHzwait (t : Fin 192) (f : TF) (s : State) : Out :=
  .next (s.issue t (.hzwait t f) (fun s => s.fence t [.hzload, .hzstream]))

/-- An operation claims its engine (R68). -/
def State.claim (s : State) (t : Nat) (o : TileOp) : State :=
  let id := (s.tile t).nextOp
  let s1 := s.addOp t o
  s1.setHz o.eng { s1.hzEng o.eng with claims := (s1.hzEng o.eng).claims ++ [(t, id)] }

/-- HZLOAD claims the engine to load its resident operand from tile store at s[A]. -/
def execHzload (t : Fin 192) (f : TF) (s : State) : Out :=
  .next (let a := clearLow 6 (s.sreg t f.a).toNat
    s.issueAsync t (.hzload t f) [(a, 16384)] [] (fun s =>
      s.claim t { id := 0, kind := .hzload, src := a, len := 16384, arg := f.immf 0 16, eng := hzOf f }))

/-- HZSTREAM claims the engine to stream s[B] vectors as block IMM[15:0]; it waits while that tag is outstanding. -/
def execHzstream (t : Fin 192) (f : TF) (s : State) : Out :=
  .next (let a := clearLow 6 (s.sreg t f.a).toNat
    let d := clearLow 6 (s.sreg t f.d).toNat
    let n := (s.sreg t f.b).toNat
    s.issueAsync t (.hzstream t f) [(a, 128 * n), (d, 256 * n)] [] (fun s =>
      if (s.tile t).ops.any (fun o => o.kind == .hzstream && o.arg == f.immf 0 16) then s
      else s.claim t { id := 0, kind := .hzstream, src := a, dst := d, len := n, arg := f.immf 0 16, eng := hzOf f }))

/-- The flag bitmap of a block of `n` vectors (R125). -/
def flagBitmap (n : Nat) (flagged : List Nat) : List Byte :=
  leBytes ((n + 511) / 512 * 64) ((flagged.filter (fun v => decide (v < n))).map (2 ^ ·)).sum

/-- HZFBR waits until block IMM[15:0] has finished, reports its flagged vectors in s[D], and branches where s[D] is not 0: s0 reads 0
always (R48, R67). Of a tag no block of the tile has had, no rule says what is reported: the count is a free value, and there are no
vectors of which a bitmap could be written (log 28, DESIGN CHOICE). -/
def execHzfbr (t : Fin 192) (f : TF) (s : State) : Out :=
  .next (s.issue t (.hzfbr t f) (fun s =>
    let tag := f.immf 0 16
    let leave (s : State) (n : Word) : State :=
      let s1 := s.setS t f.d n
      if s1.sreg t f.d ≠ 0 then s1.jump t (f.immf 16 15) else s1.advance t
    if (s.tile t).ops.any (fun o => o.kind == .hzstream && o.arg == tag) then s.waitAt t .fence
    else match (s.tile t).blocks.find? (fun b => b.tag == tag) with
      | none => leave s (Config.hzNoBlock tag)
      | some b =>
        let a := clearLow 6 (s.sreg t f.a).toNat
        s.access t [] [(a, (b.n + 511) / 512 * 64)] (fun s =>
          leave (s.tsWrite (t * tsSize + a) (flagBitmap b.n b.flagged)) (BitVec.ofNat 64 b.flagged.length))))

/-! STEP (R69). -/

/-- STEP.END waits for outstanding operations, then reports the tile done to its join. -/
def execStepEnd (t : Fin 192) (f : TF) (s : State) : Out :=
  .next (s.issue t (.stepEnd t f) (fun s =>
    if (s.tile t).ops.isEmpty then s.finishTile t .complete else s.waitAt t .fence))

/-- STEP.RETIRE: as END, and the tile reports done for every later step until a berm step restarts it. -/
def execRetire (t : Fin 192) (f : TF) (s : State) : Out :=
  .next (s.issue t (.retire t f) (fun s =>
    if (s.tile t).ops.isEmpty then s.finishTile t .retired else s.waitAt t .fence))

end Sys2Proof.Machine
end

