-- ==== Sys2Proof/Machine/Dump.lean ====
section
/-! DEFINITION. Breach dumps (R365–R367), which see the descriptors, tiles and translations at work. -/

namespace Sys2Proof.Machine

/-! What a shadow read gives (R365, R366). -/

/-- What a shadow read of a register word returns: no latch is disturbed. -/
def State.shadowWord (s : State) (w : WinTarget) : Nat :=
  match w with
  | .reg r i j _ _ => s.readValue r i j
  | .msix off => leNat ((List.range 8).map (fun b =>
      let x := s.msix.byte (msixKey (s.portOf 0) (off + b))
      if off + b < 2048 && (off + b) % 16 == 12 then x ^^^ 1 else x))
  | _ => 0

/-- The image of `n` register words from an address on. -/
def State.shadowImage (s : State) (n : Nat) (at_ : Nat → WinTarget) : List Byte :=
  (List.range n).flatMap (fun i => leBytes 8 (s.shadowWord (at_ (8 * i))))

/-- The control block of a polder; that of a CLOSED one is zero. -/
def State.dumpPolder (s : State) (n : Nat) : List Byte :=
  if s.polderSt n = 0 then List.replicate 65536 0 else s.shadowImage 8192 (s.polderTarget n)

/-- STATE of a tile entry. -/
def TileSt.code : TileSt → Nat
  | .running => 0
  | .lrecv => 1
  | .swait => 2
  | .fence => 3
  | .complete => 4
  | .retired => 5
  | .faulted => 6
  | .off => 7

/-- One tile entry of 17,408 bytes. -/
def State.dumpTile (s : State) (t : Nat) : List Byte :=
  let x := s.tile t
  leBytes 2 x.pc.toNat ++ leBytes 1 x.st.code ++ leBytes 1 x.ops.length ++ leBytes 1 x.flags.toNat ++ List.replicate 3 0 ++
  leBytes 8 x.seed.toNat ++ leBytes 8 (s.get GLB_STEP_NOW.STEP) ++ List.replicate 40 0 ++
  (SMap.getList 0 x.s 0 32).flatMap (fun w => leBytes 8 w.toNat) ++ List.replicate 704 0 ++
  (SMap.getList 0 x.v 0 4096).flatMap (fun w => leBytes 4 w.toNat)

/-! Locked phases (R367). -/

/-- A unit that holds the grant of an update it has begun: 1 a sync object, 2 a descriptor, 3 a page switch; with what it names. -/
structure Grant where
  kind : Nat
  pol : Nat
  item : Nat := 0
  slot : Nat := 0
  page : Nat := 0
  deriving DecidableEq, Repr

/-- Its entry of 16 bytes. -/
def Grant.bytes (g : Grant) : List Byte :=
  leBytes 1 g.kind ++ leBytes 1 g.pol ++ leBytes 2 g.item ++ leBytes 2 g.slot ++ leBytes 2 0 ++ leBytes 8 g.page

/-- A descriptor's page switch: the page a MAP has come to, or the one from which the others go on. -/
def Desc.pageNow (x : Desc) : Nat :=
  if x.opcode = 0x40 then x.mapArgs.pageVa x.prog else max x.range.1 x.prog

/-- The descriptor has come to its issue, and passes its checks. -/
def State.issuing (s : State) (x : Desc) : Bool :=
  s.nextToIssue x.ring == some x && !x.cancelled && !s.recordBlocked x.ring && (!x.fence || s.fenceOpen x) && s.waitOpen x &&
    s.issueCheck x == none

/-- The grant a descriptor may hold. -/
def State.descGrant (s : State) (x : Desc) : Option Grant :=
  if s.issuing x then some { kind := 2, pol := x.pol, item := x.ring, slot := s.slotOf x }
  else if x.phase ≠ .issued ∧ x.phase ≠ .running then none
  else if x.opcode = 0x08 ∨ x.opcode = 0x09 then
    (s.objField x.pol (x.field 0x18 2)).map (fun o => { kind := 1, pol := x.pol, item := o })
  else if memOp x.opcode then some { kind := 3, pol := x.pol, item := x.ring, slot := s.slotOf x, page := x.pageNow }
  else none

/-- The grants that may be held: by descriptors, and by the signals of tiles to objects of this package. -/
def State.mayHold (s : State) : List Grant :=
  s.descs.filterMap s.descGrant ++
    (List.range 192).flatMap (fun t => ((s.tile t).ops.filter (fun o => o.kind == .signal)).map (fun o =>
      { kind := 1, pol := s.owner, item := o.arg }))

/-- The grants that a dump finds held. Which of those that may be are, at the instant a unit is looked at, no rule says (log 27). -/
def State.heldGrants (s : State) : List Grant × State :=
  let (pick, s1) := s.drawBytes 32
  ((s.mayHold.take 256).zipIdx.filterMap (fun p => if leNat pick / 2 ^ p.2 % 2 = 1 then some p.1 else none), s1)

/-! DUMP. -/

/-- The header (log 27, DESIGN CHOICE). -/
def State.dumpHeader (s : State) (locked : Nat) : List Byte :=
  leBytes 4 0x4442484C ++ leBytes 4 1 ++ leBytes 8 (s.get GLB_STEP_NOW.STEP) ++ leBytes 8 (s.get TIM_MTICK.TICKS) ++
  leBytes 4 (s.shortStamp 0) ++ leBytes 4 locked ++ List.replicate 4064 0

/-- A breach dump, with its locked-phase entries. -/
def State.dumpBytes (s : State) (gs : List Grant) : List Byte :=
  s.dumpHeader gs.length ++ s.shadowImage 40960 (s.target (s.portOf 0)) ++ (List.range 8).flatMap s.dumpPolder ++
  (List.range 192).flatMap s.dumpTile ++ gs.flatMap Grant.bytes ++ List.replicate (4096 - 16 * gs.length) 0

/-- A dump is counted; one that found a locked phase asks for a reset and raises DUMP_LOCKED. -/
def State.noteDump (s : State) (n : Nat) : State :=
  ((s.bump DBG_DUMP.DUMPS).put DBG_DUMP.LOCKED n).when (n != 0) (fun s =>
    (s.put DBG_DUMP.RESET_REQ 1).raise0 57 (detail [(0, n)]))

/-- DUMP: the content is taken once. -/
def execDump (d : Nat) (s : State) : Out :=
  .next (s.runDesc d 0x38 (fun x s =>
    if s.bit FWU_STATUS.PAUSED then s
    else if x.length 0x20 < 4202496 then s.endDesc d stBufferShort 4202496 0
    else if x.blob.isEmpty then
      let (gs, s1) := s.heldGrants
      (s1.noteDump gs.length).writeBuffer x (s1.dumpBytes gs)
    else s.writeBuffer x x.blob))

end Sys2Proof.Machine
end

