-- ==== Sys2Proof/Machine/Fabric.lean ====
section
/-! DEFINITION. The rows of the tile fabric (spec/02): register accesses, the scrubber, tile faults, the joins and freeboard. -/

namespace Sys2Proof.Machine

/-- A host write to a register whose fields have no row of their own (R10, R11, R231). -/
def execRegisterWrite (p : Fin 4) (addr : Nat) (be : BitVec 8) (v : Word) (s : State) : Out := .next (s.portWrite p addr be v)

/-- A read of a register: the value goes to the host, its latches re-arm and its ROL counters restart (R10, R168). -/
def execRolRead (p : Fin 4) (addr : Nat) (s : State) : Out := .next (s.portRead p addr)

/-- A tile is idle for the scrubber: at step end, at a receive or a sync wait, or outside a schedule (R28). -/
def State.tileIdle (s : State) (t : Nat) : Bool :=
  !s.tilesRun || (s.tile t).done || (s.tile t).st == .lrecv || (s.tile t).st == .swait

/-- Words of a tile's store. -/
def scrubWords : Nat := 524288

/-- The word that the scrubber of tile `t` reads next: it takes every word of its tile in turn (R28). -/
def State.scrubNext (s : State) (t : Nat) : Nat := SMap.get 0 s.scrubbed t % scrubWords

/-- The scrubber of tile `t` passes one word more; a pass over all tiles is complete once every tile has passed all its words (R28,
R46). -/
def State.scrubPass (s : State) (t : Nat) : State :=
  let m := SMap.set 0 s.scrubbed t (SMap.get 0 s.scrubbed t + 1)
  if (List.range 192).all (fun k => decide (scrubWords ≤ SMap.get 0 m k)) then
    ({ s with scrubbed := SMap.mapVal 0 (· - scrubWords) m } : State).put GLB_TSTORE_SCRUB.PASSES (s.get GLB_TSTORE_SCRUB.PASSES + 1)
  else { s with scrubbed := m }

/-- The scrubber reads the next word of an idle tile: a single-bit error is corrected and counted, an uncorrectable
word is counted once and left (R28). A word whose turn it is not is not read (log 7). -/
def execScrubWord (t : Fin 192) (w : Fin 524288) (s : State) : Out :=
  .next (if !s.bit GLB_TSTORE_SCRUB.EN || !s.tileIdle t || w.val != s.scrubNext t then s
    else
      let k := t.val * 524288 + w.val
      let s1 := match SMap.get 0 s.tsErr k with
        | 1 => ({ s with tsErr := SMap.set 0 s.tsErr k 0 } : State).bump GLB_TSTORE_ECC.CE
        | 2 => ({ s with tsErr := SMap.set 0 s.tsErr k 3 } : State).bump GLB_TSTORE_ECC.UE_LATENT
        | _ => s
      s1.scrubPass t)

/-- The supply of a cluster stays below 0.62 V for more than 1 µs: each of its tiles that is not done with the step raises
SUPPLY (R39). -/
def execSupplyFault (c : Fin 16) (s : State) : Out :=
  .next (
    let ts := ((List.range 12).map (12 * c.val + ·)).filter (fun t => !(s.tile t).done && (s.tile t).st != .faulted)
    if !s.tilesRun || ts.isEmpty then s else (s.each ts (fun s t => s.latchFault t 5)).schedFault)

/-- The time a tile has been busy in the step in hand exceeds GLB_TILE_HANG.LIMIT_MS; a core clock period is 0.64 ns (R44). -/
def State.hangs (s : State) (t : Nat) : Bool := decide (s.get GLB_TILE_HANG.LIMIT_MS * 100000000 < 64 * (s.tile t).busy)

/-- A tile that is neither done nor waiting on a receive or a sync object exceeds the hang limit (R44). -/
def execTileHang (t : Fin 192) (s : State) : Out :=
  .next (if s.tilesRun && (s.tile t).busyNow && s.hangs t then s.tileFault t 6 else s)

/-- A read of GLB_TILE_FAULT_A re-arms the latch (R45). -/
def execTileFaultARead (p : Fin 4) (s : State) : Out := .next (s.portRead p 0x30040)

/-! The joins (R40–R42, R79, R82). -/

/-- A signed number in a 32-bit field. -/
def s32 (x : Int) : Nat := uint 32 x

/-- The cluster with the lowest freeboard of the step, and that freeboard; of clusters that share the lowest, the lowest-numbered is
named (R46 does not say which; log 217, DESIGN CHOICE). -/
def State.lowestCluster (s : State) : Nat × Int :=
  let fb (c : Nat) : Int := ((s.sched.clusterFb.find? (fun p => p.1 == c)).map (·.2)).getD (2 ^ 31 - 1)
  (List.range 16).foldl (fun m c => if fb c < m.2 then (c, fb c) else m) (0, fb 0)

/-- The freeboard of the step enters the registers: LAST, MIN and the clusters (R40, R42, R46). -/
def State.recordFreeboard (s : State) (fb : Int) : State :=
  let c := s.lowestCluster.1
  let s1 := ((s.put GLB_FBD_LAST.FREEBOARD (s32 fb)).put GLB_FBD_LAST.CLUSTER c).put GLB_FBD_LAST_STEP.STEP s.stepNo
  let s2 := s1.when (decide (fb < sint 32 (s1.get GLB_FBD_MIN.FREEBOARD))) (fun s =>
    ((s.put GLB_FBD_MIN.FREEBOARD (s32 fb)).put GLB_FBD_MIN.CLUSTER c).put GLB_FBD_MIN_STEP.STEP s.stepNo)
  s2.each s2.sched.clusterFb (fun s p =>
    s.when (decide (p.2 < sint 32 (s.get GLB_FBD_CLUSTER.FREEBOARD p.1))) (fun s =>
      s.put GLB_FBD_CLUSTER.FREEBOARD (s32 p.2) p.1))

/-- The freeboard is compared with the alarm threshold: every step below it counts, the first of a run raises the event
(R41). -/
def State.freeboardAlarm (s : State) (fb : Int) : State :=
  let below := decide (fb < ((s.get GLB_FBD_CTRL.ALARM_FRAC * s.budget / 1024 : Nat) : Int))
  let s1 := s.when below (fun s => s.bump GLB_FBD_ALARM_CNT.COUNT)
  let s2 := s1.when (below && !s.sched.alarmed && s.bit GLB_FBD_CTRL.ALARM_EN) (fun s =>
    s.raiseSched 3 (detail [(0, s.stepNo), (64, s32 fb), (96, s.get PWR_WEIR.VNOW_MV), (112, s.sched.maxTj % 256)]))
  { s2 with sched := { s2.sched with alarmed := below } }

/-- Hjelzo vectors flagged in the step. -/
def State.flaggedVectors (s : State) : Nat := min 65535 ((s.hzEng 0).stepFlags + (s.hzEng 1).stepFlags)

/-- A package that holds the boundary releases it: the release carries the tick count at the sending plus HOLD_HORIZON, and
the overtopping event the measured freeboard (R79, R82). -/
def State.releaseHold (s : State) (fb : Int) : State :=
  if s.bit GLB_STEP_STATE.HOLDING then
    let v := s.mtick + s.horizon
    let s1 := (s.put GLB_STEP_STATE.HOLDING 0).flood (.release s.boundary v)
    let s2 := { s1 with sched := { s1.sched with releases := s1.sched.releases ++ [(s1.rank, v)] } }
    s2.when (s2.bit GLB_STEP_CTRL.OVT_EVT_EN) (fun s =>
      s.raiseSched 2 (detail [(0, s.stepNo), (64, s32 fb), (96, min 65535 s.sched.retrans), (112, s.flaggedVectors)]))
  else s

/-- Both joins have reported done: the package freeboard is measured (R40). -/
def State.stepDone (s : State) : State :=
  let fb := s.freeboard
  ((s.recordFreeboard fb).freeboardAlarm fb).releaseHold fb

/-- A tile die whose clusters are all done reports at the XD step unit; the later of the two joins ends the measurement. -/
def execStepCompletionJoin (die : Fin 2) (s : State) : Out :=
  .next (
    let seen := if die.val = 0 then s.sched.join0 else s.sched.join1
    if !s.tilesRun || seen || !s.dieDone die then s
    else
      let s1 := { s with sched := if die.val = 0 then { s.sched with join0 := true } else { s.sched with join1 := true } }
      s1.when (s1.sched.join0 && s1.sched.join1) (fun s => s.stepDone))

/-- A write of 1 to GLB_FBD_CTRL.CLR (R42). -/
def execFbdClr (p : Fin 4) (s : State) : Out :=
  .next (s.adminWrite p (fun s =>
    let s1 := (((s.setReg .GLB_FBD_MIN 0 0 (BitVec.ofNat 64 RegName.GLB_FBD_MIN.tableReset)).put GLB_FBD_MIN_STEP.STEP 0).put
      GLB_FBD_ALARM_CNT.COUNT 0)
    let s2 := s1.each (List.range 16) (fun s c => s.put GLB_FBD_CLUSTER.FREEBOARD 0x7FFFFFFF c)
    { s2 with fbdMinStep := 0 }))

/-- A read of GLB_FBD_LAST latches the step that belongs with it (R42). -/
def execFbdLastRead (p : Fin 4) (s : State) : Out := .next (s.portRead p 0x30008)

/-- A read of GLB_FBD_MIN latches the step that belongs with it (R42). -/
def execFbdMinRead (p : Fin 4) (s : State) : Out := .next (s.portRead p 0x30018)

/-! Faults of the instruction stream. -/

/-- A tile fetches a word with an undefined MAJOR: UNDEF_MAJOR, and nothing of the word runs (R52). -/
def execUndefMajor (t : Fin 192) (w : Word) (s : State) : Out :=
  .next (s.issue t (.undefMajor t w) (fun s => s.tileFault t 3))

/-- The PC has run past index 32,767: ADDR_RANGE, with the PC of the last instruction (R56). -/
def execPcPastEnd (t : Fin 192) (s : State) : Out :=
  .next (if s.tilesRun && (s.tile t).pastEnd && (s.tile t).st == .running then s.tileFault t 4 else s)

end Sys2Proof.Machine
end

