-- ==== Sys2Proof/Machine/Hjelzo.lean ====
section
/-! DEFINITION. The Hjelzo engines (spec/06). The converter codes of a vector come with the command: they are what the analogue
path gives. The corrections that calibration sets are open (R332): they are a function of Config. -/

namespace Sys2Proof.Machine

/-! Arithmetic of R126, R131, R132. -/

/-- x / 2^k rounded to nearest, ties to even. -/
def rneShift (x : Int) (k : Nat) : Int :=
  let n := (quant .rne x.natAbs 0 k).1
  if x < 0 then -(n : Int) else n

/-- x brought into [lo, hi]. -/
def clampInt (lo hi x : Int) : Int := max lo (min hi x)

/-- A result code is clamped to ±20,480 (R126). -/
def clampCode (x : Int) : Int := clampInt (-20480) 20480 x

/-- Signed bytes. -/
def int8s (bs : List Byte) : List Int := bs.map (·.toInt)

/-- The inner product. -/
def dotInt (a b : List Int) : Int := (List.zipWith (· * ·) a b).foldl (· + ·) 0

/-- Row `i` of the resident operand (R125). -/
def HzEng.row (e : HzEng) (i : Nat) : List Int := int8s (e.resident.read (128 * i) 128)

/-- The exact code of output `i` for a vector (R126). -/
def HzEng.exactCode (e : HzEng) (x : List Int) (i : Nat) : Int := clampCode (rneShift (dotInt (e.row i) x) 3)

/-- σ(k, i) of check row `k` (R131). -/
def hzSign (k i : Nat) : Int := if 0x6D2B79F5 / 2 ^ ((i / 4 + 8 * k) % 32) % 2 = 0 then 1 else -1

/-- The data rows of group `k`. -/
def hzGroup (k : Nat) : List Nat := (List.range 32).map (fun m => 4 * m + k)

/-- The group sum e(k, j) by column (R131). -/
def HzEng.groupSum (e : HzEng) (k : Nat) : List Int :=
  (hzGroup k).foldl (fun acc i => List.zipWith (fun a b => a + hzSign k i * b) acc (e.row i)) (List.replicate 128 0)

/-- 8 × r(k, j): what clamping the check row to 8 bits leaves over (R131). -/
def checkRem (g : Int) : Int := g - 8 * clampInt (-128) 127 (rneShift g 3)

/-- 8 × p(k) (R132). -/
def HzEng.predict8 (e : HzEng) (x : List Int) (k : Nat) : Int := dotInt ((e.groupSum k).map checkRem) x

/-- 2^27 × R(k), with y in 2^-24 LSB8 (R132). -/
def HzEng.residual (e : HzEng) (x y : List Int) (k : Nat) : Int :=
  8 * y.getD (128 + k) 0 - ((hzGroup k).map (fun i => hzSign k i * y.getD i 0)).foldl (· + ·) 0 + 16384 * e.predict8 x k

/-- The corrected value y of row `row` in 2^-24 LSB8: the converter spans ±160 LSB8 in 1,024 steps of 5/16 LSB8, so that code `c` stands for
(5c − 2,560) / 16 LSB8, which the row's gain and offset of correction set `gen` correct (R127; the place of a code in its step is log
219, DEDUCED). -/
def hzCorrect (gen e row c : Nat) : Int := Config.hzGain gen e row * (5 * (c : Int) - 2560) + Config.hzOffset gen e row

/-! Grants and loads (R68, R128, R129). -/

/-- The claim whose turn it is: tiles in id order from the pointer on, each tile's own in order. -/
def HzEng.nextClaim (e : HzEng) : Option (Nat × Nat) :=
  (List.range 192).findSome? (fun d => e.claims.find? (fun c => c.1 == (e.ptr + d) % 192))

/-- A block has finished: the operation ends, and its flags are what the tag reports from now on (R68). -/
def State.finishBlock (s : State) (t op tag n : Nat) (flagged : List Nat) : State :=
  let s1 := s.endOp t op
  s1.setTile t { s1.tile t with blocks := ((s1.tile t).blocks.filter (fun b => b.tag != tag)) ++ [⟨tag, n, flagged⟩] }

/-- An engine grants the next claim: a stream becomes a block, at most 16 at once; a load takes effect once the blocks
granted before it have finished, and nothing is granted past it until then. -/
def execHzGrant (e : Fin 2) (s : State) : Out :=
  .next (
    let x := s.hzEng e
    match x.nextClaim with
    | none => s
    | some (t, id) =>
      match (s.tile t).op id with
      | none => s
      | some o =>
        if x.loading.isSome then s
        else
          let x1 := { x with claims := x.claims.filter (fun c => c != (t, id)), ptr := (t + 1) % 192 }
          if o.kind = .hzload then s.setHz e { x1 with loading := some (t, id) }
          else if o.len = 0 then (s.setHz e x1).finishBlock t id o.arg 0 []
          else if 16 ≤ x.blocks.length then s
          else
            let b : HzBlk := { id := x.nextBlk, tile := t, op := id, tag := o.arg, n := o.len, src := o.src, dst := o.dst,
                               gen := (s.calUnit e).gen }
            s.setHz e { x1 with blocks := x.blocks ++ [b], nextBlk := x.nextBlk + 1 })

/-- A load has taken effect and settled: the engine holds the operand as it stands in tile store (R128, R131). -/
def execHzloadDone (e : Fin 2) (s : State) : Out :=
  .next (
    let x := s.hzEng e
    match x.loading with
    | none => s
    | some (t, id) =>
      match (s.tile t).op id with
      | none => s
      | some o =>
        if !x.blocks.isEmpty then s
        else match s.storeSource t (t * tsSize + o.src) 16384 with
          | .error er => s.xferErr t o.pc er
          | .ok (bs, s1) =>
            (s1.setHz e { x with loading := none, resident := SMap.setList 0 [] 0 bs }).endOp t id)

/-! Vectors (R127, R132, R133, R139). -/

/-- What a vector gives: its codes, whether it is flagged, and why. -/
structure HzOut where
  codes : List Int
  ovr : Bool
  ready : Bool
  flagged : Bool
  deriving DecidableEq, Repr

/-- A vector through conversion, correction and check: `x` its elements, `conv` the converter codes, `gen` the corrections of
its block, `thresh` the check threshold. -/
def HzEng.vector (e : HzEng) (n gen thresh : Nat) (ready : Bool) (x : List Int) (conv : List Nat) : HzOut :=
  let y := (List.zip (List.range 132) conv).map (fun p => hzCorrect gen n p.1 p.2)
  let ovr := conv.any (fun c => c == 0 || c == 1023)
  let bad := (List.range 4).any (fun k => decide (thresh * 1048576 < (e.residual x y k).natAbs))
  { codes := if ready then (y.take 128).map (fun v => clampCode (rneShift v 17)) else List.replicate 128 0
    ovr := ovr, ready := ready, flagged := !ready || ovr || bad }

/-- A vector is counted by cause (R133). -/
def State.countFlags (s : State) (e : Nat) (o : HzOut) : State :=
  let s1 := s.when o.flagged (fun s =>
    (s.bump HZE_CNT.FLAGGED e).setHz e { s.hzEng e with stepFlags := (s.hzEng e).stepFlags + 1 })
  (s1.when o.ovr (fun s => s.bump HZE_CNT.OVERRANGE e)).when (!o.ready) (fun s => s.bump HZE_CNT.NOT_READY e)

/-- A vector whose sequence number is sampled is compared with c_exact (R139); each 1,024 of them make a window (R140). -/
def State.audit (s : State) (e : Nat) (x : List Int) (o : HzOut) : State :=
  let en := s.hzEng e
  if !s.bit HZE_AUDIT_CTRL.EN e || !o.ready || en.seq % 2 ^ s.get HZE_AUDIT_CTRL.LOG2 e != 0 then s
  else
    let ds := (List.zip (List.range 128) o.codes).map (fun p => (p.2 - en.exactCode x p.1).natAbs)
    let sq := (ds.map (fun d => d * d)).sum
    let s1 := ((s.bump HZE_AUDIT_STAT.N e).bump HZE_AUDIT_SUMSQ.SUMSQ e 0 sq).put HZE_AUDIT_STAT.MAXERR
      (max (s.get HZE_AUDIT_STAT.MAXERR e) (min 65535 (ds.foldl max 0))) e
    let en := s1.hzEng e
    s1.setHz e (if en.winN + 1 = 1024 then { en with winN := 0, winSq := 0, winFull := some (en.winSq + sq) }
      else { en with winN := en.winN + 1, winSq := en.winSq + sq })

/-- The block whose vector the engine takes: of its granted blocks whose next vector has arrived, the first in rotating order from the
one after the block served last (R129). Blocks stand in the order of their grants. -/
def HzEng.nextVector (e : HzEng) (arrived : List Nat) : Option HzBlk :=
  let here := e.blocks.filter (fun b => arrived.contains b.id)
  match here.find? (fun b => decide (e.vptr ≤ b.id)) with
  | some b => some b
  | none => here.head?

/-- An engine takes the next vector of the granted block whose turn it is: codes are written, the vector is checked, counted and
sampled, and after the last one the block finishes. -/
def execHzVector (e : Fin 2) (arrived : List Nat) (codes : List (BitVec 10)) (s : State) : Out :=
  .next (
    let en := s.hzEng e
    match en.nextVector arrived with
    | none => s
    | some b =>
      let blk := b.id
      match s.storeSource b.tile (b.tile * tsSize + b.src + 128 * b.next) 128 with
      | .error er => s.xferErr b.tile ((((s.tile b.tile).op b.op).map (·.pc)).getD 0) er
      | .ok (bs, s1) =>
        let x := int8s bs
        let o := en.vector e b.gen (s.get HZE_SEEP.THRESH e) (s.hzReady e) x (codes.map (·.toNat))
        let s2 := s1.tsWrite (b.tile * tsSize + b.dst + 256 * b.next) (o.codes.flatMap (fun c => leBytes 2 (uint 16 c)))
        let s3 := (s2.countFlags e o).audit e x o
        let fl := if o.flagged then b.flagged ++ [b.next] else b.flagged
        let en3 := { s3.hzEng e with seq := en.seq + 1, vptr := blk + 1 }
        if b.next + 1 = b.n then
          (s3.setHz e { en3 with blocks := en.blocks.filter (fun c => c.id != blk) }).finishBlock b.tile b.op b.tag b.n fl
        else s3.setHz e { en3 with blocks := en.blocks.map (fun c =>
          if c.id = blk then { c with next := b.next + 1, flagged := fl } else c) })

/-! Audit and limits (R140, R141). -/

/-- A window of 1,024 audited vectors is full: an RMS above LIMIT raises HZ_DEGRADED with the RMS rounded down (log 29, DEDUCED). -/
def execAuditWindow (e : Fin 2) (s : State) : Out :=
  .next (match (s.hzEng e).winFull with
    | none => s
    | some sq =>
      let lim := s.get HZE_AUDIT_CTRL.LIMIT e
      (s.setHz e { s.hzEng e with winFull := none }).when (lim != 0 && decide (lim * lim * 131072 < sq)) (fun s =>
        s.raiseSched 7 (detail [(0, e), (4, 1), (16, min 65535 (isqrt (sq / 131072))), (64, s.stepNo)])))

/-- The vectors flagged on an engine in one step reach DEG_LIMIT: HZ_DEGRADED, once in the step (R140). -/
def execDegLimitReached (e : Fin 2) (s : State) : Out :=
  .next (
    let x := s.hzEng e
    if x.degRaised || x.stepFlags < s.get HZE_SEEP.DEG_LIMIT e then s
    else (s.setHz e { x with degRaised := true }).when (s.bit HZE_SEEP.DEG_EVT_EN e) (fun s =>
      s.raiseSched 7 (detail [(0, e), (4, 2), (16, min 65535 x.stepFlags), (64, s.stepNo)])))

/-- A write of 1 to HZE_SEEP.CLR clears HZE_CNT. -/
def execHzeCntClr (p : Fin 4) (e : Fin 2) (s : State) : Out :=
  .next (s.adminWrite p (fun s => s.when s.part.hz (fun s => s.setReg .HZE_CNT e 0 0)))

/-- A write of 1 to HZE_AUDIT_CTRL.CLR clears HZE_AUDIT_STAT and HZE_AUDIT_SUMSQ, what a read of the latter returns included. -/
def execAuditClr (p : Fin 4) (e : Fin 2) (s : State) : Out :=
  .next (s.adminWrite p (fun s => s.when s.part.hz (fun s =>
    ((s.setReg .HZE_AUDIT_STAT e 0 0).setReg .HZE_AUDIT_SUMSQ e 0 0).setHz e { s.hzEng e with latchSq := 0 })))

/-- A read of HZE_AUDIT_STAT latches HZE_AUDIT_SUMSQ. -/
def execAuditStatRead (p : Fin 4) (e : Fin 2) (s : State) : Out := .next (s.portRead p (0x33020 + 0x100 * e.val))

end Sys2Proof.Machine
end

