-- ==== Sys2Proof/Machine/Pins.lean ====
section
/-! DEFINITION. The rows of the board-management and test ports (spec/18, R384, R385), and the levels of output pins. -/

namespace Sys2Proof.Machine

/-! Outputs. -/

/-- SMB_ALERT_N is low. -/
def State.smbAlert (s : State) : Bool := s.pins.thermTrip || !(s.rails.all id && s.vbat)
/-- SEAWALL_A_N is low: SCU-A holds the grant (R202). -/
def State.seawallA (s : State) : Bool := s.scu.holder == some 0
/-- SEAWALL_B_N is low: SCU-B holds the grant (R202). -/
def State.seawallB (s : State) : Bool := s.scu.holder == some 1
/-- The code on VID[5:0] (R374). -/
def State.vidCode (s : State) : Nat := (s.get PWR_WEIR.VNOW_MV - 650) / 5

/-! SMBus. -/

/-- Junction temperatures: hottest cluster, XD, HZ0, HZ1, OE0–OE3, HBM0–HBM7; an absent unit reads 0x80. -/
def State.temps (s : State) (ts : List (BitVec 8)) : List Byte :=
  (List.range 16).map (fun i =>
    let there := if i < 2 then true else if i < 4 then s.part.hz else if i < 8 then decide (i - 4 < s.part.engines)
      else decide (i - 8 < s.part.stackCount)
    if there then ts.getD i 0x80 else 0x80)

/-- The shadow as a refresh leaves it, by command code. -/
def State.smbFresh (s : State) (ts : List (BitVec 8)) : List (List Byte) :=
  let rails := bitSet 8 (fun i => (s.rails ++ [s.vbat]).getD i false) + 256 * b2n s.pins.thermTrip
  let late (bs : List Byte) : List Byte := if s.get PWR_START.PHASE = 0 then bs.map (fun _ => 0) else bs
  [leBytes 8 (s.view .GLB_ID 0 0), late (leBytes 8 (s.view .PWR_START 0 0)), late (leBytes 8 (s.view .PWR_LASER 0 0)),
   late (leBytes 2 (s.get PWR_WEIR.P_W)), late (s.temps ts), leBytes 2 rails]

/-- SMBUS_SHADOW_REFRESH. -/
def execSmbusShadowRefresh (ts : List (BitVec 8)) (s : State) : Out :=
  .next (if s.mainPower then { s with pins := { s.pins with smbShadow := s.smbFresh ts } } else s)

/-- SMBUS_READ: the block of the code, of no bytes where the code has none. The responder answers at once after power-on. -/
def execSmbusRead (code : BitVec 8) (s : State) : Out :=
  .next (if s.mainPower then
    let sh := if s.pins.smbShadow.isEmpty then s.smbFresh [] else s.pins.smbShadow
    { s with pins := { s.pins with smbOut := sh.getD code.toNat [] } }
  else s)

/-- SMBUS_WRITE: not acknowledged after its command byte; nothing changes. -/
def execSmbusWrite (_code : BitVec 8) (s : State) : Out := .next s

/-! The test access port. -/

/-- The test port takes an instruction; one that drives or floats pins takes effect only while RESET_N is low. -/
def State.loadIr (s : State) (ir : BitVec 8) (drives : Bool) : State :=
  { s with pins := { s.pins with ir := if drives && s.pins.resetN then 0xFF else ir } }

def execExtest (s : State) : Out := .next (s.loadIr 0x00 true)
def execIdcode (s : State) : Out := .next (s.loadIr 0x01 false)
def execClamp (s : State) : Out := .next (s.loadIr 0x04 true)
def execHighz (s : State) : Out := .next (s.loadIr 0x05 true)
def execBypass (s : State) : Out := .next (s.loadIr 0xFF false)

/-- SAMPLE_PRELOAD: the cells take the values shifted in, or the levels at the pins, which the manual does not place in cells bit by
bit (log 3, DESIGN CHOICE). -/
def execSamplePreload (preload : Option (BitVec 56)) (s : State) : Out :=
  let s1 := s.loadIr 0x02 false
  .next (match preload with
    | some v => { s1 with pins := { s1.pins with boundary := v } }
    | none =>
      let (w, s2) := s1.draw
      { s2 with pins := { s2.pins with boundary := BitVec.ofNat 56 w.toNat } })

/-- The identification register. -/
def State.idReg (s : State) : BitVec 32 :=
  BitVec.ofNat 32 (s.get GLB_ID.STEP_MAJOR * 2 ^ 28 + 0x4C31 * 2 ^ 12 + 0x2B7 * 2 + 1)

/-- What the pins of the boundary register do: their function, the register's cells, or nothing. -/
inductive PadMode where
  | function | cells | floating
  deriving DecidableEq, Repr

def State.padMode (s : State) : PadMode :=
  if s.pins.ir = 0x00 ∨ s.pins.ir = 0x04 then .cells else if s.pins.ir = 0x05 then .floating else .function

/-- The data register between TDI and TDO, and its length: the identification, the boundary, or the one bit of bypass. -/
def State.dataReg (s : State) : Nat × Nat :=
  if s.pins.ir = 0x01 then (32, s.idReg.toNat)
  else if s.pins.ir = 0x00 ∨ s.pins.ir = 0x02 then (56, s.pins.boundary.toNat)
  else (1, 0)

end Sys2Proof.Machine
end

