-- ==== Sys2Proof/Machine/Scalar.lean ====
section
/-! DEFINITION. The scalar instructions of a tile: CTL, SOP, SOPI and SMEM (spec/03, "Control and scalar instructions"). -/

namespace Sys2Proof.Machine

/-! Shared forms. -/

/-- An instruction that computes one scalar register. -/
def State.scalar (s : State) (t : Fin 192) (i : Instr) (d : BitVec 5) (v : State → Word) : State :=
  s.issue t i (fun s => (s.setS t d (v s)).advance t)

/-- An instruction that branches where a condition holds. -/
def State.branch (s : State) (t : Fin 192) (i : Instr) (f : TF) (c : State → Bool) : State :=
  s.issue t i (fun s => if c s then s.jump t (f.immf 0 15) else s.advance t)

/-- The high 64 bits of the signed product. -/
def mulh (a b : Word) : Word := BitVec.ofInt 64 (a.toInt * b.toInt / 18446744073709551616)
/-- Shift amounts use bits [5:0]. -/
def shAmt (b : Word) : Nat := b.toNat % 64
/-- One where the condition holds, else zero. -/
def wordIf (c : Bool) : Word := if c then 1 else 0

/-- The special registers of R60; numbers above 0x06 are reserved and read as 0x00 (R53). -/
def State.special (s : State) (t n : Nat) : Word :=
  match n with
  | 1 => BitVec.ofNat 64 (s.get GLB_STEP_NOW.STEP)
  | 2 => (s.tile t).flags.setWidth 64
  | 3 => (s.tile t).seed
  | 4 => BitVec.ofNat 64 s.rank
  | 5 => 1
  | 6 => 0
  | _ => BitVec.ofNat 64 t

/-- A special register written: FLAGS and SEED; the others are read only. -/
def State.setSpecial (s : State) (t n : Nat) (v : Word) : State :=
  match n with
  | 2 => s.setTile t { s.tile t with flags := v.setWidth 4 }
  | 3 => s.setTile t { s.tile t with seed := v }
  | _ => s

/-- The address of an SMEM access: s[A] + imm, with the bits below the access size cleared (R54). -/
def State.smemAddr (s : State) (t : Nat) (f : TF) (k : Nat) : Nat := clearLow k (s.sreg t f.a + f.simm).toNat

/-! CTL. -/

/-- NOP has no effect. -/
def execNop (t : Fin 192) (f : TF) (s : State) : Out := .next (s.issue t (.nop t f) (fun s => s.advance t))

/-- JMP. -/
def execJmp (t : Fin 192) (f : TF) (s : State) : Out := .next (s.branch t (.jmp t f) f (fun _ => true))

/-- BEQ: taken where s[A] is equal to s[B]. -/
def execBeq (t : Fin 192) (f : TF) (s : State) : Out :=
  .next (s.branch t (.beq t f) f (fun s => s.sreg t f.a == s.sreg t f.b))

/-- BNE: taken where s[A] is not equal to s[B]. -/
def execBne (t : Fin 192) (f : TF) (s : State) : Out :=
  .next (s.branch t (.bne t f) f (fun s => s.sreg t f.a != s.sreg t f.b))

/-- BLT: taken where s[A] is less than s[B]. -/
def execBlt (t : Fin 192) (f : TF) (s : State) : Out :=
  .next (s.branch t (.blt t f) f (fun s => (s.sreg t f.a).slt (s.sreg t f.b)))

/-- BGE: taken where s[A] is at least s[B]. -/
def execBge (t : Fin 192) (f : TF) (s : State) : Out :=
  .next (s.branch t (.bge t f) f (fun s => !(s.sreg t f.a).slt (s.sreg t f.b)))

/-- LOOP: s[D] falls by 1, and the branch is taken where the result is not 0. -/
def execLoop (t : Fin 192) (f : TF) (s : State) : Out :=
  .next (s.issue t (.loop t f) (fun s =>
    let v := s.sreg t f.d - 1
    let s1 := s.setS t f.d v
    if v ≠ 0 then s1.jump t (f.immf 0 15) else s1.advance t))

/-- WAITALL waits until nothing of the tile is outstanding (R57). -/
def execWaitall (t : Fin 192) (f : TF) (s : State) : Out :=
  .next (s.issue t (.waitall t f) (fun s => if (s.tile t).ops.isEmpty then s.advance t else s.waitAt t .fence))

/-! SOP and SOPI. -/

/-- SOP ADD: addition of s[A] and s[B]. -/
def execSopAdd (t : Fin 192) (f : TF) (s : State) : Out :=
  .next (s.scalar t (.sopAdd t f) f.d (fun s => (s.sreg t f.a) + (s.sreg t f.b)))

/-- SOP SUB: subtraction of s[A] and s[B]. -/
def execSopSub (t : Fin 192) (f : TF) (s : State) : Out :=
  .next (s.scalar t (.sopSub t f) f.d (fun s => (s.sreg t f.a) - (s.sreg t f.b)))

/-- SOP MUL: the low 64 bits of the product of s[A] and s[B]. -/
def execSopMul (t : Fin 192) (f : TF) (s : State) : Out :=
  .next (s.scalar t (.sopMul t f) f.d (fun s => (s.sreg t f.a) * (s.sreg t f.b)))

/-- SOP MULH: the high 64 bits of the signed product of s[A] and s[B]. -/
def execSopMulh (t : Fin 192) (f : TF) (s : State) : Out :=
  .next (s.scalar t (.sopMulh t f) f.d (fun s => mulh (s.sreg t f.a) (s.sreg t f.b)))

/-- SOP AND: AND of s[A] and s[B]. -/
def execSopAnd (t : Fin 192) (f : TF) (s : State) : Out :=
  .next (s.scalar t (.sopAnd t f) f.d (fun s => (s.sreg t f.a) &&& (s.sreg t f.b)))

/-- SOP OR: OR of s[A] and s[B]. -/
def execSopOr (t : Fin 192) (f : TF) (s : State) : Out :=
  .next (s.scalar t (.sopOr t f) f.d (fun s => (s.sreg t f.a) ||| (s.sreg t f.b)))

/-- SOP XOR: XOR of s[A] and s[B]. -/
def execSopXor (t : Fin 192) (f : TF) (s : State) : Out :=
  .next (s.scalar t (.sopXor t f) f.d (fun s => (s.sreg t f.a) ^^^ (s.sreg t f.b)))

/-- SOP SHL: shift left of s[A] and s[B]. -/
def execSopShl (t : Fin 192) (f : TF) (s : State) : Out :=
  .next (s.scalar t (.sopShl t f) f.d (fun s => (s.sreg t f.a) <<< shAmt (s.sreg t f.b)))

/-- SOP SHR: logical shift right of s[A] and s[B]. -/
def execSopShr (t : Fin 192) (f : TF) (s : State) : Out :=
  .next (s.scalar t (.sopShr t f) f.d (fun s => (s.sreg t f.a) >>> shAmt (s.sreg t f.b)))

/-- SOP SAR: arithmetic shift right of s[A] and s[B]. -/
def execSopSar (t : Fin 192) (f : TF) (s : State) : Out :=
  .next (s.scalar t (.sopSar t f) f.d (fun s => (s.sreg t f.a).sshiftRight (shAmt (s.sreg t f.b))))

/-- SOP MIN: signed minimum of s[A] and s[B]. -/
def execSopMin (t : Fin 192) (f : TF) (s : State) : Out :=
  .next (s.scalar t (.sopMin t f) f.d (fun s => if ((s.sreg t f.b)).slt (s.sreg t f.a) then (s.sreg t f.b) else (s.sreg t f.a)))

/-- SOP MAX: signed maximum of s[A] and s[B]. -/
def execSopMax (t : Fin 192) (f : TF) (s : State) : Out :=
  .next (s.scalar t (.sopMax t f) f.d (fun s => if ((s.sreg t f.a)).slt (s.sreg t f.b) then (s.sreg t f.b) else (s.sreg t f.a)))

/-- SOP SLT: signed less-than of s[A] and s[B]. -/
def execSopSlt (t : Fin 192) (f : TF) (s : State) : Out :=
  .next (s.scalar t (.sopSlt t f) f.d (fun s => wordIf (((s.sreg t f.a)).slt (s.sreg t f.b))))

/-- SOP SLTU: unsigned less-than of s[A] and s[B]. -/
def execSopSltu (t : Fin 192) (f : TF) (s : State) : Out :=
  .next (s.scalar t (.sopSltu t f) f.d (fun s => wordIf (((s.sreg t f.a)).ult (s.sreg t f.b))))

/-- SOPI ADD: addition of s[A] and imm. -/
def execSopiAdd (t : Fin 192) (f : TF) (s : State) : Out :=
  .next (s.scalar t (.sopiAdd t f) f.d (fun s => (s.sreg t f.a) + f.simm))

/-- SOPI SUB: subtraction of s[A] and imm. -/
def execSopiSub (t : Fin 192) (f : TF) (s : State) : Out :=
  .next (s.scalar t (.sopiSub t f) f.d (fun s => (s.sreg t f.a) - f.simm))

/-- SOPI MUL: the low 64 bits of the product of s[A] and imm. -/
def execSopiMul (t : Fin 192) (f : TF) (s : State) : Out :=
  .next (s.scalar t (.sopiMul t f) f.d (fun s => (s.sreg t f.a) * f.simm))

/-- SOPI MULH: the high 64 bits of the signed product of s[A] and imm. -/
def execSopiMulh (t : Fin 192) (f : TF) (s : State) : Out :=
  .next (s.scalar t (.sopiMulh t f) f.d (fun s => mulh (s.sreg t f.a) f.simm))

/-- SOPI AND: AND of s[A] and imm. -/
def execSopiAnd (t : Fin 192) (f : TF) (s : State) : Out :=
  .next (s.scalar t (.sopiAnd t f) f.d (fun s => (s.sreg t f.a) &&& f.simm))

/-- SOPI OR: OR of s[A] and imm. -/
def execSopiOr (t : Fin 192) (f : TF) (s : State) : Out :=
  .next (s.scalar t (.sopiOr t f) f.d (fun s => (s.sreg t f.a) ||| f.simm))

/-- SOPI XOR: XOR of s[A] and imm. -/
def execSopiXor (t : Fin 192) (f : TF) (s : State) : Out :=
  .next (s.scalar t (.sopiXor t f) f.d (fun s => (s.sreg t f.a) ^^^ f.simm))

/-- SOPI SHL: shift left of s[A] and imm. -/
def execSopiShl (t : Fin 192) (f : TF) (s : State) : Out :=
  .next (s.scalar t (.sopiShl t f) f.d (fun s => (s.sreg t f.a) <<< shAmt f.simm))

/-- SOPI SHR: logical shift right of s[A] and imm. -/
def execSopiShr (t : Fin 192) (f : TF) (s : State) : Out :=
  .next (s.scalar t (.sopiShr t f) f.d (fun s => (s.sreg t f.a) >>> shAmt f.simm))

/-- SOPI SAR: arithmetic shift right of s[A] and imm. -/
def execSopiSar (t : Fin 192) (f : TF) (s : State) : Out :=
  .next (s.scalar t (.sopiSar t f) f.d (fun s => (s.sreg t f.a).sshiftRight (shAmt f.simm)))

/-- SOPI MIN: signed minimum of s[A] and imm. -/
def execSopiMin (t : Fin 192) (f : TF) (s : State) : Out :=
  .next (s.scalar t (.sopiMin t f) f.d (fun s => if (f.simm).slt (s.sreg t f.a) then f.simm else (s.sreg t f.a)))

/-- SOPI MAX: signed maximum of s[A] and imm. -/
def execSopiMax (t : Fin 192) (f : TF) (s : State) : Out :=
  .next (s.scalar t (.sopiMax t f) f.d (fun s => if ((s.sreg t f.a)).slt f.simm then f.simm else (s.sreg t f.a)))

/-- SOPI SLT: signed less-than of s[A] and imm. -/
def execSopiSlt (t : Fin 192) (f : TF) (s : State) : Out :=
  .next (s.scalar t (.sopiSlt t f) f.d (fun s => wordIf (((s.sreg t f.a)).slt f.simm)))

/-- SOPI SLTU: unsigned less-than of s[A] and imm. -/
def execSopiSltu (t : Fin 192) (f : TF) (s : State) : Out :=
  .next (s.scalar t (.sopiSltu t f) f.d (fun s => wordIf (((s.sreg t f.a)).ult f.simm)))

/-- RDSR reads special register IMM[7:0] (R60). -/
def execRdsr (t : Fin 192) (f : TF) (s : State) : Out :=
  .next (s.scalar t (.rdsr t f) f.d (fun s => s.special t (f.immf 0 8)))

/-- WRSR writes special register IMM[7:0] (R60). -/
def execWrsr (t : Fin 192) (f : TF) (s : State) : Out :=
  .next (s.issue t (.wrsr t f) (fun s => (s.setSpecial t (f.immf 0 8) (s.sreg t f.a)).advance t))

/-- LDI loads the sign-extended immediate. -/
def execLdi (t : Fin 192) (f : TF) (s : State) : Out := .next (s.scalar t (.ldi t f) f.d (fun _ => f.simm))

/-- LDHI writes IMM into s[D][63:32]. -/
def execLdhi (t : Fin 192) (f : TF) (s : State) : Out :=
  .next (s.scalar t (.ldhi t f) f.d (fun s => f.imm ++ (s.sreg t f.d).setWidth 32))

/-! SMEM. -/

/-- LD64: s[D] ← the 64-bit word. -/
def execLd64 (t : Fin 192) (f : TF) (s : State) : Out :=
  .next (s.issue t (.ld64 t f) (fun s =>
    let a := s.smemAddr t f 3
    s.access t [(a, 8)] [] (fun s => (s.setS t f.d (BitVec.ofNat 64 (s.loadN t a 8))).advance t)))

/-- ST64: the 64-bit word ← s[D]. -/
def execSt64 (t : Fin 192) (f : TF) (s : State) : Out :=
  .next (s.issue t (.st64 t f) (fun s =>
    let a := s.smemAddr t f 3
    s.access t [] [(a, 8)] (fun s => (s.storeN t a 8 (s.sreg t f.d).toNat).advance t)))

/-- LD32: s[D] ← the 32-bit word, zero-extended. -/
def execLd32 (t : Fin 192) (f : TF) (s : State) : Out :=
  .next (s.issue t (.ld32 t f) (fun s =>
    let a := s.smemAddr t f 2
    s.access t [(a, 4)] [] (fun s => (s.setS t f.d (BitVec.ofNat 64 (s.loadN t a 4))).advance t)))

/-- ST32: the 32-bit word ← s[D][31:0], by read, merge and write of the whole word (R27). -/
def execSt32 (t : Fin 192) (f : TF) (s : State) : Out :=
  .next (s.issue t (.st32 t f) (fun s =>
    let a := s.smemAddr t f 2
    s.access t [] [(a, 4)] (fun s => (s.storeN t a 4 (s.sreg t f.d).toNat).advance t)))

end Sys2Proof.Machine
end

