-- ==== Sys2Proof/Machine/Schedule.lean ====
section
/-! DEFINITION. The rows of static schedules and step alignment (spec/04). -/

namespace Sys2Proof.Machine

/-! Loading (R76, R77). -/

/-- An image that passed every check replaces the resident schedule. -/
def State.loadImage (s : State) (pol src : Nat) (bs : List Byte) : State :=
  let im := Image.of pol src bs
  let kept := s.sched.keptBerm.find? (fun k => k.1 == pol && k.2.1 == im.id && k.2.2.1 == im.crc)
  let s1 : State := { s with
    istore := (List.range 192).flatMap (fun t => SMap.ofList 0 (32768 * t) (sectionWords bs (im.sections.getD t ⟨0, 0, 0⟩)))
    isErr := []
    sched := { image := some im, readies := s.sched.readies, alarmed := s.sched.alarmed, keptBerm := s.sched.keptBerm,
               berm := kept.map (fun k => k.2.2.2.1), bermMirror := kept.bind (fun k => k.2.2.2.2) } }
  s1.put GLB_STEP_STATE.STATE 1

/-- SCHED_LOAD: the image is read and checked; the first check that fails refuses it. -/
def execSchedLoad (d : Nat) (s : State) : Out :=
  .next (s.runDesc d 0x10 (fun x s =>
    let src := x.field 0x18 8 / 8 * 8
    if s.schedBusy then s.endDesc d stImageRefused ({ code := 1 } : Refused).detail 0
    else s.readSource x src (min (x.field 0x20 4) 0x10000000) (fun bs s =>
      match checkImage s x.pol bs with
      | some r => s.endDesc d stImageRefused r.detail 0
      | none => (s.loadImage x.pol src bs).endDesc d stSuccess 0 0)))

/-! Start, resume, pre-emption. -/

/-- SCHED_START (R91, R92, R320). A spare takes no start (R169): the descriptor ends SCHED_STATE (log 220, DESIGN CHOICE). -/
def execSchedStart (d : Nat) (s : State) : Out :=
  .next (s.runDesc d 0x11 (fun x s =>
    if s.sched.startDesc = some d then s
    else match s.tileDomainOff with
      | some dom => s.endDesc d stUnavailable (1 + 256 * dom) 0
      | none =>
        if !s.ownsSched x.pol || s.schedSt != 1 || s.isSpare then s.badState x
        else if x.field 0x18 8 ≠ 0 ∧ (s.sched.image.map (fun im => im.id.toNat)) ≠ some (x.field 0x18 8) then
          s.endDesc d stMismatch 1 0
        else s.beginStart x .start 0 0 0 0))

/-- SCHED_RESUME (R89, R92, R320): the image whose berm record the polder keeps is resident. -/
def execSchedResume (d : Nat) (s : State) : Out :=
  .next (s.runDesc d 0x13 (fun x s =>
    if s.sched.startDesc = some d then s
    else match s.tileDomainOff with
      | some dom => s.endDesc d stUnavailable (1 + 256 * dom) 0
      | none =>
        match s.sched.berm with
        | some b =>
          if !s.ownsSched x.pol || !(s.schedSt == 5 || s.schedSt == 1) || s.isSpare then s.badState x
          else s.beginStart x .resume 1 b.step b.start ((s.get GLB_STEP_STATE.EPOCH + 1) % 256)
        | none => s.badState x))

/-- SCHED_PREEMPT (R89): the request names a berm step and goes to every package. -/
def execSchedPreempt (d : Nat) (s : State) : Out :=
  .next (s.runDesc d 0x12 (fun x s =>
    if s.sched.preDescs.contains d then s
    else
      match s.sched.image with
      | none => s.badState x
      | some im =>
        if im.owner ≠ x.pol ∨ !(s.schedSt == 3 || s.schedSt == 4) then s.badState x
        else
          let s1 := { s with sched := { s.sched with preDescs := s.sched.preDescs ++ [d] } }
          if s.schedSt = 4 then (s1.flood (.preempt 0 false)).stopAtTarget false
          else match s.namedBerm im with
            | some n => s1.sendPreempt n false
            | none => s1))

/-- A pre-emption request or a cancel from another package (R89, R90). -/
def execPreemptMessage (a : Via) (rank seq step : Nat) (cancel : Bool) (s : State) : Out :=
  .next (s.onFlood a rank seq (.preempt step cancel) (fun s =>
    if s.schedSt = 2 then (if cancel then s.abandonStart stCancelled 0 else s)
    else if s.schedSt = 3 then s.notePreempt step cancel
    else if s.schedSt = 4 then s.stopAtTarget cancel
    else if cancel then { s with sched := { s.sched with readies := [] } }
    else s))

/-- A ready message of another package. -/
def execReadyMessage (a : Via) (seq : Nat) (m : Ready) (s : State) : Out :=
  .next (s.onFlood a m.rank seq (.ready m) (fun s => s.noteReady m))

/-- The machine tick count reaches the start of step 0 (R81, R91). -/
def execStep0Start (s : State) : Out :=
  .next (match s.sched.image, s.sched.go with
    | some im, some t =>
      if s.schedSt = 2 ∧ s.sched.kind = .start ∧ t ≤ s.mtick then
        let s1 := ((s.noRestore.setOffset t 0).put GLB_STEP_STATE.EPOCH 0).put GLB_STEP_STATE.STATE 3
        ({ s1 with sched := { s1.sched with go := none, berm := none, bermMirror := none } } : State).enterStep im 0 0 0
      else s
    | _, _ => s)

/-! Holds (R79, R80, R83). -/

/-- A step is in hand: the schedule runs, or the restore step does. -/
def State.inStep (s : State) : Bool := s.schedSt == 3 || s.sched.restoring

/-- The decision point of a step is reached with a join not done: the package holds the boundary. -/
def execDecisionPoint (s : State) : Out :=
  .next (if s.inStep && decide (s.sched.startVal + s.budget ≤ s.stepCount) && !(s.sched.join0 && s.sched.join1) &&
      !s.bit GLB_STEP_STATE.HOLDING && s.sched.frozen.isNone then
    let b := s.boundary
    let s1 := (s.put GLB_STEP_STATE.HOLDING 1).bump GLB_STEP_CNT.OVERTOP
    let s2 := { s1 with sched := { s1.sched with holds := s1.sched.holds ++ [s1.rank] } }
    ((s2.put GLB_STEP_STATE.HOLDERS (min 65535 s2.sched.holds.length)).flood (.hold b)).stopAtBoundary
  else s)

/-- A list of ranks with one more. -/
def withRank (rs : List Nat) (rank : Nat) : List Nat := if rs.contains rank then rs else rs ++ [rank]

/-- HOLDERS shows who holds the boundary that stops this package, those that have released it among them until it goes on (log 57,
DEDUCED). -/
def State.showHolders (s : State) : State :=
  s.put GLB_STEP_STATE.HOLDERS (min 65535 (if s.sched.late then s.sched.lateHolds.length else s.sched.holds.length))

/-- One package more holds the coming boundary. -/
def State.addHolder (s : State) (rank : Nat) : State :=
  ({ s with sched := { s.sched with holds := withRank s.sched.holds rank } } : State).showHolders

/-- A package that has crossed a boundary can still be held there: a step follows it, or the run has come to rest at it. -/
def State.crossedOne (s : State) : Bool := s.inStep || s.schedSt == 5 || s.schedSt == 6

/-- A hold for the boundary that this package has crossed: it stops its counter, and counts it (R83). -/
def State.lateHold (s : State) (rank : Nat) : State :=
  let s1 : State := { s with sched := { s.sched with
    late := true, lateHolds := withRank s.sched.lateHolds rank, frozen := some s.stepCount } }
  (((s1.bump GLB_STEP_CNT.LATE_HOLD).put GLB_STEP_STATE.HELD 1)).showHolders

/-- A hold for the boundary this package has crossed, or for the coming one. -/
def State.onHold (s : State) (rank boundary : Nat) : State :=
  if s.crossedOne && boundary == s.sched.crossed then s.lateHold rank
  else if s.inStep && boundary == s.boundary then (s.addHolder rank).stopAtBoundary
  else s

/-- A hold arrives. -/
def execHoldMessage (a : Via) (rank seq boundary : Nat) (s : State) : Out :=
  .next (s.onFlood a rank seq (.hold boundary) (fun s => s.onHold rank boundary))

/-- A release arrives with its resume value. -/
def execReleaseMessage (a : Via) (rank seq boundary resume : Nat) (s : State) : Out :=
  .next (s.onFlood a rank seq (.release boundary resume) (fun s =>
    if s.crossedOne && boundary == s.sched.crossed then
      { s with sched := { s.sched with lateReleases := s.sched.lateReleases ++ [(rank, resume)] } }
    else if s.inStep && boundary == s.boundary then
      { s with sched := { s.sched with releases := s.sched.releases ++ [(rank, resume)] } }
    else s))

/-- Every holder of a boundary has released it: the largest resume value (R80). -/
def allReleased (holds : List Nat) (releases : List (Nat × Nat)) : Option Nat :=
  if holds.isEmpty then none
  else (holds.mapM (fun r => (releases.find? (fun p => p.1 == r)).map (·.2))).map (fun vs => vs.foldl max 0)

/-- The tick count at which the counter goes on: a late hold stops it first. -/
def State.resumeTick (s : State) : Option Nat :=
  if s.sched.late then allReleased s.sched.lateHolds s.sched.lateReleases else allReleased s.sched.holds s.sched.releases

/-- A package that was held late goes on from the boundary value it had crossed; a coming boundary may be held besides (R83). -/
def State.resumeLate (s : State) (r : Nat) : State :=
  let s1 := (s.setOffset r s.sched.startVal).put GLB_STEP_STATE.HELD 0
  ({ s1 with sched := { s1.sched with frozen := none, late := false, lateHolds := [], lateReleases := [] } } : State).showHolders

/-- The machine tick count reaches the largest resume value: the counter goes on from the boundary value (R80, R81). -/
def execStepResume (s : State) : Out :=
  .next (match s.resumeTick with
    | none => s
    | some r =>
      if s.sched.frozen.isNone || decide (s.mtick < r) then s
      else if s.sched.late then s.resumeLate r
      else if !(s.sched.join0 && s.sched.join1) then s
      else
        let s1 := ((s.setOffset r s.boundary).put GLB_STEP_STATE.HELD 0).put GLB_STEP_STATE.HOLDERS 0
        ({ s1 with sched := { s1.sched with frozen := none, holds := [], releases := [] } } : State).cross)

/-- The step counter reaches the boundary with both joins done and nobody holding it (R78, R85). -/
def execStepBoundary (s : State) : Out :=
  .next (if s.inStep && s.sched.frozen.isNone && s.sched.holds.isEmpty && s.sched.join0 && s.sched.join1 &&
      decide (s.boundary ≤ s.stepCount) then s.cross else s)

/-- A write of 1 to GLB_STEP_CTRL.CLR (R81, R93). -/
def execStepClr (p : Fin 4) (s : State) : Out :=
  .next (s.adminWrite p (fun s => (s.setReg .GLB_STEP_CNT 0 0 0).setReg .GLB_STEP_HELD 0 0 0))

/-! Rollback (R86, R87, R391). -/

/-- An abort message arrives. -/
def execAbortMessage (a : Via) (rank seq berm : Nat) (s : State) : Out :=
  .next (s.onFlood a rank seq (.abort berm) (fun s => s.onAbort rank))

/-- A berm report arrives. -/
def execBermReport (a : Via) (rank seq latest : Nat) (mirrored : Option Nat) (start epoch : Nat) (s : State) : Out :=
  .next (s.onFlood a rank seq (.report latest mirrored start epoch) (fun s =>
    if s.schedSt = 3 ∨ s.schedSt = 4 then
      { s with sched := { s.sched with reports := s.sched.reports.filter (fun r => r.rank != rank) ++
          [{ rank := rank, latest := latest, mirrored := mirrored, start := start, epoch := epoch }] } }
    else s))

/-- The reports of every package in reach are in: the target is settled and its state put back. A stand-in, which has no record, settles
none (R81). -/
def execRollbackSettle (s : State) : Out :=
  .next (match s.sched.image with
    | none => s
    | some im =>
      if s.schedSt = 4 ∧ s.sched.restoring = false ∧ s.sched.target = none ∧ s.sched.berm.isSome ∧
          (List.range im.packages).all (fun r => !s.reach r || s.sched.reports.any (fun x => x.rank == r)) then
        match s.settleTarget im with
        | some r =>
          match s.restoreTarget im r with
          | .ok s' => s'
          | .error .wait => s
          | .error _ => s.schedFault
        | none => s.failRun
      else s)

/-- This package's ready message of the rollback. -/
def State.rollbackMsg (s : State) (im : Image) (target start epoch : Nat) : Ready :=
  { rank := s.rank, tick := s.mtick, imageId := im.id, crc := im.crc, kind := 2, target := target, start := start,
    epoch := epoch }

/-- This package has sent its ready message of the rollback. -/
def State.rollbackSent (s : State) : Bool := s.sched.readies.any (fun m => m.kind == 2 && m.rank == s.rank)

/-- A stand-in, which holds the image and no record, takes the target, its start value and the epoch from a neighbour's ready message,
once its tick count is aligned (R81, R87, R222, R226). -/
def State.standIn (s : State) (im : Image) : State :=
  match s.sched.readies.find? (fun m => m.kind == 2 && m.imageId == im.id && m.crc == im.crc) with
  | none => s
  | some m =>
    if s.isSpare || !s.bit TIM_MTICK_STAT.ALIGNED then s
    else
      let s1 := s.put GLB_STEP_STATE.STATE 4
      let s2 := { s1 with sched := { s1.sched with
        kind := .rollback
        target := some { rank := s.rank, latest := m.target, mirrored := none, start := m.start, epoch := m.epoch } } }
      s2.sendReady (s2.rollbackMsg im m.target m.start m.epoch)

/-- The reload ends and the ready message goes out, after a management pause (R354). -/
def execRollbackReady (s : State) : Out :=
  .next (match s.sched.image with
    | none => s
    | some im =>
      if s.rollbackSent || s.bit FWU_STATUS.PAUSED then s
      else if s.schedSt = 4 then
        match s.sched.target with
        | none => if s.sched.berm.isNone then s.standIn im else s
        | some r =>
          match s.reloadTiles im with
          | .error .wait => s
          | .error _ => s.schedFault
          | .ok s1 => s1.sendReady (s1.rollbackMsg im r.latest r.start r.epoch)
      else if s.schedSt = 1 then s.standIn im
      else s)

/-- Every package of the machine has sent its ready message of the rollback: the tick count at which the target starts. -/
def State.rollbackGo (s : State) (im : Image) : Option Nat :=
  (s.roundOf im 2).map (fun ms => (ms.map (·.tick)).foldl max 0 + im.horizon)

/-- The last ready message plus HOLD_HORIZON passes: the target berm step starts, after the restore step where it is mirrored;
a pre-empted schedule resumes at its berm step (R81, R87, R89). -/
def execBermStepStart (s : State) : Out :=
  .next (match s.sched.image with
    | none => s
    | some im =>
      if s.schedSt = 4 ∧ s.sched.restoring = false ∧ s.rollbackSent then
        match s.sched.target, s.rollbackGo im with
        | some r, some t =>
          if s.mtick < t then s
          else
            let s1 := { s with sched := { s.sched with readies := s.sched.readies.filter (fun m => m.kind != 2) } }
            match im.step r.latest with
            | some e =>
              if e.mirrored then
                let s2 := s1.openStep r.latest r.start r.start
                let s3 : State := { s2 with sched := { s2.sched with restoring := true } }
                ((s3.setOffset t r.start).startTiles im e.restore).reportClusters
              else s1.startTarget im r.latest r.start r.start t
            | none => s1
        | _, _ => s
      else if s.schedSt = 2 ∧ s.sched.kind = .resume then
        match s.sched.berm, s.sched.go with
        | some b, some t =>
          if s.mtick < t then s
          else
            let s1 := (((s.restoreSync im b).noRestore.setOffset t b.start).nextEpoch).put GLB_STEP_STATE.STATE 3
            ({ s1 with sched := { s1.sched with go := none } } : State).enterStep im b.step b.start b.start
        | _, _ => s
      else s)

end Sys2Proof.Machine
end

