-- ==== Sys2Proof/Machine/Sync.lean ====
section
/-! DEFINITION. The rows of sync objects and of the event controller (spec/14). -/

namespace Sys2Proof.Machine

/-! Adds and writes (R293, R295–R298). -/

/-- A remote add of a descriptor meets the reason of R296: it suspends, the object and the rank in its record. -/
def State.addFaulted (s : State) (x : Desc) (reason obj rank : Nat) : State :=
  s.descFault x 1 reason (obj + rank * 2 ^ 48) 2 0

/-- A SYNC_ADD to another package is sent; it completes when it is acknowledged. One that is under way is not sent again. -/
def State.addAway (s : State) (x : Desc) (obj rank : Nat) (v : Word) : State :=
  if s.adds.any (fun a => a.desc == some x.id) then s
  else match s.routeLink s.rank rank with
    | none => (s.noRoute rank).addFaulted x 5 obj rank
    | some _ =>
      let a : RAdd := { tag := s.nextAdd, pol := x.pol, obj := obj, val := v, rank := rank, desc := some x.id }
      ({ s with adds := s.adds ++ [a], nextAdd := s.nextAdd + 1 } : State).sendFree rank (BitVec.ofNat 32 a.tag)
        (addBytes x.pol obj none v)

/-- SYNC_ADD: here where LOCAL is 1 or RANK is this package's, else there. No object, no effect. -/
def execSyncAdd (d : Nat) (s : State) : Out :=
  .next (s.runDesc d 0x08 (fun x s =>
    let v : Word := BitVec.ofNat 64 (x.field 0x20 8)
    let rank := x.field 0x1C 4 % 32768
    match s.objField x.pol (x.field 0x18 2) with
    | none => s.endDesc d stSuccess 0 0
    | some obj =>
      if x.field 0x1C 4 / 2 ^ 31 % 2 = 1 ∨ rank = s.rank then ((s.addObj obj v).hostDelta x.pol obj v).endDesc d stSuccess 0 0
      else s.addAway x obj rank v))

/-- SYNC_WRITE: to an object of this package. -/
def execSyncWrite (d : Nat) (s : State) : Out :=
  .next (s.runDesc d 0x09 (fun x s =>
    ((match s.objField x.pol (x.field 0x18 2) with
      | some obj => s.setObj obj (BitVec.ofNat 64 (x.field 0x20 8))
      | none => s).endDesc d stSuccess 0 0)))

/-- The answer to a remote add goes back on the channel it came by: 0 applied, 1 denied (log 27, DESIGN CHOICE). -/
def State.answerAdd (s : State) (vc rank tag st : Nat) : State :=
  match s.routeLink s.rank rank with
  | some k => s.queueBytes k vc rank (BitVec.ofNat 32 tag) (leBytes 1 st)
  | none => s.noRoute rank

/-- A remote add that is no repeat: a signal of another epoch is discarded, an add to an object that the polder does not own denied, any
other applied and acknowledged (R295, R296, R298). -/
def State.takeAdd (s : State) (rank tag pol obj : Nat) (v : Word) (epoch : Option (BitVec 8)) : State :=
  let vc := if epoch.isSome then 1 else 2
  if epoch.isSome && epoch != some (BitVec.ofNat 8 (s.get GLB_STEP_STATE.EPOCH)) then s.bump SYN_STAT.EPOCH_DROP pol
  else if !(s.isOpen pol && s.ownsObj pol obj) then s.answerAdd vc rank tag 1
  else
    let s1 := (s.addObj obj v).bump SYN_STAT.REMOTE_IN pol
    (s1.when epoch.isNone (fun s => s.hostDelta pol obj v)).answerAdd vc rank tag 0

/-- REMOTE_ADD: a repeat is known by its link sequence or its trailer sequence (R295). -/
def execRemoteAdd (a : Via) (rank tag : Nat) (pol : Fin 8) (obj : Nat) (v : Word) (sched : Bool) (epoch : BitVec 8) (s : State) : Out :=
  .next (s.onMsg a 1 (if sched then 1 else 2) 1 rank (fun s => s.takeAdd rank tag pol obj v (if sched then some epoch else none)))

/-- A remote add was denied (reason 4) or has no route (5): a fault of its descriptor, or a schedule fault (R296). -/
def State.addFailed (s : State) (a : RAdd) (reason : Nat) : State :=
  let s1 := { s with adds := s.adds.filter (fun b => b.tag != a.tag) }
  match a.desc with
  | some d => match s1.desc d with
    | some x => s1.addFaulted x reason a.obj a.rank
    | none => s1
  | none => s1.schedFault

/-- A remote add is answered: the descriptor completes, or the SSIGNAL counts as applied. -/
def State.addAnswered (s : State) (tag : Nat) (denied : Bool) : State :=
  match s.adds.find? (fun a => a.tag == tag) with
  | none => s
  | some a =>
    if denied then s.addFailed a 4
    else
      let s2 := { s with adds := s.adds.filter (fun b => b.tag != tag) }
      let s3 := match a.desc with
        | some d => s2.endDesc d stSuccess 0 0
        | none => s2
      match a.tileOp with
      | some (t, id) => s3.endOp t id
      | none => s3

/-- REMOTE_ADD_ACK: it comes by the channel its add went on. One whose add has been abandoned is discarded. -/
def execRemoteAddAck (v : Via) (tag : Nat) (denied : Bool) (s : State) : Out :=
  let a := s.adds.find? (fun a => a.tag == tag)
  .next (s.onMsg v 1 (if (a.map (·.tileOp.isSome)).getD (v.f.vc == 1) then 1 else 2) 1 ((a.map (·.rank)).getD 0)
    (fun s => s.addAnswered tag denied))

/-- REMOTE_ADD_TIMEOUT: 100 ms without an acknowledgement count as a rank with no route. -/
def execRemoteAddTimeout (tag : Nat) (s : State) : Out :=
  .next (match s.adds.find? (fun a => a.tag == tag) with
    | some a => s.addFailed a 5
    | none => s)

/-! Watches (R300). -/

/-- WATCH_WRITE: SYN_WATCH, or SYN_THRESH where `thresh` is true. -/
def execWatchWrite (p : Fin 4) (pol : Fin 8) (w : Fin 128) (thresh : Bool) (v : BitVec 64) (s : State) : Out :=
  .next (s.polderWrite p pol (fun s =>
    (if thresh then s.put SYN_THRESH.THRESHOLD v.toNat pol w
     else (s.put SYN_WATCH.OBJ (bitsOf v.toNat 0 14) pol w).put SYN_WATCH.EN (bitsOf v.toNat 15 1) pol w).evalWatch pol w))

/-! Edges (R302, R308, R309). -/

/-- EVENT_EDGE: a source rises. -/
def execEventEdge (src : Fin 4096) (detail : BitVec 128) (s : State) : Out := .next (s.raise src detail)

/-- PEND_WRITE: the word is replaced whole; a pending bit that software sets has DETAIL zero. -/
def execPendWrite (p : Fin 4) (pol w : Fin 8) (v : BitVec 64) (s : State) : Out :=
  .next (s.polderWrite p pol (fun s =>
    let old := s.get EVC_PEND.PEND pol w
    (s.put EVC_PEND.PEND v.toNat pol w).each ((List.range 64).filter (fun i => old / 2 ^ i % 2 != v.toNat / 2 ^ i % 2)) (fun s i =>
      let src := 512 * pol.val + 64 * w.val + i
      s.setSrc src { s.src src with coalesced := 0, detail := 0 })))

/-- HOLD is cleared: the held edges enter the pending bits. -/
def State.endHold (s : State) (pol : Nat) : State :=
  let s1 := s.put EVC_CTRL.HOLD 0 pol
  s1.when (!s1.bit PWR_IDLE.IDLE) (fun s => s.unlatch (512 * pol) (512 * pol + 512))

/-- EVENT_HOLD: a write of EVC_CTRL.HOLD. -/
def execEventHold (p : Fin 4) (pol : Fin 8) (on : Bool) (s : State) : Out :=
  .next (s.polderWrite p pol (fun s =>
    if on then s.put EVC_CTRL.HOLD 1 pol else if s.bit EVC_CTRL.HOLD pol then s.endHold pol else s))

/-- HOLD_EXPIRED: 100 µs after it was set, a hold clears itself. -/
def execHoldExpired (pol : Fin 8) (s : State) : Out :=
  .next (if s.bit EVC_CTRL.HOLD pol then (s.put EVC_CTRL.HOLD_EXPIRED 1 pol).endHold pol else s)

/-! Delivery (R303–R306). -/

/-- The priority of a source. -/
def State.prio (s : State) (src : Nat) : Nat := (s.reg .EVC_PRIO (src / 512) (src % 512 / 8)).toNat / 256 ^ (src % 8) % 256

/-- Sources of polder `n` that are pending, unmasked and not active, in ascending number. -/
def State.eligibleSrcs (s : State) (n : Nat) : List Nat :=
  (List.range 8).flatMap (fun w =>
    let x := (s.reg .EVC_PEND n w) &&& ~~~ (s.reg .EVC_MASK n w) &&& ~~~ (s.reg .EVC_ACTIVE n w)
    if x = 0 then [] else ((List.range 64).filter (fun i => x.getLsbD i)).map (fun i => 512 * n + 64 * w + i))

/-- The first of a list whose measure is least. -/
def firstLeast (f : Nat → Nat) : List Nat → Option Nat
  | [] => none
  | x :: xs => some (xs.foldl (fun m y => if f y < f m then y else m) x)

/-- SIZE of a target's queue, and whether it is full. -/
def State.queueSize (s : State) (n j : Nat) : Nat := 2 ^ s.get EVC_TGT_CFG.LOG2 n j
def State.queueFull (s : State) (n j : Nat) : Bool :=
  (s.get EVC_TGT_PTR.TAIL n j + 65536 - s.get EVC_TGT_PTR.HEAD n j) % 65536 == s.queueSize n j

/-- The target for the next event of polder `n`: of the enabled ones, those with room before those without, the greatest running
group, from the rotating pointer on. A target whose stack is full is not considered in stacked mode. -/
def State.pickTarget (s : State) (n : Nat) : Option Nat :=
  let p := SMap.get 0 s.evTgt n
  let all := ((List.range 16).map (fun i => (p + i) % 16)).filter (fun j =>
    s.bit EVC_TGT_CFG.EN n j && !(s.bit EVC_CTRL.MODE n && decide (16 ≤ (s.tgt n j).stack.length)))
  let room := all.filter (fun j => !s.queueFull n j)
  firstLeast (fun j => 512 - s.get EVC_TGT_CFG.RUNPRIO n j / 2 ^ s.get EVC_CTRL.SPLIT n) (if room.isEmpty then all else room)

/-- The 32 bytes of an event record (R305). -/
def State.eventRecord (s : State) (n j src : Nat) : List Byte :=
  let tail := s.get EVC_TGT_PTR.TAIL n j
  leBytes 2 src ++ leBytes 1 (1 + 128 * b2n (tail / s.queueSize n j % 2 == 0)) ++ leBytes 1 (s.prio src) ++
  leBytes 4 (s.shortStamp (s.stampBase n)) ++ leBytes 4 (s.get EVC_TGT_PTR.SPILL n j) ++ leBytes 2 (s.src src).coalesced ++
  leBytes 1 j ++ leBytes 1 0 ++ leBytes 16 (s.src src).detail.toNat

/-- A record goes into a queue with room: the source becomes active, the running priority the event's, and a queue that was empty
raises its vector. -/
def State.deliverTo (s : State) (n j src : Nat) : State :=
  let tail := s.get EVC_TGT_PTR.TAIL n j
  let empty := tail == s.get EVC_TGT_PTR.HEAD n j
  let s1 := s.hostWrite (s.portOf n) (s.get EVC_TGT_BASE.ADDR n j * 4096 + 32 * (tail % s.queueSize n j)) (s.eventRecord n j src)
  let s2 := ((s1.put EVC_TGT_PTR.SPILL 0 n j).put EVC_TGT_PTR.TAIL ((tail + 1) % 65536) n j).put EVC_TGT_CFG.RUNPRIO (s.prio src) n j
  let x := s2.tgt n j
  let s3 := (s2.setSrcBit EVC_ACTIVE.ACTIVE src true).setTgt n j { x with
    active := x.active ++ [src]
    stack := if s.bit EVC_CTRL.MODE n then (s.prio src, src) :: x.stack else x.stack }
  s3.when empty (fun s => s.raiseMsix (s.portOf n) (16 * n + j))

/-- The event polder `n` can deliver now: its source and its target. -/
def State.nextEvent (s : State) (n : Nat) : Option (Nat × Nat) :=
  if !s.isOpen n || s.bit EVC_CTRL.HOLD n || s.portStopped n then none
  else match firstLeast s.prio (s.eligibleSrcs n), s.pickTarget n with
    | some src, some j =>
      let k := 2 ^ s.get EVC_CTRL.SPLIT n
      if s.prio src / k < s.get EVC_TGT_CFG.RUNPRIO n j / k then some (src, j) else none
    | _, _ => none

/-- One delivery: the source leaves pending, to the queue or, where that is full, to the target's overflow count. -/
def State.deliverEvent (s : State) (n src j : Nat) : State :=
  let s1 := if s.queueFull n j then s.bump EVC_TGT_PTR.SPILL n j else s.deliverTo n j src
  let s2 := (s1.setSrcBit EVC_PEND.PEND src false).setSrc src { s1.src src with coalesced := 0, detail := 0 }
  { s2 with evPol := (n + 1) % 8, evTgt := SMap.set 0 s2.evTgt n ((j + 1) % 16) }

/-- EVENT_DELIVERY: the polder whose turn it is, or the next in rotation that can deliver. -/
def execEventDelivery (s : State) : Out :=
  .next (if s.bit PWR_IDLE.IDLE then s
    else match ((List.range 8).map (fun i => (s.evPol + i) % 8)).findSome? (fun n => (s.nextEvent n).map (fun e => (n, e))) with
      | some (n, src, j) => s.deliverEvent n src j
      | none => s)

/-! Completion (R307, R310). -/

/-- A source is active no more, at whichever target it was. -/
def State.completeSrc (s : State) (n src : Nat) : State :=
  (s.setSrcBit EVC_ACTIVE.ACTIVE src false).each (List.range 16) (fun s j =>
    if (s.tgt n j).active.contains src then
      s.setTgt n j { s.tgt n j with active := (s.tgt n j).active.filter (fun y => y != src) } else s)

/-- EVENT_DONE, in native mode. -/
def execEventDone (p : Fin 4) (pol : Fin 8) (j : Fin 16) (v : BitVec 32) (s : State) : Out :=
  .next (s.polderWrite p pol (fun s =>
    let src := bitsOf v.toNat 0 12
    if s.bit EVC_CTRL.MODE pol || src / 512 != pol.val || !s.srcBit EVC_ACTIVE.ACTIVE src then s
    else (s.completeSrc pol src).when (bitsOf v.toNat 25 1 == 1) (fun s =>
      s.put EVC_TGT_CFG.RUNPRIO (min 256 (bitsOf v.toNat 16 9)) pol j)))

/-- The running priority of a target in stacked mode is that of its top entry. -/
def State.topPrio (s : State) (n j : Nat) : State :=
  s.put EVC_TGT_CFG.RUNPRIO (((s.tgt n j).stack.head?.map (·.1)).getD 256) n j

/-- STACKED_EOI: the top entry is popped; another source named is a stack fault, and its entry is removed where there is one. -/
def execStackedEoi (p : Fin 4) (pol : Fin 8) (j : Fin 16) (v : BitVec 32) (s : State) : Out :=
  .next (s.polderWrite p pol (fun s =>
    let src := bitsOf v.toNat 0 12
    if !s.bit EVC_CTRL.MODE pol then s
    else
      let x := s.tgt pol j
      let there := x.stack.any (fun e => e.2 == src)
      let s1 := s.when there (fun s =>
        ((s.setTgt pol j { x with stack := x.stack.filter (fun e => e.2 != src) }).completeSrc pol src).topPrio pol j)
      if x.stack.head?.map (·.2) = some src then s1
      else (s1.bump EVC_TGT_CFG.STACK_FAULTS pol j).raise (512 * pol.val + 8) (detail [(0, j), (16, src)])))

/-- EVENT_HEAD_WRITE: a new HEAD is accepted up to TAIL; a queue left non-empty raises its vector. -/
def execEventHeadWrite (p : Fin 4) (pol : Fin 8) (j : Fin 16) (head : BitVec 16) (s : State) : Out :=
  .next (s.polderWrite p pol (fun s =>
    let tail := s.get EVC_TGT_PTR.TAIL pol j
    let old := s.get EVC_TGT_PTR.HEAD pol j
    let new := advanceTo old head.toNat ((tail + 65536 - old) % 65536)
    (s.put EVC_TGT_PTR.HEAD new pol j).when (new != tail) (fun s => s.raiseMsix (s.portOf pol) (16 * pol.val + j.val))))

/-- EVC_MODE_WRITE: nothing while a source of the polder is active. The running priorities of empty stacks are idle. -/
def execEvcModeWrite (p : Fin 4) (pol : Fin 8) (stacked : Bool) (s : State) : Out :=
  .next (s.polderWrite p pol (fun s =>
    if (List.range 8).any (fun w => s.reg .EVC_ACTIVE pol w != 0) || s.bit EVC_CTRL.MODE pol == stacked then s
    else (s.put EVC_CTRL.MODE (b2n stacked) pol).when stacked (fun s => s.each (List.range 16) (fun s j => s.topPrio pol j))))

/-- TARGET_DISABLE: EN is written 0. -/
def execTargetDisable (p : Fin 4) (pol : Fin 8) (j : Fin 16) (s : State) : Out :=
  .next (s.polderWrite p pol (fun s => s.disableTarget pol j))

end Sys2Proof.Machine
end

