-- ==== Sys2Proof/Machine/Tensor.lean ====
section
/-! DEFINITION. The tensor instruction (R33, R34, R62, R63). -/

namespace Sys2Proof.Machine

/-- The operands of a TMM by MOD[3:0]: element formats, the chunk and W of R33, and whether MX scales follow the rows.
Integers have a width in place of a format. -/
structure TmmMode where
  fa : Fmt
  fb : Fmt
  int : Option Nat
  chunk : Nat
  w : Nat
  mx : Bool
  deriving DecidableEq, Repr

/-- The element format of an MX operand by its two bits of IMM; reserved values are 0 (R53, R62). -/
def mxOperand (md k : Nat) : Fmt :=
  if md = 9 then (if k = 1 then fE5M2 else fE4M3)
  else if md = 10 then (if k = 1 then fE2M3 else fE3M2)
  else fE2M1

/-- The table of R62; 12–15 execute as 0. -/
def tmmMode (f : TF) : TmmMode :=
  let md := f.md.toNat % 16
  match md with
  | 1 => ⟨fE4M3, fE5M2, none, 64, 64, false⟩
  | 2 => ⟨fE5M2, fE4M3, none, 64, 64, false⟩
  | 3 => ⟨fE5M2, fE5M2, none, 64, 64, false⟩
  | 4 => ⟨fE4M3, fE4M3, some 8, 64, 64, false⟩
  | 5 => ⟨fE4M3, fE4M3, some 4, 64, 64, false⟩
  | 6 => ⟨fBF16, fBF16, none, 32, 48, false⟩
  | 7 => ⟨fFP16, fFP16, none, 32, 48, false⟩
  | 8 => ⟨fFP32, fFP32, none, 16, 64, false⟩
  | 9 => ⟨mxOperand 9 (f.immf 18 2), mxOperand 9 (f.immf 20 2), none, 32, 64, true⟩
  | 10 => ⟨mxOperand 10 (f.immf 18 2), mxOperand 10 (f.immf 20 2), none, 32, 64, true⟩
  | 11 => ⟨fE2M1, fE2M1, none, 32, 64, true⟩
  | _ => ⟨fE4M3, fE4M3, none, 64, 64, false⟩

/-- Bits of an element. -/
def TmmMode.wa (m : TmmMode) : Nat := m.int.getD m.fa.width
def TmmMode.wb (m : TmmMode) : Nat := m.int.getD m.fb.width

/-- K of IMM[15:0], its bits below the chunk size ignored (R62). -/
def TmmMode.k (m : TmmMode) (f : TF) : Nat := f.immf 0 16 / m.chunk * m.chunk

/-- Bytes from one row of K elements to the next: packed elements, MX scales, up to a 64-byte boundary (R63). -/
def rowStride (w k : Nat) (mx : Bool) : Nat := ((k * w + 7) / 8 + (if mx then (k + 31) / 32 else 0) + 63) / 64 * 64

/-- Where the operands of a TMM lie: addresses and lengths of A, B and C, and the layout of B. -/
structure TmmPlace where
  a : Nat
  ra : Nat
  b : Nat
  rb : Nat
  bt : Bool
  c : Nat
  k : Nat
  deriving DecidableEq, Repr

/-- The operands of a TMM; MX formats always read B in the MMAT layout. -/
def State.tmmPlace (s : State) (t : Nat) (f : TF) (m : TmmMode) (mmat : Bool) : TmmPlace :=
  let k := m.k f
  let bt := mmat || m.mx
  { a := clearLow 6 (s.sreg t f.a).toNat, ra := rowStride m.wa k m.mx, b := clearLow 6 (s.sreg t f.b).toNat,
    rb := if bt then rowStride m.wb k m.mx else rowStride m.wb 64 false, bt := bt, c := clearLow 6 (s.sreg t f.d).toNat, k := k }

/-- Row `r` of an operand: its elements and its scales. -/
def State.tmmRow (s : State) (t base stride r w n : Nat) : List Nat × List Nat :=
  let raw := s.tsRead (t * tsSize + base + r * stride) stride
  (unpackBits w n (leNat raw), (raw.drop ((n * w + 7) / 8)).map (·.toNat))

/-- The columns of B, each with its scales. -/
def State.tmmCols (s : State) (t : Nat) (m : TmmMode) (p : TmmPlace) : List (List Nat × List Nat) :=
  if p.bt then (List.range 64).map (fun j => s.tmmRow t p.b p.rb j m.wb p.k)
  else
    let rows := (List.range p.k).map (fun q => (s.tmmRow t p.b p.rb q m.wb 64).1)
    (List.range 64).map (fun j => (rows.map (fun r => r.getD j 0), []))

/-- The chunks of a list. -/
def chunked (n : Nat) : Nat → List Nat → List (List Nat)
  | 0, _ => []
  | c + 1, xs => xs.take n :: chunked n c (xs.drop n)

/-- One chunk of R33 or R34 added to the accumulator; `xa` and `xb` are the block scales of an MX chunk. -/
def TmmMode.chunkStep (m : TmmMode) (acc : Nat) (a b : List Nat) (xa xb : Nat) : LR :=
  match m.int with
  | some w => accumulateInt acc ((List.zipWith (fun x y => sint w x * sint w y) a b).foldl (· + ·) 0)
  | none =>
    let v := chunkSum m.w (List.zipWith (fun x y => (m.fa.val x).mul (m.fb.val y)) a b)
    if m.mx then
      (if xa = 0xFF ∨ xb = 0xFF then accumulate acc .nan else accumulate acc (v.scale ((xa : Int) + xb - 254)))
    else accumulate acc v

/-- One element of C: the chunks of its row of A and column of B in ascending K order. -/
def TmmMode.element (m : TmmMode) (k start : Nat) (a b : List Nat × List Nat) : LR :=
  let n := k / m.chunk
  let cs := List.zip (List.range n) (List.zip (chunked m.chunk n a.1) (chunked m.chunk n b.1))
  cs.foldl (fun r c =>
    let x := m.chunkStep r.bits c.2.1 c.2.2 (a.2.getD c.1 0) (b.2.getD c.1 0)
    { bits := x.bits, set := r.set ||| x.set, may := r.may ||| x.may }) { bits := start }

/-- The starting value of element `i` of C: zero, or the C already there (IMM[16]). -/
def State.tmmStart (s : State) (t : Nat) (f : TF) (p : TmmPlace) (i : Nat) : Nat :=
  if f.immf 16 1 = 1 then s.loadN t (p.c + 4 * i) 4 else 0

/-- The 4,096 elements of C. -/
def State.tmmResult (s : State) (t : Nat) (f : TF) (m : TmmMode) (p : TmmPlace) : List LR :=
  let cols := s.tmmCols t m p
  (List.range 64).flatMap (fun i =>
    let row := s.tmmRow t p.a p.ra i m.wa p.k
    (List.zip (List.range 64) cols).map (fun jc => m.element p.k (s.tmmStart t f p (64 * i + jc.1)) row jc.2))

/-- The formats and K that its instruction gives a product, and its operand bits. -/
def State.tmmOperands (s : State) (t : Nat) (f : TF) (m : TmmMode) (p : TmmPlace) : List Nat :=
  [m.fa.eb, m.fa.mb, m.fb.eb, m.fb.mb, m.int.getD 0, b2n m.mx, p.k] ++ (List.range 64).flatMap (fun i => (s.tmmRow t p.a p.ra i m.wa p.k).1 ++ (s.tmmRow t p.a p.ra i m.wa p.k).2) ++
    (s.tmmCols t m p).flatMap (fun c => c.1 ++ c.2) ++ (List.range 4096).map (s.tmmStart t f p)

/-- A matrix product. -/
def State.tmm (s : State) (t : Fin 192) (i : Instr) (f : TF) (mmat : Bool) : State :=
  s.issue t i (fun s =>
    let m := tmmMode f
    let p := s.tmmPlace t f m mmat
    let c := (p.c, 16384)
    s.access t ([(p.a, 64 * p.ra), (p.b, (if p.bt then 64 else p.k) * p.rb)] ++ (if f.immf 16 1 = 1 then [c] else [])) [c]
      (fun s =>
        let rs := s.tmmResult t f m p
        ((s.tsWrite (t * tsSize + p.c) (rs.flatMap (fun r => leBytes 4 r.bits))).noteLanes t (opNumber i 0)
          (s.tmmOperands t f m p) rs).advance t))

/-- TMM.MMA: B has K rows of 64 elements. -/
def execTmmMma (t : Fin 192) (f : TF) (s : State) : Out := .next (s.tmm t (.tmmMma t f) f false)

/-- TMM.MMAT: B is stored transposed as 64 rows of K elements. -/
def execTmmMmat (t : Fin 192) (f : TF) (s : State) : Out := .next (s.tmm t (.tmmMmat t f) f true)

end Sys2Proof.Machine
end

