-- ==== Sys2Proof/Machine/Vector.lean ====
section
/-! DEFINITION. The vector instructions of a tile: VOP, VMEM, VRED and VFN (spec/03, "Vector instructions"; R30, R35). -/

namespace Sys2Proof.Machine

/-! VOP. -/

/-- The lanes of a vector register in a lane type: 16-bit values occupy the low half (R48). -/
def State.lanes (s : State) (t : Nat) (ty : LTy) (r : BitVec 5) : List Nat := (s.vreg t r).map (· % 2 ^ ty.width)

/-- The operand bits of a lane operation or reduction, in its lane type: v[A], v[B] and v[D] where it reads them. -/
def State.vopOperands (s : State) (t : Nat) (f : TF) (i : Instr) : List Nat :=
  let l := s.lanes t (LTy.ofMod f.md)
  match i with
  | .fma _ _ => l f.a ++ l f.b ++ l f.d
  | .abs _ _ | .neg _ _ | .rsum _ _ | .rmax _ _ | .rmin _ _ => l f.a
  | _ => l f.a ++ l f.b

/-- The results of a lane operation on v[A], v[B] and v[D], which is given the lane number. In a 16-bit lane type every operation, MOVV,
AND, OR and XOR among them, works on the low 16 bits and writes zero to the high half, as R48 has it; the operation table's "on the
lane bits, whatever the type" is read as the bits of the lane type (log 213, DEDUCED). -/
def State.vopResults (s : State) (t : Nat) (f : TF) (g : LTy → Nat → Nat → Nat → Nat → LR) : List LR :=
  let ty := LTy.ofMod f.md
  let l := List.zip (List.range 256) (List.zip (s.lanes t ty f.a) (List.zip (s.lanes t ty f.b) (s.lanes t ty f.d)))
  l.map (fun p => g ty p.1 p.2.1 p.2.2.1 p.2.2.2)

/-- A lane operation: v[D] takes the results, FLAGS what they record. -/
def State.vop (s : State) (t : Fin 192) (i : Instr) (f : TF) (g : LTy → Nat → Nat → Nat → Nat → LR) : State :=
  s.issue t i (fun s =>
    let rs := s.vopResults t f g
    ((s.setV t f.d (rs.map (·.bits))).noteLanes t (opNumber i (f.md.toNat % 4)) (s.vopOperands t f i) rs).advance t)

/-- MOVV copies v[A]. MOVV, SEL and BCAST move bits: a NaN lane keeps its bits, since it is no result of arithmetic (R30; log 214,
DEDUCED). -/
def execMovv (t : Fin 192) (f : TF) (s : State) : Out :=
  .next (s.vop t (.movv t f) f (fun _ _ a _ _ => { bits := a }))

/-- VOP ADD; MOD[2] makes INT32 saturate. -/
def execVopAdd (t : Fin 192) (f : TF) (s : State) : Out :=
  .next (s.vop t (.vopAdd t f) f (fun ty _ a b _ => lAdd ty (f.modBit 2) a b))

/-- VOP SUB; MOD[2] makes INT32 saturate. -/
def execVopSub (t : Fin 192) (f : TF) (s : State) : Out :=
  .next (s.vop t (.vopSub t f) f (fun ty _ a b _ => lSub ty (f.modBit 2) a b))

/-- VOP MUL; INT32 keeps the low 32 bits. -/
def execVopMul (t : Fin 192) (f : TF) (s : State) : Out :=
  .next (s.vop t (.vopMul t f) f (fun ty _ a b _ => lMul ty a b))

/-- FMA: v[A] × v[B] + v[D], rounded once; INT32 wraps or saturates as MOD[2] states. -/
def execFma (t : Fin 192) (f : TF) (s : State) : Out :=
  .next (s.vop t (.fma t f) f (fun ty _ a b d => lFma ty (f.modBit 2) a b d))

/-- VOP MIN: NaN if either input is NaN. -/
def execVopMin (t : Fin 192) (f : TF) (s : State) : Out :=
  .next (s.vop t (.vopMin t f) f (fun ty _ a b _ => lMin ty a b))

/-- VOP MAX: NaN if either input is NaN. -/
def execVopMax (t : Fin 192) (f : TF) (s : State) : Out :=
  .next (s.vop t (.vopMax t f) f (fun ty _ a b _ => lMax ty a b))

/-- ABS. What an INT32 lane of −2^31 becomes is open: a free value of the operation alone (R36; log 25, DESIGN CHOICE). -/
def execAbs (t : Fin 192) (f : TF) (s : State) : Out :=
  .next (s.issue t (.abs t f) (fun s =>
    let rs := s.vopResults t f (fun ty _ a _ _ => lAbs ty (Config.absOfMin (f.modBit 2)).toNat a)
    (s.setV t f.d (rs.map (·.bits))).advance t))

/-- NEG; INT32 wraps or saturates as MOD[2] states. -/
def execNeg (t : Fin 192) (f : TF) (s : State) : Out :=
  .next (s.vop t (.neg t f) f (fun ty _ a _ _ => lNeg ty (f.modBit 2) a))

/-- CMPLT: 1 where less; a NaN compares false. -/
def execCmplt (t : Fin 192) (f : TF) (s : State) : Out :=
  .next (s.vop t (.cmplt t f) f (fun ty _ a b _ => lLt ty a b))

/-- CMPEQ: 1 where equal; a NaN compares false. -/
def execCmpeq (t : Fin 192) (f : TF) (s : State) : Out :=
  .next (s.vop t (.cmpeq t f) f (fun ty _ a b _ => lEq ty a b))

/-- SEL: v[A] where the bits of v[D] in the lane width are not all zero, else v[B]. -/
def execSel (t : Fin 192) (f : TF) (s : State) : Out :=
  .next (s.vop t (.sel t f) f (fun _ _ a b d => { bits := if d ≠ 0 then a else b }))

/-- VOP AND on the lane bits. -/
def execVopAnd (t : Fin 192) (f : TF) (s : State) : Out :=
  .next (s.vop t (.vopAnd t f) f (fun _ _ a b _ => { bits := a &&& b }))

/-- VOP OR on the lane bits. -/
def execVopOr (t : Fin 192) (f : TF) (s : State) : Out :=
  .next (s.vop t (.vopOr t f) f (fun _ _ a b _ => { bits := a ||| b }))

/-- VOP XOR on the lane bits. -/
def execVopXor (t : Fin 192) (f : TF) (s : State) : Out :=
  .next (s.vop t (.vopXor t f) f (fun _ _ a b _ => { bits := a ^^^ b }))

/-- BCAST: every lane takes the bits of s[A] of the lane width. -/
def execBcast (t : Fin 192) (f : TF) (s : State) : Out :=
  .next (s.vop t (.bcast t f) f (fun ty _ _ _ _ => { bits := (s.sreg t f.a).toNat % 2 ^ ty.width }))

/-! VMEM. -/

/-- Bytes of a lane, and the address bits they clear: MOD[0] selects 16-bit lanes (R54). -/
def laneBytes (f : TF) : Nat := if f.modBit 0 then 2 else 4
def laneClear (f : TF) : Nat := if f.modBit 0 then 1 else 2

/-- The address of a VMEM access. -/
def State.vmemAddr (s : State) (t : Nat) (f : TF) : Nat := clearLow (laneClear f) (s.sreg t f.a + f.simm).toNat

/-- The address of lane `i` of a strided access: the stride s[B] has the same bits cleared (R54). Addresses are 64-bit sums, modulo
2^64 (log 212, DEDUCED). -/
def State.stridedAddr (s : State) (t : Nat) (f : TF) (i : Nat) : Nat :=
  (s.vmemAddr t f + i * clearLow (laneClear f) (s.sreg t f.b).toNat) % 2 ^ 64

/-- Little-endian numbers of `n` bytes each. -/
def chunksLE (n : Nat) : Nat → List Byte → List Nat
  | 0, _ => []
  | k + 1, bs => leNat (bs.take n) :: chunksLE n k (bs.drop n)

/-- VLD: lane i ← address + 4i, or 2i with 16-bit lanes. -/
def execVld (t : Fin 192) (f : TF) (s : State) : Out :=
  .next (s.issue t (.vld t f) (fun s =>
    let a := s.vmemAddr t f
    let n := laneBytes f
    s.access t [(a, 256 * n)] [] (fun s =>
      (s.setV t f.d (chunksLE n 256 (s.tsRead (t * tsSize + a) (256 * n)))).advance t)))

/-- VST: the reverse of VLD. -/
def execVst (t : Fin 192) (f : TF) (s : State) : Out :=
  .next (s.issue t (.vst t f) (fun s =>
    let a := s.vmemAddr t f
    let n := laneBytes f
    s.access t [] [(a, 256 * n)] (fun s =>
      (s.tsWrite (t * tsSize + a) ((s.vreg t f.d).flatMap (leBytes n))).advance t)))

/-- VLDS: lane i ← address + i × s[B]. -/
def execVlds (t : Fin 192) (f : TF) (s : State) : Out :=
  .next (s.issue t (.vlds t f) (fun s =>
    let n := laneBytes f
    let as := (List.range 256).map (s.stridedAddr t f)
    s.access t (as.map (·, n)) [] (fun s => (s.setV t f.d (as.map (fun a => s.loadN t a n))).advance t)))

/-- VSTS: the reverse of VLDS; lanes that collide are written in ascending lane order. -/
def execVsts (t : Fin 192) (f : TF) (s : State) : Out :=
  .next (s.issue t (.vsts t f) (fun s =>
    let n := laneBytes f
    let as := (List.range 256).map (s.stridedAddr t f)
    s.access t [] (as.map (·, n)) (fun s =>
      (s.each (List.zip as (s.vreg t f.d)) (fun s p => s.storeN t p.1 n p.2)).advance t)))

/-! VRED (R35). -/

/-- A reduction: s[D] takes the bit pattern of the result, zero-extended. -/
def State.vred (s : State) (t : Fin 192) (i : Instr) (f : TF) (g : State → LTy → LR) : State :=
  s.issue t i (fun s =>
    let r := g s (LTy.ofMod f.md)
    ((s.setS t f.d (BitVec.ofNat 64 r.bits)).noteFlags t (opNumber i (f.md.toNat % 4)) (s.vopOperands t f i) r).advance t)

/-- RSUM. -/
def execRsum (t : Fin 192) (f : TF) (s : State) : Out :=
  .next (s.vred t (.rsum t f) f (fun s ty => treeReduce (lAdd ty false) 8 (s.lanes t ty f.a) 0))
/-- RMAX. -/
def execRmax (t : Fin 192) (f : TF) (s : State) : Out :=
  .next (s.vred t (.rmax t f) f (fun s ty => treeReduce (lMax ty) 8 (s.lanes t ty f.a) 0))
/-- RMIN. -/
def execRmin (t : Fin 192) (f : TF) (s : State) : Out :=
  .next (s.vred t (.rmin t f) f (fun s ty => treeReduce (lMin ty) 8 (s.lanes t ty f.a) 0))
/-- RDOT: each lane product is rounded to the lane type before the tree. -/
def execRdot (t : Fin 192) (f : TF) (s : State) : Out :=
  .next (s.vred t (.rdot t f) f (fun s ty =>
    let ps := List.zipWith (lMul ty) (s.lanes t ty f.a) (s.lanes t ty f.b)
    treeReduce (lAdd ty false) 8 (ps.map (·.bits)) (orMay ps)))

/-! VFN (R35): v[D] ← f(v[A]) in FP32. -/

/-- A function of every lane. -/
def State.vfn (s : State) (t : Fin 192) (i : Instr) (f : TF) (fn : Fn) : State :=
  s.issue t i (fun s =>
    let rs := (s.vreg t f.a).map (lFn fn)
    ((s.setV t f.d (rs.map (·.bits))).noteLanes t (opNumber i 0) (s.vreg t f.a) rs).advance t)

/-- EXP2. -/
def execExp2 (t : Fin 192) (f : TF) (s : State) : Out := .next (s.vfn t (.exp2 t f) f .exp2)
/-- LOG2. -/
def execLog2 (t : Fin 192) (f : TF) (s : State) : Out := .next (s.vfn t (.log2 t f) f .log2)
/-- RCP. -/
def execRcp (t : Fin 192) (f : TF) (s : State) : Out := .next (s.vfn t (.rcp t f) f .rcp)
/-- RSQRT. -/
def execRsqrt (t : Fin 192) (f : TF) (s : State) : Out := .next (s.vfn t (.rsqrt t f) f .rsqrt)
/-- TANH. -/
def execTanh (t : Fin 192) (f : TF) (s : State) : Out := .next (s.vfn t (.tanh t f) f .tanh)
/-- SIGMOID. -/
def execSigmoid (t : Fin 192) (f : TF) (s : State) : Out := .next (s.vfn t (.sigmoid t f) f .sigmoid)

end Sys2Proof.Machine
end

