-- ==== Sys2Proof/Machine/Dispatch.lean ====
section
/-! DEFINITION. One arm per command: a direct call of its meaning, or its refusal by name. -/

namespace Sys2Proof.Machine

/-- The effect of a command on everything but the queue. -/
def exec (i : Instr) (s : State) : Host.Outcome State Fault Refusal :=
  match i with
  | .registerWrite p addr be v => Sys2Proof.Machine.execRegisterWrite p addr be v s
  | .rolRead p addr => Sys2Proof.Machine.execRolRead p addr s
  | .scrubWord t w => Sys2Proof.Machine.execScrubWord t w s
  | .supplyFault c => Sys2Proof.Machine.execSupplyFault c s
  | .tileHang t => Sys2Proof.Machine.execTileHang t s
  | .tileFaultARead p => Sys2Proof.Machine.execTileFaultARead p s
  | .stepCompletionJoin die => Sys2Proof.Machine.execStepCompletionJoin die s
  | .fbdClr p => Sys2Proof.Machine.execFbdClr p s
  | .fbdLastRead p => Sys2Proof.Machine.execFbdLastRead p s
  | .fbdMinRead p => Sys2Proof.Machine.execFbdMinRead p s
  | .undefMajor t w => Sys2Proof.Machine.execUndefMajor t w s
  | .pcPastEnd t => Sys2Proof.Machine.execPcPastEnd t s
  | .nop t f => Sys2Proof.Machine.execNop t f s
  | .jmp t f => Sys2Proof.Machine.execJmp t f s
  | .beq t f => Sys2Proof.Machine.execBeq t f s
  | .bne t f => Sys2Proof.Machine.execBne t f s
  | .blt t f => Sys2Proof.Machine.execBlt t f s
  | .bge t f => Sys2Proof.Machine.execBge t f s
  | .loop t f => Sys2Proof.Machine.execLoop t f s
  | .waitall t f => Sys2Proof.Machine.execWaitall t f s
  | .sopAdd t f => Sys2Proof.Machine.execSopAdd t f s
  | .sopSub t f => Sys2Proof.Machine.execSopSub t f s
  | .sopMul t f => Sys2Proof.Machine.execSopMul t f s
  | .sopMulh t f => Sys2Proof.Machine.execSopMulh t f s
  | .sopAnd t f => Sys2Proof.Machine.execSopAnd t f s
  | .sopOr t f => Sys2Proof.Machine.execSopOr t f s
  | .sopXor t f => Sys2Proof.Machine.execSopXor t f s
  | .sopShl t f => Sys2Proof.Machine.execSopShl t f s
  | .sopShr t f => Sys2Proof.Machine.execSopShr t f s
  | .sopSar t f => Sys2Proof.Machine.execSopSar t f s
  | .sopMin t f => Sys2Proof.Machine.execSopMin t f s
  | .sopMax t f => Sys2Proof.Machine.execSopMax t f s
  | .sopSlt t f => Sys2Proof.Machine.execSopSlt t f s
  | .sopSltu t f => Sys2Proof.Machine.execSopSltu t f s
  | .rdsr t f => Sys2Proof.Machine.execRdsr t f s
  | .wrsr t f => Sys2Proof.Machine.execWrsr t f s
  | .sopiAdd t f => Sys2Proof.Machine.execSopiAdd t f s
  | .sopiSub t f => Sys2Proof.Machine.execSopiSub t f s
  | .sopiMul t f => Sys2Proof.Machine.execSopiMul t f s
  | .sopiMulh t f => Sys2Proof.Machine.execSopiMulh t f s
  | .sopiAnd t f => Sys2Proof.Machine.execSopiAnd t f s
  | .sopiOr t f => Sys2Proof.Machine.execSopiOr t f s
  | .sopiXor t f => Sys2Proof.Machine.execSopiXor t f s
  | .sopiShl t f => Sys2Proof.Machine.execSopiShl t f s
  | .sopiShr t f => Sys2Proof.Machine.execSopiShr t f s
  | .sopiSar t f => Sys2Proof.Machine.execSopiSar t f s
  | .sopiMin t f => Sys2Proof.Machine.execSopiMin t f s
  | .sopiMax t f => Sys2Proof.Machine.execSopiMax t f s
  | .sopiSlt t f => Sys2Proof.Machine.execSopiSlt t f s
  | .sopiSltu t f => Sys2Proof.Machine.execSopiSltu t f s
  | .ldi t f => Sys2Proof.Machine.execLdi t f s
  | .ldhi t f => Sys2Proof.Machine.execLdhi t f s
  | .ld64 t f => Sys2Proof.Machine.execLd64 t f s
  | .st64 t f => Sys2Proof.Machine.execSt64 t f s
  | .ld32 t f => Sys2Proof.Machine.execLd32 t f s
  | .st32 t f => Sys2Proof.Machine.execSt32 t f s
  | .movv t f => Sys2Proof.Machine.execMovv t f s
  | .vopAdd t f => Sys2Proof.Machine.execVopAdd t f s
  | .vopSub t f => Sys2Proof.Machine.execVopSub t f s
  | .vopMul t f => Sys2Proof.Machine.execVopMul t f s
  | .fma t f => Sys2Proof.Machine.execFma t f s
  | .vopMin t f => Sys2Proof.Machine.execVopMin t f s
  | .vopMax t f => Sys2Proof.Machine.execVopMax t f s
  | .abs t f => Sys2Proof.Machine.execAbs t f s
  | .neg t f => Sys2Proof.Machine.execNeg t f s
  | .cmplt t f => Sys2Proof.Machine.execCmplt t f s
  | .cmpeq t f => Sys2Proof.Machine.execCmpeq t f s
  | .sel t f => Sys2Proof.Machine.execSel t f s
  | .vopAnd t f => Sys2Proof.Machine.execVopAnd t f s
  | .vopOr t f => Sys2Proof.Machine.execVopOr t f s
  | .vopXor t f => Sys2Proof.Machine.execVopXor t f s
  | .bcast t f => Sys2Proof.Machine.execBcast t f s
  | .vld t f => Sys2Proof.Machine.execVld t f s
  | .vst t f => Sys2Proof.Machine.execVst t f s
  | .vlds t f => Sys2Proof.Machine.execVlds t f s
  | .vsts t f => Sys2Proof.Machine.execVsts t f s
  | .rsum t f => Sys2Proof.Machine.execRsum t f s
  | .rmax t f => Sys2Proof.Machine.execRmax t f s
  | .rmin t f => Sys2Proof.Machine.execRmin t f s
  | .rdot t f => Sys2Proof.Machine.execRdot t f s
  | .vcvtFromStore t f => Sys2Proof.Machine.execVcvtFromStore t f s
  | .vcvtBf16 t f => Sys2Proof.Machine.execVcvtBf16 t f s
  | .vcvtFp16 t f => Sys2Proof.Machine.execVcvtFp16 t f s
  | .vcvtE4m3 t f => Sys2Proof.Machine.execVcvtE4m3 t f s
  | .vcvtE5m2 t f => Sys2Proof.Machine.execVcvtE5m2 t f s
  | .vcvtMxRow t f => Sys2Proof.Machine.execVcvtMxRow t f s
  | .vcvtIntegers t f => Sys2Proof.Machine.execVcvtIntegers t f s
  | .vcvtInt32Fp32 t f => Sys2Proof.Machine.execVcvtInt32Fp32 t f s
  | .exp2 t f => Sys2Proof.Machine.execExp2 t f s
  | .log2 t f => Sys2Proof.Machine.execLog2 t f s
  | .rcp t f => Sys2Proof.Machine.execRcp t f s
  | .rsqrt t f => Sys2Proof.Machine.execRsqrt t f s
  | .tanh t f => Sys2Proof.Machine.execTanh t f s
  | .sigmoid t f => Sys2Proof.Machine.execSigmoid t f s
  | .tmmMma t f => Sys2Proof.Machine.execTmmMma t f s
  | .tmmMmat t f => Sys2Proof.Machine.execTmmMmat t f s
  | .xfence t f => Sys2Proof.Machine.execXfence t f s
  | .hbmRd t f => Sys2Proof.Machine.execHbmRd t f s
  | .hbmWr t f => Sys2Proof.Machine.execHbmWr t f s
  | .tsRd t f => Sys2Proof.Machine.execTsRd t f s
  | .tsWr t f => Sys2Proof.Machine.execTsWr t f s
  | .gthRd t f => Sys2Proof.Machine.execGthRd t f s
  | .xferDone t id => Sys2Proof.Machine.execXferDone t id s
  | .lfence t f => Sys2Proof.Machine.execLfence t f s
  | .lsend t f => Sys2Proof.Machine.execLsend t f s
  | .lsendDone t id => Sys2Proof.Machine.execLsendDone t id s
  | .lrecv t f => Sys2Proof.Machine.execLrecv t f s
  | .sfence t f => Sys2Proof.Machine.execSfence t f s
  | .ssignal t f => Sys2Proof.Machine.execSsignal t f s
  | .ssignalApplied t id => Sys2Proof.Machine.execSsignalApplied t id s
  | .swait t f => Sys2Proof.Machine.execSwait t f s
  | .hzwait t f => Sys2Proof.Machine.execHzwait t f s
  | .hzload t f => Sys2Proof.Machine.execHzload t f s
  | .hzstream t f => Sys2Proof.Machine.execHzstream t f s
  | .hzfbr t f => Sys2Proof.Machine.execHzfbr t f s
  | .stepEnd t f => Sys2Proof.Machine.execStepEnd t f s
  | .retire t f => Sys2Proof.Machine.execRetire t f s
  | .hzGrant e => Sys2Proof.Machine.execHzGrant e s
  | .hzloadDone e => Sys2Proof.Machine.execHzloadDone e s
  | .hzVector e arrived codes => Sys2Proof.Machine.execHzVector e arrived codes s
  | .auditWindow e => Sys2Proof.Machine.execAuditWindow e s
  | .degLimitReached e => Sys2Proof.Machine.execDegLimitReached e s
  | .hzeCntClr p e => Sys2Proof.Machine.execHzeCntClr p e s
  | .auditClr p e => Sys2Proof.Machine.execAuditClr p e s
  | .auditStatRead p e => Sys2Proof.Machine.execAuditStatRead p e s
  | .schedLoad d => Sys2Proof.Machine.execSchedLoad d s
  | .schedStart d => Sys2Proof.Machine.execSchedStart d s
  | .schedPreempt d => Sys2Proof.Machine.execSchedPreempt d s
  | .schedResume d => Sys2Proof.Machine.execSchedResume d s
  | .readyMessage a seq m => Sys2Proof.Machine.execReadyMessage a seq m s
  | .step0Start => Sys2Proof.Machine.execStep0Start s
  | .decisionPoint => Sys2Proof.Machine.execDecisionPoint s
  | .holdMessage a rank seq boundary => Sys2Proof.Machine.execHoldMessage a rank seq boundary s
  | .releaseMessage a rank seq boundary resume => Sys2Proof.Machine.execReleaseMessage a rank seq boundary resume s
  | .stepResume => Sys2Proof.Machine.execStepResume s
  | .stepBoundary => Sys2Proof.Machine.execStepBoundary s
  | .stepClr p => Sys2Proof.Machine.execStepClr p s
  | .abortMessage a rank seq berm => Sys2Proof.Machine.execAbortMessage a rank seq berm s
  | .bermReport a rank seq latest mirrored start epoch => Sys2Proof.Machine.execBermReport a rank seq latest mirrored start epoch s
  | .rollbackSettle => Sys2Proof.Machine.execRollbackSettle s
  | .rollbackReady => Sys2Proof.Machine.execRollbackReady s
  | .bermStepStart => Sys2Proof.Machine.execBermStepStart s
  | .preemptMessage a rank seq step cancel => Sys2Proof.Machine.execPreemptMessage a rank seq step cancel s
  | .gthAssignWrite p n v => Sys2Proof.Machine.execGthAssignWrite p n v s
  | .gthSetupWrite p addr v => Sys2Proof.Machine.execGthSetupWrite p addr v s
  | .gthBatchTake n => Sys2Proof.Machine.execGthBatchTake n s
  | .rowFetchDone a n entry remote => Sys2Proof.Machine.execRowFetchDone a n entry remote s
  | .lookupRequest a rank tag sched polder table row => Sys2Proof.Machine.execLookupRequest a rank tag sched polder table row s
  | .lookupLost n entry => Sys2Proof.Machine.execLookupLost n entry s
  | .trackerStale n entry => Sys2Proof.Machine.execTrackerStale n entry s
  | .contribution a n seq rank row grad => Sys2Proof.Machine.execContribution a n seq rank row grad s
  | .endMarker a n seq rank => Sys2Proof.Machine.execEndMarker a n seq rank s
  | .gthBatchDone n => Sys2Proof.Machine.execGthBatchDone n s
  | .cacheInv p => Sys2Proof.Machine.execCacheInv p s
  | .cacheAge => Sys2Proof.Machine.execCacheAge s
  | .cachePartWrite p pol v => Sys2Proof.Machine.execCachePartWrite p pol v s
  | .lanePlanCommit d => Sys2Proof.Machine.execLanePlanCommit d s
  | .lanePlanArm d => Sys2Proof.Machine.execLanePlanArm d s
  | .lanePlanCheck d => Sys2Proof.Machine.execLanePlanCheck d s
  | .recablePulse => Sys2Proof.Machine.execRecablePulse s
  | .recableCommit => Sys2Proof.Machine.execRecableCommit s
  | .elementSettled k => Sys2Proof.Machine.execElementSettled k s
  | .linkUp k good words => Sys2Proof.Machine.execLinkUp k good words s
  | .laneDownReq p l => Sys2Proof.Machine.execLaneDownReq p l s
  | .laneUpReq p l => Sys2Proof.Machine.execLaneUpReq p l s
  | .laneParked l => Sys2Proof.Machine.execLaneParked l s
  | .flitTransmit k => Sys2Proof.Machine.execFlitTransmit k s
  | .badFlit k codewords => Sys2Proof.Machine.execBadFlit k codewords s
  | .data k w => Sys2Proof.Machine.execData k w s
  | .credit k w => Sys2Proof.Machine.execCredit k w s
  | .nak k w => Sys2Proof.Machine.execNak k w s
  | .idle k w => Sys2Proof.Machine.execIdle k w s
  | .resync k w => Sys2Proof.Machine.execResync k w s
  | .retryTimeout k => Sys2Proof.Machine.execRetryTimeout k s
  | .laneLost l cause => Sys2Proof.Machine.execLaneLost l cause s
  | .violationLimit k => Sys2Proof.Machine.execViolationLimit k s
  | .creditReannounce k sched => Sys2Proof.Machine.execCreditReannounce k sched s
  | .apr x => Sys2Proof.Machine.execApr x s
  | .aprRestore x => Sys2Proof.Machine.execAprRestore x s
  | .linkRetrain p k => Sys2Proof.Machine.execLinkRetrain p k s
  | .shapeWrite p be v => Sys2Proof.Machine.execShapeWrite p be v s
  | .linkStateMessage a rank seq j peer up => Sys2Proof.Machine.execLinkStateMessage a rank seq j peer up s
  | .loopSample samples ain => Sys2Proof.Machine.execLoopSample samples ain s
  | .loopFailed ix => Sys2Proof.Machine.execLoopFailed ix s
  | .loopParked ix => Sys2Proof.Machine.execLoopParked ix s
  | .lightHoldExit ix => Sys2Proof.Machine.execLightHoldExit ix s
  | .loopAuto p ix => Sys2Proof.Machine.execLoopAuto p ix s
  | .loopManual p ix => Sys2Proof.Machine.execLoopManual p ix s
  | .loopHold p ix => Sys2Proof.Machine.execLoopHold p ix s
  | .loopRestart p ix => Sys2Proof.Machine.execLoopRestart p ix s
  | .coefWrite p ix v => Sys2Proof.Machine.execCoefWrite p ix v s
  | .scuGiveup u cause => Sys2Proof.Machine.execScuGiveup u cause s
  | .scuReloaded u => Sys2Proof.Machine.execScuReloaded u s
  | .seawallClaim u => Sys2Proof.Machine.execSeawallClaim u s
  | .standbyTracking => Sys2Proof.Machine.execStandbyTracking s
  | .scuSwitch p => Sys2Proof.Machine.execScuSwitch p s
  | .scuTakeoverFail => Sys2Proof.Machine.execScuTakeoverFail s
  | .set p pol n => Sys2Proof.Machine.execSet p pol n s
  | .reacquire p pol n => Sys2Proof.Machine.execReacquire p pol n s
  | .tbSrcWrite p pol n src => Sys2Proof.Machine.execTbSrcWrite p pol n src s
  | .syncSend dom => Sys2Proof.Machine.execSyncSend dom s
  | .pdelaySend k => Sys2Proof.Machine.execPdelaySend k s
  | .syncMessage a m => Sys2Proof.Machine.execSyncMessage a m s
  | .pdelayReq a m => Sys2Proof.Machine.execPdelayReq a m s
  | .pdelayResp a m => Sys2Proof.Machine.execPdelayResp a m s
  | .timeHoldover n => Sys2Proof.Machine.execTimeHoldover n s
  | .ppsEdge => Sys2Proof.Machine.execPpsEdge s
  | .ppsOutput => Sys2Proof.Machine.execPpsOutput s
  | .timeCompare m => Sys2Proof.Machine.execTimeCompare m s
  | .tbNsRead p pol n => Sys2Proof.Machine.execTbNsRead p pol n s
  | .refclkLost => Sys2Proof.Machine.execRefclkLost s
  | .refclkReturn => Sys2Proof.Machine.execRefclkReturn s
  | .polderOpen p n => Sys2Proof.Machine.execPolderOpen p n s
  | .polderClose p n => Sys2Proof.Machine.execPolderClose p n s
  | .polderZeroed n => Sys2Proof.Machine.execPolderZeroed n s
  | .portReset q => Sys2Proof.Machine.execPortReset q s
  | .portResetEnd q => Sys2Proof.Machine.execPortResetEnd q s
  | .portTrained q gen width => Sys2Proof.Machine.execPortTrained q gen width s
  | .bar2Access p off len wr => Sys2Proof.Machine.execBar2Access p off len wr s
  | .sluice p addr size v => Sys2Proof.Machine.execSluice p addr size v s
  | .enable p pol => Sys2Proof.Machine.execEnable p pol s
  | .disable p pol => Sys2Proof.Machine.execDisable p pol s
  | .ringGrant => Sys2Proof.Machine.execRingGrant s
  | .descriptorFetched r => Sys2Proof.Machine.execDescriptorFetched r s
  | .descriptorIssue r => Sys2Proof.Machine.execDescriptorIssue r s
  | .descriptorComplete d => Sys2Proof.Machine.execDescriptorComplete d s
  | .nopDescriptor d => Sys2Proof.Machine.execNopDescriptor d s
  | .copy d => Sys2Proof.Machine.execCopy d s
  | .fill d => Sys2Proof.Machine.execFill d s
  | .copyPiece d => Sys2Proof.Machine.execCopyPiece d s
  | .cancel d => Sys2Proof.Machine.execCancel d s
  | .syncAdd d => Sys2Proof.Machine.execSyncAdd d s
  | .syncWrite d => Sys2Proof.Machine.execSyncWrite d s
  | .gather d => Sys2Proof.Machine.execGather d s
  | .scatterAdd d => Sys2Proof.Machine.execScatterAdd d s
  | .prefetch d => Sys2Proof.Machine.execPrefetch d s
  | .domainReport d => Sys2Proof.Machine.execDomainReport d s
  | .domainOn d => Sys2Proof.Machine.execDomainOn d s
  | .domainOff d => Sys2Proof.Machine.execDomainOff d s
  | .calRun d failed => Sys2Proof.Machine.execCalRun d failed s
  | .calSave d => Sys2Proof.Machine.execCalSave d s
  | .calRestore d failed => Sys2Proof.Machine.execCalRestore d failed s
  | .settingsRead d => Sys2Proof.Machine.execSettingsRead d s
  | .settingsWrite d => Sys2Proof.Machine.execSettingsWrite d s
  | .laserRearm d => Sys2Proof.Machine.execLaserRearm d s
  | .fwChunk d => Sys2Proof.Machine.execFwChunk d s
  | .fwActivate d => Sys2Proof.Machine.execFwActivate d s
  | .fwCommit d => Sys2Proof.Machine.execFwCommit d s
  | .fwRevert d => Sys2Proof.Machine.execFwRevert d s
  | .pauseEnd => Sys2Proof.Machine.execPauseEnd s
  | .dump d => Sys2Proof.Machine.execDump d s
  | .counterSnapshot d => Sys2Proof.Machine.execCounterSnapshot d s
  | .map d => Sys2Proof.Machine.execMap d s
  | .unmap d => Sys2Proof.Machine.execUnmap d s
  | .embank d => Sys2Proof.Machine.execEmbank d s
  | .release d => Sys2Proof.Machine.execRelease d s
  | .faultReplyRetry d => Sys2Proof.Machine.execFaultReplyRetry d s
  | .faultReplyAbort d => Sys2Proof.Machine.execFaultReplyAbort d s
  | .faultTimeout pol slot => Sys2Proof.Machine.execFaultTimeout pol slot s
  | .hostReadError d r addr => Sys2Proof.Machine.execHostReadError d r addr s
  | .hbmPatrol pa bad => Sys2Proof.Machine.execHbmPatrol pa bad s
  | .quotaARead p pol => Sys2Proof.Machine.execQuotaARead p pol s
  | .remoteAccessRequest a rank tag pol va len wr => Sys2Proof.Machine.execRemoteAccessRequest a rank tag pol va len wr s
  | .remoteAccessTimeout tag => Sys2Proof.Machine.execRemoteAccessTimeout tag s
  | .remoteAdd a rank tag pol obj v sched epoch => Sys2Proof.Machine.execRemoteAdd a rank tag pol obj v sched epoch s
  | .remoteAddAck a tag denied => Sys2Proof.Machine.execRemoteAddAck a tag denied s
  | .remoteAddTimeout tag => Sys2Proof.Machine.execRemoteAddTimeout tag s
  | .watchWrite p pol w thresh v => Sys2Proof.Machine.execWatchWrite p pol w thresh v s
  | .eventEdge src detail => Sys2Proof.Machine.execEventEdge src detail s
  | .eventDelivery => Sys2Proof.Machine.execEventDelivery s
  | .eventDone p pol j v => Sys2Proof.Machine.execEventDone p pol j v s
  | .stackedEoi p pol j v => Sys2Proof.Machine.execStackedEoi p pol j v s
  | .eventHeadWrite p pol j head => Sys2Proof.Machine.execEventHeadWrite p pol j head s
  | .pendWrite p pol w v => Sys2Proof.Machine.execPendWrite p pol w v s
  | .eventHold p pol on => Sys2Proof.Machine.execEventHold p pol on s
  | .holdExpired pol => Sys2Proof.Machine.execHoldExpired pol s
  | .evcModeWrite p pol stacked => Sys2Proof.Machine.execEvcModeWrite p pol stacked s
  | .targetDisable p pol j => Sys2Proof.Machine.execTargetDisable p pol j s
  | .railFault r back => Sys2Proof.Machine.execRailFault r back s
  | .domainOnDone d => Sys2Proof.Machine.execDomainOnDone d s
  | .domainBringupDone d calFailed calReuse => Sys2Proof.Machine.execDomainBringupDone d calFailed calReuse s
  | .domainOffDone d => Sys2Proof.Machine.execDomainOffDone d s
  | .weirUpdate watts tj die0 die1 => Sys2Proof.Machine.execWeirUpdate watts tj die0 die1 s
  | .powerLimit => Sys2Proof.Machine.execPowerLimit s
  | .idleEnter => Sys2Proof.Machine.execIdleEnter s
  | .idleExit => Sys2Proof.Machine.execIdleExit s
  | .powerOn => Sys2Proof.Machine.execPowerOn s
  | .resetWarm p => Sys2Proof.Machine.execResetWarm p s
  | .resetCold p => Sys2Proof.Machine.execResetCold p s
  | .resetSafe p => Sys2Proof.Machine.execResetSafe p s
  | .resetN us => Sys2Proof.Machine.execResetN us s
  | .startPhaseDone r => Sys2Proof.Machine.execStartPhaseDone r s
  | .calWaitExpired => Sys2Proof.Machine.execCalWaitExpired s
  | .startFail cause => Sys2Proof.Machine.execStartFail cause s
  | .startWatchdog => Sys2Proof.Machine.execStartWatchdog s
  | .laserOff b => Sys2Proof.Machine.execLaserOff b s
  | .laserGlitch b => Sys2Proof.Machine.execLaserGlitch b s
  | .laserSafeReturn b => Sys2Proof.Machine.execLaserSafeReturn b s
  | .laserStable => Sys2Proof.Machine.execLaserStable s
  | .laserDiscrepancy => Sys2Proof.Machine.execLaserDiscrepancy s
  | .discMsWrite p v => Sys2Proof.Machine.execDiscMsWrite p v s
  | .backupAlarm cause => Sys2Proof.Machine.execBackupAlarm cause s
  | .bkLogClr p => Sys2Proof.Machine.execBkLogClr p s
  | .thermalTrip => Sys2Proof.Machine.execThermalTrip s
  | .counterIncrement t event n => Sys2Proof.Machine.execCounterIncrement t event n s
  | .counterCfgWrite p c v => Sys2Proof.Machine.execCounterCfgWrite p c v s
  | .tmuxKey p v => Sys2Proof.Machine.execTmuxKey p v s
  | .tmuxKeyTimeout => Sys2Proof.Machine.execTmuxKeyTimeout s
  | .tmuxLock p => Sys2Proof.Machine.execTmuxLock p s
  | .smbusRead code => Sys2Proof.Machine.execSmbusRead code s
  | .smbusShadowRefresh temps => Sys2Proof.Machine.execSmbusShadowRefresh temps s
  | .extest => Sys2Proof.Machine.execExtest s
  | .idcode => Sys2Proof.Machine.execIdcode s
  | .samplePreload preload => Sys2Proof.Machine.execSamplePreload preload s
  | .clamp => Sys2Proof.Machine.execClamp s
  | .highz => Sys2Proof.Machine.execHighz s
  | .bypass => Sys2Proof.Machine.execBypass s
  | .mainPowerLoss => Sys2Proof.Machine.execMainPowerLoss s
  | .backupPowerLoss => Sys2Proof.Machine.execBackupPowerLoss s
  | .calibrationAge => Sys2Proof.Machine.execCalibrationAge s
  | .hzLaserOkChange e ok => Sys2Proof.Machine.execHzLaserOkChange e ok s
  | .polderOpened n => Sys2Proof.Machine.execPolderOpened n s
  | .laneTrained l word => Sys2Proof.Machine.execLaneTrained l word s
  | .busMasterEnable q on => Sys2Proof.Machine.execBusMasterEnable q on s
  | .smbusWrite code => Sys2Proof.Machine.execSmbusWrite code s

end Sys2Proof.Machine
end

