-- ==== Sys2Proof/Safety.lean ====
section
/-! DEFINITION. What a safe run is, and the words in which the statements speak of one command: it completes with a property, a
tile is at an instruction, what a tile instruction leaves alone. -/

namespace Sys2Proof.Machine

/-- A step that neither faults nor refuses. -/
def StepOk (s : State) : Prop := ∃ t, step s = .next t

/-- The memories of the package and of its hosts are in their canonical form: addresses strictly rising, no byte listed that is what
an unlisted one reads as. -/
def Memory.wf (s : State) : Bool := s.hbm.wf && s.tstore.wf && s.host.wf

/-- The command ends in a next state that has a property. -/
def Does (c : Instr) (s : State) (P : State → Prop) : Prop := ∃ u, exec c s = .next u ∧ P u

/-! Tiles. -/

/-- Tile `t` issues instruction `i` (R51, R58): tiles issue, the tile runs or waits at an instruction, the word there has no error
that cannot be corrected, and it is `i`. -/
def State.atInstr (s : State) (t : Fin 192) (i : Instr) : Bool :=
  s.tilesRun && (s.tile t).live && SMap.get 0 s.isErr (istoreKey t (s.tile t).pc.toNat) != 2 &&
    decide (decodeTile s.part.hz t (s.fetched t) = i)

/-- Every part of the state but the tiles is as before, and every tile but `t`. -/
def OnlyTile (s u : State) (t : Nat) : Prop := u = { s with tiles := u.tiles } ∧ ∀ k, k ≠ t → u.tile k = s.tile k

/-- The tile is past its instruction (R56): the PC of the last index stays, and marks that the tile ran off its store. -/
def Tile.moved (x y : Tile) : Prop :=
  y.st = .running ∧ y.pc = (if x.pc.toNat = 32767 then x.pc else x.pc + 1) ∧
    y.pastEnd = (x.pastEnd || decide (x.pc.toNat = 32767))

/-- One scalar register of the tile holds `v`, or nothing was written where it is s0; the instruction is done; all else is as before. -/
def WroteS (s u : State) (t : Nat) (d : BitVec 5) (v : Word) : Prop :=
  OnlyTile s u t ∧ (s.tile t).moved (u.tile t) ∧
    (∀ r : BitVec 5, u.sreg t r = if r = d ∧ d ≠ 0 then v else s.sreg t r) ∧
    u.tile t = { s.tile t with s := (u.tile t).s, pc := (u.tile t).pc, pastEnd := (u.tile t).pastEnd, st := .running }

/-- As `WroteS`, and the flags have grown by `set` and by some of `may`; the model's count of free values may have moved. -/
def WroteSF (s u : State) (t : Nat) (d : BitVec 5) (v : Word) (set may : BitVec 4) : Prop :=
  OnlyTile { s with free := u.free } u t ∧ (s.tile t).moved (u.tile t) ∧
    (∀ r : BitVec 5, u.sreg t r = if r = d ∧ d ≠ 0 then v else s.sreg t r) ∧
    (∃ x : BitVec 4, x &&& may = x ∧ (u.tile t).flags = (s.tile t).flags ||| set ||| x) ∧
    u.tile t = { s.tile t with s := (u.tile t).s, flags := (u.tile t).flags, pc := (u.tile t).pc, pastEnd := (u.tile t).pastEnd,
                               st := .running }

/-- The lanes of one vector register of the tile hold `bits` (256 values of at most 32 bits), its flags have grown by `set` and by
some of `may`; the instruction is done; all else is as before but the model's count of free values. -/
def WroteV (s u : State) (t : Nat) (d : BitVec 5) (bits : List Nat) (set may : BitVec 4) : Prop :=
  OnlyTile { s with free := u.free } u t ∧ (s.tile t).moved (u.tile t) ∧
    (∀ r : BitVec 5, u.vreg t r = if vnum r = vnum d then bits.map (· % 2 ^ 32) else s.vreg t r) ∧
    (∃ x : BitVec 4, x &&& may = x ∧ (u.tile t).flags = (s.tile t).flags ||| set ||| x) ∧
    u.tile t = { s.tile t with v := (u.tile t).v, flags := (u.tile t).flags, pc := (u.tile t).pc, pastEnd := (u.tile t).pastEnd,
                               st := .running }

/-- The tile is past its instruction, or at `target` where it branches; all else is as before. -/
def Went (s u : State) (t : Nat) (taken : Bool) (target : Nat) : Prop :=
  OnlyTile s u t ∧
    u.tile t = { s.tile t with pc := (u.tile t).pc, pastEnd := (u.tile t).pastEnd, st := .running } ∧
    (if taken then (u.tile t).pc = BitVec.ofNat 15 target ∧ (u.tile t).pastEnd = (s.tile t).pastEnd
     else (s.tile t).moved (u.tile t))

/-- What an access of ranges of the tile's own store reads, words covered in part included (R27). -/
def rangesRead (t : Nat) (rd wr : List (Nat × Nat)) : List (Nat × Nat) :=
  rd.map (ownRange t) ++ (wr.map (ownRange t)).flatMap partialWords

/-- An access of ranges of the tile's own store goes through (R27, R54, R58): none reaches beyond it, no outstanding operation holds
one, no word read is beyond correction. -/
def State.canAccess (s : State) (t : Nat) (rd wr : List (Nat × Nat)) : Bool :=
  !(rd ++ wr).any badRange && !s.heldUp t ((rd ++ wr).map (ownRange t)) && !(s.tsCorrect (rangesRead t rd wr)).tsBad (rangesRead t rd wr)

/-- The state an access of the tile's own store works on: the word fetched and the words read are corrected and counted (R26). -/
def State.accessed (s : State) (t : Nat) (rd wr : List (Nat × Nat)) : State := (s.fetchOk t).tsCorrect (rangesRead t rd wr)

/-- Bytes `bs` stand in package tile store from `a` on and every other byte is as before; the instruction is done; all else is as
before but the flags, grown by `set` and by some of `may`; a word written whole has no error any more. -/
def WroteStore (s u : State) (t a : Nat) (bs : List Byte) (set may : BitVec 4) : Prop :=
  (∀ x, u.tstore.byte x = if a ≤ x ∧ x < a + bs.length then bs.getD (x - a) 0 else s.tstore.byte x) ∧
    (∀ w, SMap.get 0 u.tsErr w = if a ≤ 8 * w ∧ 8 * w + 8 ≤ a + bs.length then 0 else SMap.get 0 s.tsErr w) ∧
    u = { s with tiles := u.tiles, tstore := u.tstore, tsErr := u.tsErr, free := u.free } ∧
    (∀ k, k ≠ t → u.tile k = s.tile k) ∧ (s.tile t).moved (u.tile t) ∧
    (∃ x : BitVec 4, x &&& may = x ∧ (u.tile t).flags = (s.tile t).flags ||| set ||| x) ∧
    u.tile t = { s.tile t with flags := (u.tile t).flags, pc := (u.tile t).pc, pastEnd := (u.tile t).pastEnd, st := .running }

/-- The tile waits at the instruction it is at; all else is as before. -/
def Waits (s u : State) (t : Nat) (st : TileSt) : Prop := OnlyTile s u t ∧ u.tile t = { s.tile t with st := st }

/-- The tile has one operation more outstanding, which keeps the index of its instruction, and is past its instruction; the pointer of its
cluster's port has moved past it where it crosses the port (R25); all else is as before. -/
def Issued (s u : State) (t : Nat) (o : TileOp) : Prop :=
  OnlyTile (s.portGrant t o) u t ∧ (s.tile t).moved (u.tile t) ∧
    (u.tile t).ops = (s.tile t).ops ++ [{ o with id := (s.tile t).nextOp, pc := (s.tile t).pc.toNat }] ∧
    u.tile t = { s.tile t with ops := (u.tile t).ops, nextOp := (s.tile t).nextOp + 1, pc := (u.tile t).pc,
                               pastEnd := (u.tile t).pastEnd, st := .running }

/-- An asynchronous instruction of the tile can issue now (R54, R58): its ranges lie in the store, fewer than 16 operations are
outstanding and none of them holds one of its ranges. -/
def State.canIssue (s : State) (t : Nat) (own pk : List (Nat × Nat)) : Bool :=
  !own.any badRange && !pk.any (fun r => decide (0 < r.2) && decide (pkgSize < r.1 + r.2)) &&
    decide ((s.tile t).ops.length < 16) && !s.heldUp t (own.map (ownRange t) ++ pk)

/-! Registers and descriptors. -/

/-- Every register is as before but those of the names listed. -/
def KeepsRegs (s u : State) (rs : List RegName) : Prop := ∀ r i j, r ∉ rs → u.reg r i j = s.reg r i j

/-- Every register is as before but one, and those of the names listed. -/
def KeepsBut (s u : State) (r : RegName) (i j : Nat) (rs : List RegName) : Prop :=
  ∀ r' i' j', r'.key i' j' ≠ r.key i j → r' ∉ rs → u.reg r' i' j' = s.reg r' i' j'

/-- Descriptor `d` has ended with a status, a detail and its progress (R262, R263). -/
def State.ended (u : State) (d status det done : Nat) : Prop :=
  ∃ y, u.desc d = some y ∧ y.phase = .ended ∧ y.status = status ∧ y.detail = det ∧ y.done = done

/-- The unit of descriptor `x` runs it now: it is in the package under its number, has the opcode, and its turn has come (R266). -/
def State.runs (s : State) (x : Desc) (opcode : Nat) : Prop :=
  s.desc x.id = some x ∧ x.active = true ∧ x.opcode = opcode ∧ s.turn x = true

/-- The state a descriptor's operation works on: the descriptor is with its unit. -/
def State.taken (s : State) (d : Nat) : State := s.onDesc d (fun x => { x with phase := .running })

/-- The same, and the read of `n` bytes that it makes has met the symbol errors there are (R284). -/
def State.reading (s : State) (x : Desc) (va n : Nat) : State := (s.taken x.id).demand x.pol va n

/-! Messages. -/

/-- A message that arrives as `a` on virtual channel `vc` from rank `src` is taken: its flit is, and no detour brings it again (R155,
R163, R178). -/
def State.gets (s : State) (a : Via) (typ vc src : Nat) : Bool :=
  s.takes a.k typ vc false a.f && a.trailer.all (fun t => decide (s.trailAhead src vc t < 2 ^ 31))

/-- The state such a message of `n` flits acts on: their books are read, their SEQs used, their slots free again; data has restarted the
XD core clock; the next trailer is awaited (R155, R158, R178, R323). -/
def State.got (s : State) (a : Via) (typ vc n src : Nat) : State :=
  let s1 := ((s.took a.k n a.f).when (typ == 1) State.wakeXd).sendTo a.k (.credits vc n)
  match a.trailer with
  | none => s1
  | some t => { s1 with trailRx := SMap.set 0 s1.trailRx (4 * src + vc) ((t + 1) % 2 ^ 32) }

/-- The state a flooded message acts on that comes for the first time: it has been sent on over every other link that is up (R179). -/
def State.gotFlood (s : State) (a : Via) (rank seq : Nat) (m : Msg) : State :=
  let s1 := s.got a 4 0 1 rank
  ({ s1 with seen := (rank, seq) :: s1.seen } : State).each (s1.upLinks.filter (fun j => j != a.k.val)) (fun s' j =>
    s'.sendMgmt j ⟨rank, seq, m⟩)

end Sys2Proof.Machine
end

