-- ==== Sys2Proof/Certificates/Slice0/Obligations.lean ====
section
/-! DEFINITION. The statements for the provers, by chapter. Results of arithmetic and the names of shared operations are those of the
model; every statement says what its command leaves, and where it says so, what it leaves alone. A statement over several groups of
commands is the conjunction of its claims, each of which says what it states. -/

open Sys2Proof Sys2Proof.Machine

/-! The machine as a whole. -/

/-- With a command at the front of the queue, a step is that command's effect on the state with the rest of the queue; on an empty
queue one core clock period passes (log 6, DESIGN CHOICE). -/
def Obligations.StepRunsFrontCommand : Prop :=
  ∀ (c : Instr) (s : State),
    step { s with pending := c :: s.pending } = exec c s ∧ (s.pending = [] → step s = .next s.period)

/-! Tile instructions: encoding (R47, R51–R53). -/

/-- Words written out from the field table of R47 and the opcode tables of R59–R69 decode to the instructions they stand for. -/
def Obligations.TileWordsDecode : Prop :=
  ∀ t : Fin 192,
    decodeTile true t 0x0400000000000000 = .nop t {} ∧
    decodeTile true t 0x0410020000000007 = .jmp t { a := 0, b := 0x10, imm := 7 } ∧
    decodeTile true t 0x0800884000000000 = .sopAdd t { d := 1, a := 2, b := 2 } ∧
    decodeTile true t 0x0C00880000000005 = .sopiAdd t { d := 1, a := 2, imm := 5 } ∧
    decodeTile true t 0x2801844000011000 = .tmmMma t { d := 3, a := 1, b := 2, imm := 0x11000 } ∧
    decodeTile true t 0x3C00000000000000 = .stepEnd t {} ∧
    decodeTile true t 0x3C10000000000000 = .retire t {} ∧
    decodeTile true t 0x0000000000000000 = .undefMajor t 0 ∧
    decodeTile false t 0x3800000000000000 = .undefMajor t 0x3800000000000000

/-- Encode and decode agree for every tile instruction and every value of its operands: the word that the encoder gives an instruction
decodes to it on its tile, and every word decodes either to an undefined MAJOR that carries the word, or to an instruction whose
encoding keeps MAJOR and all the fields below MINOR and decodes to the same instruction. -/
def Obligations.TileDecodeOfEncode : Prop :=
  (∀ (i : Instr) (w : Word), encodeTile i = some w → (∀ t x, i ≠ .undefMajor t x) → ∃ t, decodeTile true t w = i) ∧
  (∀ (hz : Bool) (t : Fin 192) (w : Word), decodeTile hz t w ≠ .undefMajor t w →
    ∃ v, encodeTile (decodeTile hz t w) = some v ∧ decodeTile hz t v = decodeTile hz t w ∧ TF.ofWord v = TF.ofWord w ∧
      v.extractLsb' 58 6 = w.extractLsb' 58 6)

/-! Tile instructions: scalar registers and control (R59, R60). -/

/-- Each scalar instruction writes its result into s[D] (nothing where D is 0), moves past itself and changes nothing else. -/
def Obligations.ScalarResults : Prop :=
  ∀ (s : State) (t : Fin 192) (f : TF),
    let a := s.sreg t f.a
    let b := s.sreg t f.b
    let m := f.imm.signExtend 64
    ∀ p ∈ [(Instr.sopAdd t f, a + b), (.sopSub t f, a - b), (.sopMul t f, a * b),
        (.sopMulh t f, BitVec.ofInt 64 (a.toInt * b.toInt / 2 ^ 64)), (.sopAnd t f, a &&& b), (.sopOr t f, a ||| b),
        (.sopXor t f, a ^^^ b), (.sopShl t f, a <<< (b.toNat % 64)), (.sopShr t f, a >>> (b.toNat % 64)),
        (.sopSar t f, a.sshiftRight (b.toNat % 64)), (.sopMin t f, if a.toInt ≤ b.toInt then a else b),
        (.sopMax t f, if a.toInt < b.toInt then b else a), (.sopSlt t f, if a.toInt < b.toInt then 1 else 0),
        (.sopSltu t f, if a.toNat < b.toNat then 1 else 0),
        (.sopiAdd t f, a + m), (.sopiSub t f, a - m), (.sopiMul t f, a * m),
        (.sopiMulh t f, BitVec.ofInt 64 (a.toInt * m.toInt / 2 ^ 64)), (.sopiAnd t f, a &&& m), (.sopiOr t f, a ||| m),
        (.sopiXor t f, a ^^^ m), (.sopiShl t f, a <<< (m.toNat % 64)), (.sopiShr t f, a >>> (m.toNat % 64)),
        (.sopiSar t f, a.sshiftRight (m.toNat % 64)), (.sopiMin t f, if a.toInt ≤ m.toInt then a else m),
        (.sopiMax t f, if a.toInt < m.toInt then m else a), (.sopiSlt t f, if a.toInt < m.toInt then 1 else 0),
        (.sopiSltu t f, if a.toNat < m.toNat then 1 else 0),
        (.ldi t f, m), (.ldhi t f, f.imm ++ (s.sreg t f.d).extractLsb' 0 32)],
      s.atInstr t p.1 = true → Does p.1 s (fun u => WroteS (s.fetchOk t) u t f.d p.2)

/-- RDSR reads the special register that IMM[7:0] names, a reserved number being read as 0; WRSR writes FLAGS or SEED from s[A] and
nothing where it names another one. -/
def Claims.SpecialRegisters : Prop :=
  ∀ (s : State) (t : Fin 192) (f : TF),
    (s.atInstr t (.rdsr t f) = true →
      Does (.rdsr t f) s (fun u => WroteS (s.fetchOk t) u t f.d (match f.imm.toNat % 256 with
        | 1 => BitVec.ofNat 64 (s.get GLB_STEP_NOW.STEP)
        | 2 => (s.tile t).flags.setWidth 64
        | 3 => (s.tile t).seed
        | 4 => BitVec.ofNat 64 s.rank
        | 5 => 1
        | 6 => 0
        | _ => BitVec.ofNat 64 t))) ∧
    (s.atInstr t (.wrsr t f) = true →
      Does (.wrsr t f) s (fun u => OnlyTile (s.fetchOk t) u t ∧ (s.tile t).moved (u.tile t) ∧
        u.tile t = { s.tile t with
          flags := if f.imm.toNat % 256 = 2 then (s.sreg t f.a).setWidth 4 else (s.tile t).flags
          seed := if f.imm.toNat % 256 = 3 then s.sreg t f.a else (s.tile t).seed
          pc := (u.tile t).pc, pastEnd := (u.tile t).pastEnd, st := .running }))

/-- NOP only moves on; the branches go to IMM[14:0] where their condition holds and move on where it does not; LOOP writes s[D] minus
one (nothing where D is 0) and branches where that is not zero. -/
def Claims.ControlFlow : Prop :=
  ∀ (s : State) (t : Fin 192) (f : TF),
    let a := s.sreg t f.a
    let b := s.sreg t f.b
    (∀ p ∈ [(Instr.nop t f, false), (.jmp t f, true), (.beq t f, decide (a = b)), (.bne t f, decide (a ≠ b)),
        (.blt t f, decide (a.toInt < b.toInt)), (.bge t f, decide (b.toInt ≤ a.toInt))],
      s.atInstr t p.1 = true → Does p.1 s (fun u => Went (s.fetchOk t) u t p.2 (f.imm.toNat % 32768))) ∧
    (s.atInstr t (.loop t f) = true →
      Does (.loop t f) s (fun u => OnlyTile (s.fetchOk t) u t ∧
        (∀ r : BitVec 5, u.sreg t r = if r = f.d ∧ f.d ≠ 0 then s.sreg t f.d - 1 else s.sreg t r) ∧
        u.tile t = { s.tile t with s := (u.tile t).s, pc := (u.tile t).pc, pastEnd := (u.tile t).pastEnd, st := .running } ∧
        (if s.sreg t f.d - 1 ≠ 0 then (u.tile t).pc = BitVec.ofNat 15 (f.imm.toNat % 32768) else (s.tile t).moved (u.tile t))))

/-! Tile instructions: tile store (R54, R55). -/

/-- LD64 and LD32 load the aligned word at s[A] + IMM, ST64 and ST32 store it from s[D]; every byte outside the one stored reads as
before. The access goes through where no rule of R27, R54 and R58 stops it. -/
def Claims.ScalarMemory : Prop :=
  ∀ (s : State) (t : Fin 192) (f : TF),
    let at_ (k : Nat) : Nat := (s.sreg t f.a + f.imm.signExtend 64).toNat / 2 ^ k * 2 ^ k
    (∀ p ∈ [(Instr.ld64 t f, 3, 8), (.ld32 t f, 2, 4)],
      s.atInstr t p.1 = true → (s.fetchOk t).canAccess t [(at_ p.2.1, p.2.2)] [] = true →
      Does p.1 s (fun u => WroteS (s.accessed t [(at_ p.2.1, p.2.2)] []) u t f.d
        (BitVec.ofNat 64 (leNat (s.tstore.read (t * 0x400000 + at_ p.2.1) p.2.2))))) ∧
    (∀ p ∈ [(Instr.st64 t f, 3, 8), (.st32 t f, 2, 4)],
      s.atInstr t p.1 = true → (s.fetchOk t).canAccess t [] [(at_ p.2.1, p.2.2)] = true →
      Does p.1 s (fun u => WroteStore (s.accessed t [] [(at_ p.2.1, p.2.2)]) u t (t * 0x400000 + at_ p.2.1)
        (leBytes p.2.2 (s.sreg t f.d).toNat) 0 0))

/-- A scalar access that reaches beyond the tile's store is the tile fault ADDR_RANGE: the tile stops, code 4 is latched with the tile
and its PC where the latch is armed, and no byte of tile store changes. -/
def Claims.AddressRangeFaults : Prop :=
  ∀ (s : State) (t : Fin 192) (f : TF),
    let at_ (k : Nat) : Nat := (s.sreg t f.a + f.imm.signExtend 64).toNat / 2 ^ k * 2 ^ k
    ∀ p ∈ [(Instr.ld64 t f, 3, 8), (.ld32 t f, 2, 4), (.st64 t f, 3, 8), (.st32 t f, 2, 4)],
      s.atInstr t p.1 = true → 0x400000 < at_ p.2.1 + p.2.2 →
      exec p.1 s = .next ((s.fetchOk t).tileFault t 4)

/-! Tile instructions: vectors (R30, R35, R61). -/

/-- Each lane operation writes v[D], lane by lane, from the lanes of v[A], v[B] and v[D] in the lane type of MOD; FLAGS takes what the
results record; nothing else changes. The lane functions are those of R30. -/
def Claims.LaneResults : Prop :=
  ∀ (s : State) (t : Fin 192) (f : TF),
    ∀ p ∈ [(Instr.movv t f, fun (_ : LTy) (_ a _ _ : Nat) => ({ bits := a } : LR)),
        (.vopAdd t f, fun ty _ a b _ => lAdd ty (f.modBit 2) a b), (.vopSub t f, fun ty _ a b _ => lSub ty (f.modBit 2) a b),
        (.vopMul t f, fun ty _ a b _ => lMul ty a b), (.fma t f, fun ty _ a b d => lFma ty (f.modBit 2) a b d),
        (.vopMin t f, fun ty _ a b _ => lMin ty a b), (.vopMax t f, fun ty _ a b _ => lMax ty a b),
        (.neg t f, fun ty _ a _ _ => lNeg ty (f.modBit 2) a), (.cmplt t f, fun ty _ a b _ => lLt ty a b),
        (.cmpeq t f, fun ty _ a b _ => lEq ty a b), (.sel t f, fun _ _ a b d => { bits := if d ≠ 0 then a else b }),
        (.vopAnd t f, fun _ _ a b _ => { bits := a &&& b }), (.vopOr t f, fun _ _ a b _ => { bits := a ||| b }),
        (.vopXor t f, fun _ _ a b _ => { bits := a ^^^ b }),
        (.bcast t f, fun ty _ _ _ _ => { bits := (s.sreg t f.a).toNat % 2 ^ ty.width })],
      s.atInstr t p.1 = true →
      Does p.1 s (fun u => WroteV (s.fetchOk t) u t f.d ((s.vopResults t f p.2).map (·.bits))
        (orSet (s.vopResults t f p.2)) (orMay (s.vopResults t f p.2)))

/-- ABS clears the sign of a floating-point lane and negates a negative INT32 lane; what an INT32 lane of −2^31 becomes is open (log
25), every other lane and all else is as stated. -/
def Claims.AbsResults : Prop :=
  ∀ (s : State) (t : Fin 192) (f : TF), s.atInstr t (.abs t f) = true →
    Does (.abs t f) s (fun u => OnlyTile { s.fetchOk t with free := u.free } u t ∧ (s.tile t).moved (u.tile t) ∧
      (∀ r : BitVec 5, vnum r ≠ vnum f.d → u.vreg t r = s.vreg t r) ∧
      (∀ k, k < 256 → LTy.ofMod f.md = .int32 → (s.vreg t f.a).getD k 0 ≠ 2 ^ 31 →
        (u.vreg t f.d).getD k 0 = (sint 32 ((s.vreg t f.a).getD k 0)).natAbs) ∧
      (∀ k, k < 256 → LTy.ofMod f.md ≠ .int32 →
        let x := (s.vreg t f.a).getD k 0 % 2 ^ (LTy.ofMod f.md).width
        (u.vreg t f.d).getD k 0 = if (LTy.ofMod f.md).fmt.val x = .nan then (LTy.ofMod f.md).fmt.qnan
          else x % 2 ^ ((LTy.ofMod f.md).width - 1)) ∧
      u.tile t = { s.tile t with v := (u.tile t).v, pc := (u.tile t).pc, pastEnd := (u.tile t).pastEnd, st := .running })

/-- A reduction writes the bits of its result into s[D], zero-extended: the pairwise tree of R35 over the 256 lanes, for RDOT over the
rounded lane products. -/
def Claims.ReductionResults : Prop :=
  ∀ (s : State) (t : Fin 192) (f : TF),
    let ty := LTy.ofMod f.md
    let xs := s.lanes t ty f.a
    let ps := List.zipWith (lMul ty) xs (s.lanes t ty f.b)
    ∀ p ∈ [(Instr.rsum t f, treeReduce (lAdd ty false) 8 xs 0), (.rmax t f, treeReduce (lMax ty) 8 xs 0),
        (.rmin t f, treeReduce (lMin ty) 8 xs 0), (.rdot t f, treeReduce (lAdd ty false) 8 (ps.map (·.bits)) (orMay ps))],
      s.atInstr t p.1 = true →
      Does p.1 s (fun u => WroteSF (s.fetchOk t) u t f.d (BitVec.ofNat 64 p.2.bits) p.2.set p.2.may)

/-- A function of R35 writes v[D] lane by lane from the FP32 lanes of v[A]. -/
def Claims.FunctionResults : Prop :=
  ∀ (s : State) (t : Fin 192) (f : TF),
    ∀ p ∈ [(Instr.exp2 t f, Fn.exp2), (.log2 t f, .log2), (.rcp t f, .rcp), (.rsqrt t f, .rsqrt), (.tanh t f, .tanh),
        (.sigmoid t f, .sigmoid)],
      s.atInstr t p.1 = true →
      Does p.1 s (fun u => WroteV (s.fetchOk t) u t f.d (((s.vreg t f.a).map (lFn p.2)).map (·.bits))
        (orSet ((s.vreg t f.a).map (lFn p.2))) (orMay ((s.vreg t f.a).map (lFn p.2))))

/-- Conversions into v[D] (minors 1, 2, 6 with INT32, and 7): each lane is the conversion of its lane of v[A], rounded as MOD[1:0] states
at the position of R390; FLAGS takes what they record. -/
def Claims.RegisterConversions : Prop :=
  ∀ (s : State) (t : Fin 192) (f : TF),
    let s1 := s.fetchOk t
    let m (k : Nat) : RMode := s1.cvtMode t f (2 ^ 25 + 32 * (256 * vnum f.d + k))
    ∀ p ∈ [(Instr.vcvtBf16 t f, fun (k x : Nat) => fBF16.encode (m k) (f.modBit 2) false (fFP32.val x)),
        (.vcvtFp16 t f, fun k x => fFP16.encode (m k) (f.modBit 2) false (fFP32.val x)),
        (.vcvtInt32Fp32 t f, fun k x =>
          fFP32.encode (m k) (f.modBit 2) false (.fin (decide (sint 32 x < 0)) (sint 32 x).natAbs 0))] ++
        (if f.imm.toNat % 4 = 2 then [(.vcvtIntegers t f, fun k x => encodeInt 32 (m k) (fFP32.val x))] else []),
      s.atInstr t p.1 = true →
      Does p.1 s (fun u => WroteV s1 u t f.d ((List.range 256).map (fun k => (p.2 k ((s.vreg t f.a).getD k 0)).1))
        (((List.range 256).map (fun k => (p.2 k ((s.vreg t f.a).getD k 0)).2)).foldl (· ||| ·) 0) 0)

/-- Conversions into tile store (minors 3, 4, and 6 with INT8 or INT4): 256 elements, packed, at s[D] with its low 6 bits cleared, each
rounded at its position of R390; every other byte reads as before. -/
def Claims.StoreConversions : Prop :=
  ∀ (s : State) (t : Fin 192) (f : TF),
    let a := (s.sreg t f.d).toNat / 64 * 64
    let m (w k : Nat) : RMode := (s.fetchOk t).cvtMode t f (8 * a + w * k)
    ∀ p ∈ [(Instr.vcvtE4m3 t f, 8, fun (k x : Nat) => fE4M3.encode (m 8 k) (f.modBit 2) false (fFP32.val x)),
        (.vcvtE5m2 t f, 8, fun k x => fE5M2.encode (m 8 k) (f.modBit 2) false (fFP32.val x))] ++
        (if f.imm.toNat % 4 = 2 then []
         else if f.imm.toNat % 4 = 1 then [(.vcvtIntegers t f, 4, fun k x => encodeInt 4 (m 4 k) (fFP32.val x))]
         else [(.vcvtIntegers t f, 8, fun k x => encodeInt 8 (m 8 k) (fFP32.val x))]),
      let rs := (List.range 256).map (fun k => p.2.2 k ((s.vreg t f.a).getD k 0))
      s.atInstr t p.1 = true → (s.fetchOk t).canAccess t [] [(a, 32 * p.2.1)] = true →
      Does p.1 s (fun u => WroteStore (s.accessed t [] [(a, 32 * p.2.1)]) u t (t * 0x400000 + a)
        (leBytes (32 * p.2.1) (packBits p.2.1 (rs.map (·.1)))) ((rs.map (·.2)).foldl (· ||| ·) 0) 0)

/-- An MX row is 8 blocks of 32 elements, packed, then their 8 scales, written at s[D] with its low 6 bits cleared (R32, R63); minor 0
reads 256 elements, and for MX their scales, from s[A] into v[D], where a lane that no rule gives a value is open (log 26, DESIGN CHOICE). -/
def Claims.RowConversions : Prop :=
  ∀ (s : State) (t : Fin 192) (f : TF),
    (let x := mxElem (f.immf 0 3)
     let a := (s.sreg t f.d).toNat / 64 * 64
     let bs := (s.fetchOk t).mxRow t f x a
     s.atInstr t (.vcvtMxRow t f) = true → (s.fetchOk t).canAccess t [] [(a, 32 * x.width + 8)] = true →
     Does (.vcvtMxRow t f) s (fun u => WroteStore (s.accessed t [] [(a, 32 * x.width + 8)]) u t (t * 0x400000 + a)
       (leBytes (32 * x.width) (packBits x.width (bs.flatMap (·.2.1))) ++ bs.map (fun b => BitVec.ofNat 8 b.1))
       (bs.foldl (fun g b => g ||| b.2.2) 0) 0)) ∧
    (let c := CvtSrc.of f
     let a := clearLow c.clear (s.sreg t f.a).toNat
     let raw := s.tstore.read (t * 0x400000 + a) c.bytes
     let xs := unpackBits c.width 256 (leNat (raw.take (32 * c.width)))
     let sc := (raw.drop (32 * c.width)).map (·.toNat)
     s.atInstr t (.vcvtFromStore t f) = true → (s.fetchOk t).canAccess t [(a, c.bytes)] [] = true →
     Does (.vcvtFromStore t f) s (fun u => ∃ o : Nat → Nat,
       WroteV (s.accessed t [(a, c.bytes)] []) u t f.d
         ((List.range 256).map (fun k => (cvtLane c (sc.getD (k / 32) 0) (o k) (xs.getD k 0)).1))
         (((List.range 256).map (fun k => (cvtLane c (sc.getD (k / 32) 0) (o k) (xs.getD k 0)).2)).foldl (· ||| ·) 0) 0))

/-- VLD and VLDS load 256 lanes of 4 bytes, or of 2 where MOD[0] is 1, from consecutive or strided addresses. -/
def Claims.VectorLoads : Prop :=
  ∀ (s : State) (t : Fin 192) (f : TF),
    let n := if f.modBit 0 then 2 else 4
    let a := (s.sreg t f.a + f.imm.signExtend 64).toNat / n * n
    let at_ (k : Nat) : Nat := (a + k * ((s.sreg t f.b).toNat / n * n)) % 2 ^ 64
    let load (x : Nat) : Nat := leNat (s.tstore.read (t * 0x400000 + x) n)
    (s.atInstr t (.vld t f) = true → (s.fetchOk t).canAccess t [(a, 256 * n)] [] = true →
      Does (.vld t f) s (fun u => WroteV (s.accessed t [(a, 256 * n)] []) u t f.d
        ((List.range 256).map (fun k => load (a + n * k))) 0 0)) ∧
    (let rs := (List.range 256).map (fun k => (at_ k, n))
     s.atInstr t (.vlds t f) = true → (s.fetchOk t).canAccess t rs [] = true →
      Does (.vlds t f) s (fun u => WroteV (s.accessed t rs []) u t f.d ((List.range 256).map (fun k => load (at_ k))) 0 0))

/-- VST stores 256 lanes at consecutive addresses; VSTS at strided ones, where of lanes that collide the highest wins. Every byte that
no lane covers reads as before. -/
def Claims.VectorStores : Prop :=
  ∀ (s : State) (t : Fin 192) (f : TF),
    let n := if f.modBit 0 then 2 else 4
    let a := (s.sreg t f.a + f.imm.signExtend 64).toNat / n * n
    let at_ (k : Nat) : Nat := (a + k * ((s.sreg t f.b).toNat / n * n)) % 2 ^ 64
    let lane (k : Nat) : List Byte := leBytes n ((s.vreg t f.d).getD k 0)
    (s.atInstr t (.vst t f) = true → (s.fetchOk t).canAccess t [] [(a, 256 * n)] = true →
      Does (.vst t f) s (fun u => WroteStore (s.accessed t [] [(a, 256 * n)]) u t (t * 0x400000 + a)
        ((List.range 256).flatMap lane) 0 0)) ∧
    (let rs := (List.range 256).map (fun k => (at_ k, n))
     s.atInstr t (.vsts t f) = true → (s.fetchOk t).canAccess t [] rs = true →
      Does (.vsts t f) s (fun u =>
        (∀ x, u.tstore.byte x =
          match ((List.range 256).filter (fun k =>
            decide (t * 0x400000 + at_ k ≤ x) && decide (x < t * 0x400000 + at_ k + n))).getLast? with
          | some k => (lane k).getD (x - (t * 0x400000 + at_ k)) 0
          | none => s.tstore.byte x) ∧
        u = { s.accessed t [] rs with tiles := u.tiles, tstore := u.tstore, tsErr := u.tsErr } ∧
        (∀ k, k ≠ t.val → u.tile k = s.tile k) ∧ (s.tile t).moved (u.tile t) ∧
        u.tile t = { s.tile t with pc := (u.tile t).pc, pastEnd := (u.tile t).pastEnd, st := .running }))

/-- A matrix product writes the 4,096 FP32 or INT32 elements of C at s[D], each accumulated chunk by chunk in ascending K (R33, R34,
R62), starting from 0 or from the C already there. -/
def Obligations.TensorProducts : Prop :=
  ∀ (s : State) (t : Fin 192) (f : TF),
    ∀ p ∈ [(Instr.tmmMma t f, false), (.tmmMmat t f, true)],
      let m := tmmMode f
      let q := s.tmmPlace t f m p.2
      let c := (q.c, 16384)
      let rd := [(q.a, 64 * q.ra), (q.b, (if q.bt then 64 else q.k) * q.rb)] ++ (if f.imm.toNat / 65536 % 2 = 1 then [c] else [])
      let rs := s.tmmResult t f m q
      s.atInstr t p.1 = true → (s.fetchOk t).canAccess t rd [c] = true →
      Does p.1 s (fun u => WroteStore (s.accessed t rd [c]) u t (t * 0x400000 + q.c) (rs.flatMap (fun r => leBytes 4 r.bits))
        (orSet rs) (orMay rs))

/-! Tile instructions: asynchronous operations (R57, R58, R64–R68). -/

/-- A fence, and WAITALL, goes on where the tile has no outstanding operation of its kinds, and waits at the instruction where it has. -/
def Claims.FencesWait : Prop :=
  ∀ (s : State) (t : Fin 192) (f : TF),
    ∀ p ∈ [(Instr.xfence t f, [OpKind.hbmRd, .hbmWr, .tsRd, .tsWr, .gthRd]), (.lfence t f, [.lsend]),
        (.sfence t f, [.signal, .remoteSignal]), (.hzwait t f, [.hzload, .hzstream]),
        (.waitall t f, [.hbmRd, .hbmWr, .tsRd, .tsWr, .gthRd, .lsend, .signal, .remoteSignal, .hzload, .hzstream])],
      s.atInstr t p.1 = true →
      Does p.1 s (fun u => if ∃ o ∈ (s.tile t).ops, o.kind ∈ p.2 then Waits (s.fetchOk t) u t .fence
        else Went (s.fetchOk t) u t false 0)

/-- An asynchronous instruction that can issue leaves one operation more outstanding and moves on: a transfer of bytes that is served,
a GTH_RD of an engine in schedule mode, an LSEND on a send channel of the tile, a local SSIGNAL of a slot of the image. -/
def Claims.OperationsIssue : Prop :=
  ∀ (s : State) (t : Fin 192) (f : TF),
    let d := (s.sreg t f.d).toNat / 64 * 64
    let a := (s.sreg t f.a).toNat / 64 * 64
    let n := (s.sreg t f.b).toNat / 64 * 64
    let s1 := s.fetchOk t
    (∀ p ∈ [(Instr.hbmRd t f, OpKind.hbmRd, [(d, n)], []), (.hbmWr t f, .hbmWr, [(a, n)], []),
        (.tsRd t f, .tsRd, [(d, n)], [(a, n)]), (.tsWr t f, .tsWr, [(a, n)], [(d, n)])],
      let o : TileOp := { id := 0, kind := p.2.1, dst := d, src := a, len := n }
      s.atInstr t p.1 = true → s1.canIssue t p.2.2.1 p.2.2.2 = true → n ≠ 0 → (∃ w, s1.xferRun t o = .ok w) →
      Does p.1 s (fun u => Issued s1 u t o)) ∧
    (s.atInstr t (.gthRd t f) = true → s1.canIssue t [(d, n)] [] = true → n ≠ 0 → s.schedEngine (f.imm.toNat % 16) = true →
      Does (.gthRd t f) s (fun u =>
        Issued s1 u t { id := 0, kind := .gthRd, dst := d, src := a, len := n, arg := f.imm.toNat % 16 })) ∧
    (s.atInstr t (.lsend t f) = true → s1.canIssue t [(a, n)] [] = true → n ≠ 0 → (s.tileChan t f true).isSome = true →
      Does (.lsend t f) s (fun u =>
        Issued s1 u t { id := 0, kind := .lsend, dst := d, src := a, len := n, arg := f.imm.toNat % 65536 })) ∧
    (∀ obj, s.atInstr t (.ssignal t f) = true → s1.canIssue t [] [] = true → s.slotObj (f.imm.toNat % 4096) = some obj →
      f.modBit 0 = false →
      Does (.ssignal t f) s (fun u => Issued s1 u t { id := 0, kind := .signal, arg := obj, val := s.sreg t f.b }))

/-- HZLOAD and HZSTREAM leave an operation outstanding and a claim of the engine that MOD[0] names, behind its other claims. -/
def Claims.HjelzoClaims : Prop :=
  ∀ (s : State) (t : Fin 192) (f : TF),
    let d := (s.sreg t f.d).toNat / 64 * 64
    let a := (s.sreg t f.a).toNat / 64 * 64
    let n := (s.sreg t f.b).toNat
    let e := if f.modBit 0 then 1 else 0
    ∀ p ∈ [(Instr.hzload t f, [(a, 16384)],
          ({ id := 0, kind := .hzload, src := a, len := 16384, arg := f.imm.toNat % 65536, eng := e } : TileOp)),
        (.hzstream t f, [(a, 128 * n), (d, 256 * n)],
          { id := 0, kind := .hzstream, src := a, dst := d, len := n, arg := f.imm.toNat % 65536, eng := e })],
      s.atInstr t p.1 = true → (s.fetchOk t).canIssue t p.2.1 [] = true →
      (∀ o ∈ (s.tile t).ops, ¬ (o.kind = .hzstream ∧ o.arg = f.imm.toNat % 65536 ∧ p.2.2.kind = .hzstream)) →
      Does p.1 s (fun u => Issued { s.fetchOk t with hz := u.hz } u t p.2.2 ∧
        (u.hzEng e).claims = (s.hzEng e).claims ++ [(t.val, (s.tile t).nextOp)] ∧
        (∀ k, k ≠ e → u.hzEng k = s.hzEng k) ∧ u.hzEng e = { s.hzEng e with claims := (u.hzEng e).claims })

/-- An XFER that ends has moved its bytes: the operation is gone, and for a transfer within package tile store the destination holds what
the source held. An LSEND to a channel of this package appends its bytes there; operations on one stream or channel end in program order
only; a local SSIGNAL adds its value to its object, modulo 2^64. -/
def Obligations.OperationsEnd : Prop :=
  ∀ (s : State) (t : Fin 192) (id : Nat) (o : TileOp), (s.tile t).op id = some o →
    (∀ w, o.kind ∈ [OpKind.hbmRd, .hbmWr, .tsRd, .tsWr, .gthRd] →
      (o.kind = .gthRd → (s.tile t).firstOf o = true ∧ o.len ≤ (SMap.get [] s.streams (192 * o.arg + t)).length) →
      s.xferRun t o = .ok w →
      Does (.xferDone t id) s (fun u => u = w.endOp t id ∧ (u.tile t).op id = none ∧
        (o.kind = .tsRd → u.tstore.read (t * 0x400000 + o.dst) o.len = s.tstore.read o.src o.len) ∧
        (o.kind = .tsWr → u.tstore.read o.dst o.len = s.tstore.read (t * 0x400000 + o.src) o.len))) ∧
    (∀ p ∈ [(Instr.xferDone t id, OpKind.gthRd), (.lsendDone t id, .lsend)],
      o.kind = p.2 → (s.tile t).firstOf o = false → exec p.1 s = .next s) ∧
    (∀ c bs w, o.kind = .lsend → s.chan o.arg = some c → (s.tile t).firstOf o = true →
      s.storeSource t (t * 0x400000 + o.src) o.len = .ok (bs, w) →
      Does (.lsendDone t id) s (fun u => (u.tile t).op id = none ∧
        (s.chanPeer c = s.rank → u.chanBytes c.peerChan = s.chanBytes c.peerChan ++ bs) ∧
        (s.chanPeer c ≠ s.rank → u = (w.endOp t id).sendBytes (s.chanPeer c) (BitVec.ofNat 32 c.peerChan) bs))) ∧
    (o.kind = .signal →
      Does (.ssignalApplied t id) s (fun u => (u.tile t).op id = none ∧ u.obj o.arg = s.obj o.arg + o.val ∧
        (∀ k, k ≠ o.arg → u.obj k = s.obj k)))

/-- LRECV of a receive channel of the tile takes s[B] bytes once they are there, writes them to tile store and removes them from the
channel, and waits before that; SWAIT goes on once the slot's object has reached s[A] and waits before that; on a channel or a slot
that the image lacks both go on at once. -/
def Claims.ReceiveAndWait : Prop :=
  ∀ (s : State) (t : Fin 192) (f : TF),
    let d := (s.sreg t f.d).toNat / 64 * 64
    let n := (s.sreg t f.b).toNat / 64 * 64
    let c := f.imm.toNat % 65536
    (s.atInstr t (.lrecv t f) = true → (s.tileChan t f false).isNone = true →
      Does (.lrecv t f) s (fun u => Went (s.fetchOk t) u t false 0)) ∧
    (s.atInstr t (.lrecv t f) = true → (s.tileChan t f false).isSome = true → (s.fetchOk t).canAccess t [] [(d, n)] = true →
      Does (.lrecv t f) s (fun u =>
        if n ≤ (s.chanBytes c).length then
          u.chanBytes c = (s.chanBytes c).drop n ∧ (s.tile t).moved (u.tile t) ∧
            (∀ x, u.tstore.byte x = if t * 0x400000 + d ≤ x ∧ x < t * 0x400000 + d + n then (s.chanBytes c).getD (x - (t * 0x400000 + d)) 0
              else s.tstore.byte x) ∧ (∀ k, k ≠ t.val → u.tile k = s.tile k)
        else Waits (s.accessed t [] [(d, n)]) u t .lrecv)) ∧
    (s.atInstr t (.swait t f) = true →
      Does (.swait t f) s (fun u => match s.slotObj (f.imm.toNat % 4096) with
        | none => Went (s.fetchOk t) u t false 0
        | some obj => if (s.sreg t f.a).toNat ≤ (s.obj obj).toNat then Went (s.fetchOk t) u t false 0
          else Waits (s.fetchOk t) u t .swait))

/-- HZFBR waits while its block is outstanding; of a finished block it writes the flag bitmap at s[A], the number of flagged vectors
into s[D], and goes to IMM[30:16] where s[D] is then not zero (s0 always is). -/
def Claims.FlaggedBlockReport : Prop :=
  ∀ (s : State) (t : Fin 192) (f : TF),
    let tag := f.imm.toNat % 65536
    let a := (s.sreg t f.a).toNat / 64 * 64
    s.atInstr t (.hzfbr t f) = true →
    ((∃ o ∈ (s.tile t).ops, o.kind = .hzstream ∧ o.arg = tag) → Does (.hzfbr t f) s (fun u => Waits (s.fetchOk t) u t .fence)) ∧
    (∀ b, (¬ ∃ o ∈ (s.tile t).ops, o.kind = .hzstream ∧ o.arg = tag) → (s.tile t).blocks.find? (fun b => b.tag == tag) = some b →
      (s.fetchOk t).canAccess t [] [(a, (b.n + 511) / 512 * 64)] = true →
      Does (.hzfbr t f) s (fun u =>
        (∀ r : BitVec 5, u.sreg t r = if r = f.d ∧ f.d ≠ 0 then BitVec.ofNat 64 b.flagged.length else s.sreg t r) ∧
        (∀ x, u.tstore.byte x =
          if t * 0x400000 + a ≤ x ∧ x < t * 0x400000 + a + (b.n + 511) / 512 * 64 then
            (flagBitmap b.n b.flagged).getD (x - (t * 0x400000 + a)) 0
          else s.tstore.byte x) ∧
        (if f.d ≠ 0 ∧ BitVec.ofNat 64 b.flagged.length ≠ 0 then (u.tile t).pc = BitVec.ofNat 15 (f.imm.toNat / 65536 % 32768)
         else (s.tile t).moved (u.tile t)) ∧ (∀ k, k ≠ t.val → u.tile k = s.tile k)))

/-- STEP.END and STEP.RETIRE report the tile done for the step once nothing of it is outstanding, and wait before that; the PC stays. -/
def Claims.StepEnds : Prop :=
  ∀ (s : State) (t : Fin 192) (f : TF),
    ∀ p ∈ [(Instr.stepEnd t f, TileSt.complete), (.retire t f, .retired)],
      s.atInstr t p.1 = true →
      Does p.1 s (fun u =>
        if (s.tile t).ops = [] then
          u.tile t = { s.tile t with st := p.2 } ∧ (∀ k, k ≠ t.val → u.tile k = s.tile k) ∧
            u = { s.fetchOk t with tiles := u.tiles, sched := { s.sched with clusterFb := u.sched.clusterFb } } ∧
            (u.sched.clusterFb = s.sched.clusterFb ∨ u.sched.clusterFb = s.sched.clusterFb ++ [(t.val / 12, s.freeboard)])
        else Waits (s.fetchOk t) u t .fence)

/-- MAJOR 0x00 and 0x10–0x3F are undefined, and 0x0E on a package without Hjelzo engines. A word of an undefined MAJOR and a PC past the
last index each stop the tile with their fault of R43, as does a tile whose time neither waiting nor done in the step exceeds the hang
limit (64 hundredths of a nanosecond a period): with the latch armed, GLB_TILE_FAULT_A takes the code, the tile and its PC, and
GLB_TILE_FAULT_B the step; otherwise the fault is counted. -/
def Obligations.TileFaultsLatch : Prop :=
  ∀ (s : State) (t : Fin 192) (w : Word),
    (∀ hz, decodeTile hz t w = .undefMajor t w ↔
      let major := (w.extractLsb' 58 6).toNat
      major = 0 ∨ 16 ≤ major ∨ (major = 14 ∧ hz = false)) ∧
    (s.atInstr t (.undefMajor t w) = true → exec (.undefMajor t w) s = .next ((s.fetchOk t).tileFault t 3)) ∧
    (s.tilesRun = true → (s.tile t).pastEnd = true → (s.tile t).st = .running → exec (.pcPastEnd t) s = .next (s.tileFault t 4)) ∧
    exec (.tileHang t) s = .next (
      if s.tilesRun = true ∧ ((s.tile t).st = .running ∨ (s.tile t).st = .fence) ∧
          s.get GLB_TILE_HANG.LIMIT_MS * 1000000 * 100 < 64 * (s.tile t).busy then s.tileFault t 6 else s) ∧
    (∀ code, code < 8 → code ≠ 0 →
      let u := s.latchFault t code
      (u.tile t).st = .faulted ∧ (∀ k, k ≠ t.val → u.tile k = s.tile k) ∧
      (s.get GLB_TILE_FAULT_A.CODE = 0 →
        u.get GLB_TILE_FAULT_A.CODE = code ∧ u.get GLB_TILE_FAULT_A.TILE = t ∧ u.get GLB_TILE_FAULT_A.PC = (s.tile t).pc.toNat ∧
        u.get GLB_TILE_FAULT_B.STEP = s.get GLB_STEP_NOW.STEP) ∧
      (s.get GLB_TILE_FAULT_A.CODE ≠ 0 →
        u.get GLB_TILE_FAULT_CNT.COUNT = min GLB_TILE_FAULT_CNT.COUNT.stop (s.get GLB_TILE_FAULT_CNT.COUNT + 1) ∧
        u.reg .GLB_TILE_FAULT_A 0 0 = s.reg .GLB_TILE_FAULT_A 0 0 ∧ u.reg .GLB_TILE_FAULT_B 0 0 = s.reg .GLB_TILE_FAULT_B 0 0))

/-! Register accesses and the tile fabric (R10, R11, R28, R39–R42, R45, R231). -/

/-- A host write of a register: where the register may not be written through the port it is dropped and counted; during a management
pause, or while the switch control changes its unit, a register of theirs waits; otherwise every field that software writes, with
a byte enabled, takes its value clamped, and every other field and register keeps its own. -/
def Obligations.RegisterWrites : Prop :=
  ∀ (p : Fin 4) (addr : Nat) (be : BitVec 8) (v : Word) (s : State),
    Does (.registerWrite p addr be v) s (fun u => match s.target p addr with
      | .dropped => u = s.drop p
      | .reg r i j _ copy =>
        if r.place.scope = .glob ∧ copy = false ∧ s.adminPort p = false then u = s.drop p
        else match s.holdWrite r (.reg p addr be v) with
          | some h => u = h
          | none => r ≠ .EVC_PEND → ¬ (r = .EVC_TGT_CFG ∧ s.bit EVC_TGT_CFG.EN i j = true) →
            (∀ f ∈ r.fields, u.get f i j =
              if f.acc = .rw ∧ f.touched be = true ∧ s.writable f i j copy = true then
                s.clampTo f i (bitsOf (mergeBytes (s.reg r i j).toNat be v.toNat) f.lo f.w) % 2 ^ f.w
              else s.get f i j) ∧
            KeepsBut s u r i j [.EVC_PEND] ∧ u = { s with regs := u.regs, srcs := u.srcs }
      | .msix _ => u = { s with msix := u.msix, msixOut := u.msixOut }
      | .sluice _ => u = s
      | .empty => u = if addr < 0x100000 ∧ s.adminPort p = false then s.drop p else s)

/-- A host read of a register: the value goes to the host, the fields that a read re-arms read 0 afterwards, every other field and
register is as before. Growth and reserved space reads 0; a read of another polder's block reads 0 and is counted as dropped. -/
def Obligations.RegisterReads : Prop :=
  ∀ (p : Fin 4) (addr : Nat) (s : State),
    Does (.rolRead p addr) s (fun u => match s.target p addr with
      | .reg r i j _ _ =>
        u.readData = BitVec.ofNat 64 (s.readValue r i j) ∧
        (∀ f ∈ r.fields, u.get f i j = if f.acc = .rol then 0 else s.get f i j) ∧
        KeepsBut s u r i j (if r = .GLB_TILE_FAULT_A then [.GLB_TILE_FAULT_CNT] else []) ∧
        u = { s with regs := u.regs, readData := u.readData, fbdLastStep := u.fbdLastStep, fbdMinStep := u.fbdMinStep,
                     quotaB := u.quotaB, hz := u.hz, bases := u.bases }
      | .empty => u = { s with readData := 0 }
      | .dropped => u = { ({ s with readData := 0 } : State) with regs := u.regs } ∧ KeepsBut s u .GLB_PORT p 0 [] ∧
          u.get GLB_PORT.DROPPED p = min GLB_PORT.DROPPED.stop (s.get GLB_PORT.DROPPED p + 1)
      | .msix _ => u = { s with readData := u.readData }
      | .sluice _ => u = { s with readData := 0 })

/-- A read of GLB_TILE_FAULT_A clears the fault it shows and so re-arms the latch, and begins the count of faults not latched since that
read; reads of GLB_FBD_LAST and GLB_FBD_MIN latch the step that belongs with each; a write of 1 to GLB_FBD_CTRL.CLR puts the minimum, the
alarm count and the clusters' minima back, through a port of polder 0 only. -/
def Claims.FabricRegisters : Prop :=
  ∀ (p : Fin 4) (s : State),
    Does (.tileFaultARead p) s (fun u => u.readData = s.reg .GLB_TILE_FAULT_A 0 0 ∧ u.get GLB_TILE_FAULT_A.CODE = 0 ∧
      u.get GLB_TILE_FAULT_CNT.COUNT = 0 ∧ KeepsBut s u .GLB_TILE_FAULT_A 0 0 [.GLB_TILE_FAULT_CNT] ∧
      u = { s with regs := u.regs, readData := u.readData }) ∧
    Does (.fbdLastRead p) s (fun u =>
      u = { s with readData := s.reg .GLB_FBD_LAST 0 0, fbdLastStep := s.get GLB_FBD_LAST_STEP.STEP }) ∧
    Does (.fbdMinRead p) s (fun u =>
      u = { s with readData := s.reg .GLB_FBD_MIN 0 0, fbdMinStep := s.get GLB_FBD_MIN_STEP.STEP }) ∧
    Does (.fbdClr p) s (fun u =>
      if s.adminPort p = true then
        u.get GLB_FBD_MIN.FREEBOARD = 0x7FFFFFFF ∧ u.get GLB_FBD_MIN.CLUSTER = 0 ∧ u.get GLB_FBD_MIN_STEP.STEP = 0 ∧
        u.get GLB_FBD_ALARM_CNT.COUNT = 0 ∧ (∀ c < 16, u.get GLB_FBD_CLUSTER.FREEBOARD c = 0x7FFFFFFF) ∧
        KeepsRegs s u [.GLB_FBD_MIN, .GLB_FBD_MIN_STEP, .GLB_FBD_ALARM_CNT, .GLB_FBD_CLUSTER] ∧
        u = { s with regs := u.regs, fbdMinStep := 0 }
      else u = s.drop p)

/-- The scrubber reads the next word of an idle tile: a single-bit error is corrected and counted, an uncorrectable word is counted once
and left, and the tile's scrubber moves on; a pass is complete once every tile has passed all its words. Of a tile that is not idle, or
with EN at 0, or out of turn, it reads nothing. -/
def Claims.ScrubberPasses : Prop :=
  ∀ (t : Fin 192) (w : Fin 524288) (s : State),
    let k := t.val * 524288 + w.val
    let e := SMap.get 0 s.tsErr k
    let n (j : Nat) : Nat := SMap.get 0 s.scrubbed j + (if j = t then 1 else 0)
    let last : Bool := (List.range 192).all (fun j => decide (524288 ≤ n j))
    Does (.scrubWord t w) s (fun u =>
      if s.bit GLB_TSTORE_SCRUB.EN = true ∧ s.tileIdle t = true ∧ w.val = SMap.get 0 s.scrubbed t % 524288 then
        (∀ x, SMap.get 0 u.tsErr x = if x = k then (if e = 1 then 0 else if e = 2 then 3 else e) else SMap.get 0 s.tsErr x) ∧
        u.get GLB_TSTORE_ECC.CE =
          (if e = 1 then min GLB_TSTORE_ECC.CE.stop (s.get GLB_TSTORE_ECC.CE + 1) else s.get GLB_TSTORE_ECC.CE) ∧
        u.get GLB_TSTORE_ECC.UE_LATENT =
          (if e = 2 then min GLB_TSTORE_ECC.UE_LATENT.stop (s.get GLB_TSTORE_ECC.UE_LATENT + 1) else s.get GLB_TSTORE_ECC.UE_LATENT) ∧
        u.get GLB_TSTORE_SCRUB.PASSES =
          (if last then (s.get GLB_TSTORE_SCRUB.PASSES + 1) % 65536 else s.get GLB_TSTORE_SCRUB.PASSES) ∧
        (∀ j < 192, SMap.get 0 u.scrubbed j = if last then n j - 524288 else n j) ∧
        KeepsRegs s u [.GLB_TSTORE_ECC, .GLB_TSTORE_SCRUB] ∧ u = { s with regs := u.regs, tsErr := u.tsErr, scrubbed := u.scrubbed }
      else u = s)

/-- A supply fault of a cluster stops each of its tiles that is not done with the step, latches SUPPLY where the latch is armed, and
turns a running schedule to rollback, which counts once; with no such tile it changes nothing. -/
def Claims.SupplyFaults : Prop :=
  ∀ (c : Fin 16) (s : State),
    let hit (t : Nat) : Prop := t / 12 = c ∧ (s.tile t).done = false ∧ (s.tile t).st ≠ .faulted
    Does (.supplyFault c) s (fun u =>
      (s.tilesRun = true ∧ (∃ t, hit t) →
        (∀ t, hit t → (u.tile t).st = .faulted) ∧
        (∀ t, ¬ hit t → (u.tile t).st = (s.tile t).st) ∧
        (s.get GLB_TILE_FAULT_A.CODE = 0 → u.get GLB_TILE_FAULT_A.CODE = 5 ∧ hit (u.get GLB_TILE_FAULT_A.TILE)) ∧
        (s.schedSt = 3 → u.schedSt = 4 ∧
          u.get GLB_STEP_CNT.ROLLBACK = min GLB_STEP_CNT.ROLLBACK.stop (s.get GLB_STEP_CNT.ROLLBACK + 1))) ∧
      (¬ (s.tilesRun = true ∧ ∃ t, hit t) → u = s))

/-- A tile die whose clusters are all done reports once; the later of the two reports ends the measurement: the freeboard of the step
stands in GLB_FBD_LAST with its step, the minimum takes it where it is lower, a package that held the boundary releases it. -/
def Claims.StepIsMeasured : Prop :=
  ∀ (die : Fin 2) (s : State),
    let seen := if die.val = 0 then s.sched.join0 else s.sched.join1
    let other := if die.val = 0 then s.sched.join1 else s.sched.join0
    Does (.stepCompletionJoin die) s (fun u =>
      if s.tilesRun = true ∧ seen = false ∧ s.dieDone die = true then
        (if die.val = 0 then u.sched.join0 else u.sched.join1) = true ∧
        (if die.val = 0 then u.sched.join1 else u.sched.join0) = other ∧
        (if other = true then
          u.get GLB_FBD_LAST.FREEBOARD = uint 32 s.freeboard ∧ u.get GLB_FBD_LAST_STEP.STEP = s.stepNo ∧
          u.get GLB_FBD_MIN.FREEBOARD =
            (if s.freeboard < sint 32 (s.get GLB_FBD_MIN.FREEBOARD) then uint 32 s.freeboard else s.get GLB_FBD_MIN.FREEBOARD) ∧
          u.get GLB_STEP_STATE.HOLDING = 0 ∧
          KeepsRegs s u [.GLB_FBD_LAST, .GLB_FBD_LAST_STEP, .GLB_FBD_MIN, .GLB_FBD_MIN_STEP, .GLB_FBD_CLUSTER, .GLB_FBD_ALARM_CNT,
            .GLB_STEP_STATE, .EVC_PEND]
         else u = { s with sched := u.sched })
      else u = s)

/-! Static schedules (R76–R92, R391). -/

/-- SCHED_LOAD: while a schedule starts, runs or rolls back the image is refused with code 1; an image that fails a check is refused
with that check's code; an image that passes becomes the resident schedule, LOADED, and the descriptor succeeds. -/
def Obligations.SchedulesLoad : Prop :=
  ∀ (s : State) (x : Desc), s.runs x 0x10 →
    let src := x.field 0x18 8 / 8 * 8
    let v := s.reading x src (min (x.field 0x20 4) 0x10000000)
    Does (.schedLoad x.id) s (fun u =>
      if s.schedBusy = true then u.ended x.id 0x05 1 0 ∧ u.sched = s.sched
      else match v.vread x.pol src (min (x.field 0x20 4) 0x10000000) with
        | .error _ => u.schedSt = s.schedSt ∧ u.sched = s.sched
        | .ok bs => match checkImage v x.pol bs with
          | some r => u.ended x.id 0x05 (r.detail % 2 ^ 48) 0 ∧ u.sched = s.sched ∧ u.istore = s.istore
          | none => u.ended x.id 0x00 0 0 ∧ u.schedSt = 1 ∧ u.sched.image = some (Image.of x.pol src bs) ∧ u.isErr = [])

/-- SCHED_START and SCHED_RESUME: with a fitted tile domain off they end UNIT_UNAVAILABLE; where no schedule of the polder stands in
a state that they accept, SCHED_STATE; with another IMAGE_ID, or where a check of R92 fails, SCHED_MISMATCH; else the schedule is
STARTING under the descriptor, and a machine of this one package starts HOLD_HORIZON after its ready message. -/
def Claims.SchedulesStart : Prop :=
  ∀ (s : State) (x : Desc) (im : Image) (b : Berm), s.sched.image = some im → s.sched.startDesc ≠ some x.id → s.sched.readies = [] →
    let begun (u : State) : Prop :=
      if s.recheck im ≠ 0 then u.ended x.id 0x09 (3 + 256 * s.recheck im) 0 ∧ u.schedSt = s.schedSt
      else u.schedSt = 2 ∧ u.sched.startDesc = some x.id ∧ u.sched.prev = s.schedSt ∧
        (im.packages = 1 → s.rank = 0 → u.sched.go = some (s.mtick + im.horizon)) ∧
        (2 ≤ im.packages → u.sched.go = none)
    (s.runs x 0x11 → Does (.schedStart x.id) s (fun u =>
      match s.tileDomainOff with
      | some dom => u.ended x.id 0x03 (1 + 256 * dom) 0
      | none =>
        if s.ownsSched x.pol = false ∨ s.schedSt ≠ 1 ∨ s.isSpare = true then
          u.ended x.id 0x08 (s.schedSt + 256 * b2n (im.owner != x.pol)) 0
        else if x.field 0x18 8 ≠ 0 ∧ im.id.toNat ≠ x.field 0x18 8 then u.ended x.id 0x09 1 0
        else begun u)) ∧
    (s.sched.berm = some b → s.runs x 0x13 → Does (.schedResume x.id) s (fun u =>
      match s.tileDomainOff with
      | some dom => u.ended x.id 0x03 (1 + 256 * dom) 0
      | none =>
        if s.ownsSched x.pol = false ∨ ¬ (s.schedSt = 5 ∨ s.schedSt = 1) ∨ s.isSpare = true then
          u.ended x.id 0x08 (s.schedSt + 256 * b2n (im.owner != x.pol)) 0
        else begun u))

/-- SCHED_PREEMPT of the owner of a running schedule names a berm step, the earliest of those named, and waits for it; in a rollback the
schedule is to stop at the target; in any other state, or for another polder, it ends SCHED_STATE. A request of another package is
forwarded and has the same effect. -/
def Claims.PreemptionIsNamed : Prop :=
  ∀ (s : State) (x : Desc) (im : Image), s.sched.image = some im → s.sched.preDescs.contains x.id = false →
    (s.runs x 0x12 → Does (.schedPreempt x.id) s (fun u =>
      if im.owner ≠ x.pol ∨ ¬ (s.schedSt = 3 ∨ s.schedSt = 4) then u.ended x.id 0x08 (s.schedSt + 256 * b2n (im.owner != x.pol)) 0
      else u.sched.preDescs = s.sched.preDescs ++ [x.id] ∧ u.schedSt = s.schedSt ∧
        (if s.schedSt = 4 then u.sched.stopAt = true
         else u.sched.preempt = (match s.namedBerm im with
           | some n => some (match s.sched.preempt with
             | some m => min m n
             | none => n)
           | none => s.sched.preempt)))) ∧
    (∀ (a : Via) (rank seq step : Nat) (cancel : Bool), s.gets a 4 0 rank = true → (rank, seq) ∉ s.seen →
      Does (.preemptMessage a rank seq step cancel) s (fun u =>
        (s.schedSt = 3 → u.schedSt = 3 ∧ u.sched.preempt = some (match s.sched.preempt with
          | some m => min m step
          | none => step)) ∧
        (s.schedSt = 4 → u.sched.stopAt = true) ∧
        (s.schedSt = 2 → cancel = true → s.polderSt im.owner ≠ 3 → u.schedSt = s.sched.prev % 16 ∧
          (∀ d, s.sched.startDesc = some d → ∀ y, s.desc d = some y → y.phase ≠ .ended → u.ended d 0x0A 0 0)) ∧
        (∀ j, j ≠ a.k.val → s.linkUp j = true → j < 128 → ⟨rank, seq, .preempt step cancel⟩ ∈ (u.link j).q0)))

/-- A flooded message whose flit is not taken has only the link's answer to that flit; one that has been seen changes nothing but what
its flit does at the link (R163, R179). One seen for the first time: a hold or a release for the boundary of the step in hand is recorded,
an abort turns a running schedule to rollback, a berm report stands in place of the sender's earlier one, a ready message of a rollback
in place of its earlier one. -/
def Obligations.ScheduleMessages : Prop :=
  ∀ (s : State) (a : Via) (rank seq boundary resume berm latest start epoch : Nat) (mirrored : Option Nat) (m : Ready),
    let cs := [Instr.holdMessage a rank seq boundary, .releaseMessage a rank seq boundary resume, .abortMessage a rank seq berm,
      .bermReport a rank seq latest mirrored start epoch, .readyMessage a seq { m with rank := rank },
      .preemptMessage a rank seq berm false]
    (s.takes a.k 4 0 false a.f = false → ∀ c ∈ cs, exec c s = .next (s.refuseFlit a.k 0 false a.f)) ∧
    (s.gets a 4 0 rank = true → (rank, seq) ∈ s.seen → ∀ c ∈ cs, exec c s = .next (s.got a 4 0 1 rank)) ∧
    (s.gets a 4 0 rank = true → (rank, seq) ∉ s.seen →
      Does (.holdMessage a rank seq boundary) s (fun u =>
        (s.inStep = true → boundary = s.boundary → boundary ≠ s.sched.crossed →
          u.sched.holds = (if rank ∈ s.sched.holds then s.sched.holds else s.sched.holds ++ [rank]) ∧
          (s.sched.late = false → u.get GLB_STEP_STATE.HOLDERS = min 65535 u.sched.holds.length)) ∧
        (s.crossedOne = true → boundary = s.sched.crossed →
          u.sched.late = true ∧ u.sched.frozen = some s.stepCount ∧ u.get GLB_STEP_STATE.HELD = 1 ∧
          u.sched.lateHolds = (if rank ∈ s.sched.lateHolds then s.sched.lateHolds else s.sched.lateHolds ++ [rank]) ∧
          u.get GLB_STEP_STATE.HOLDERS = min 65535 u.sched.lateHolds.length ∧
          u.get GLB_STEP_CNT.LATE_HOLD = min GLB_STEP_CNT.LATE_HOLD.stop (s.get GLB_STEP_CNT.LATE_HOLD + 1))) ∧
      Does (.releaseMessage a rank seq boundary resume) s (fun u =>
        u.sched = if s.crossedOne = true ∧ boundary = s.sched.crossed then
            { s.sched with lateReleases := s.sched.lateReleases ++ [(rank, resume)] }
          else if s.inStep = true ∧ boundary = s.boundary then
            { s.sched with releases := s.sched.releases ++ [(rank, resume)] } else s.sched) ∧
      Does (.abortMessage a rank seq berm) s (fun u =>
        (s.schedSt = 3 → u.schedSt = 4 ∧ (∀ t, (u.tile t).ops = []) ∧ u.sched.restoring = false ∧
          u.get GLB_STEP_CNT.ROLLBACK = min GLB_STEP_CNT.ROLLBACK.stop (s.get GLB_STEP_CNT.ROLLBACK + 1)) ∧
        (s.schedSt = 6 → s.sched.image ≠ none → s.sched.readies = [] → u.schedSt = 4) ∧
        (s.schedSt = 1 → u = { u with sched := { s.sched with readies := [] } } ∧ u.schedSt = 1)) ∧
      Does (.bermReport a rank seq latest mirrored start epoch) s (fun u =>
        u.sched.reports = if s.schedSt = 3 ∨ s.schedSt = 4 then
          s.sched.reports.filter (fun r => r.rank != rank) ++
            [{ rank := rank, latest := latest, mirrored := mirrored, start := start, epoch := epoch }]
          else s.sched.reports) ∧
      (m.kind = 2 → Does (.readyMessage a seq { m with rank := rank }) s (fun u =>
        u.sched.readies = s.sched.readies.filter (fun x => x.rank != rank || x.kind != 2) ++ [{ m with rank := rank }])) ∧
      (m.kind ≠ 2 → s.sched.image = none → Does (.readyMessage a seq { m with rank := rank }) s (fun u =>
        u.sched.readies = s.sched.readies ++ [{ m with rank := rank }])))

/-- Step 0 starts when the machine tick count has reached the start that the ready messages settled: RUNNING, step 0, epoch 0, the step
counter reading 0 there. At a boundary that nobody holds, with both joins done, the next step starts, or the schedule is DONE
after its last one and its descriptor succeeds. -/
def Obligations.StepsAdvance : Prop :=
  ∀ (s : State) (im : Image), s.sched.image = some im →
    (∀ t, s.sched.go = some t → Does .step0Start s (fun u =>
      if s.schedSt = 2 ∧ s.sched.kind = .start ∧ t ≤ s.mtick then
        u.schedSt = 3 ∧ u.stepNo = 0 ∧ u.get GLB_STEP_STATE.EPOCH = 0 ∧ u.get GLB_STEP_OFFSET.OFFSET = t % 2 ^ 64 ∧
        u.sched.startVal = 0 ∧ u.sched.go = none ∧ u.sched.join0 = false ∧ u.sched.join1 = false
      else u = s)) ∧
    Does .stepBoundary s (fun u =>
      if s.inStep = true ∧ s.sched.frozen = none ∧ s.sched.holds = [] ∧ s.sched.join0 = true ∧ s.sched.join1 = true ∧
          s.boundary ≤ s.stepCount then
        s.sched.restoring = false → s.sched.preempt = none →
          if im.total ≤ s.stepNo + 1 then
            (s.polderSt im.owner ≠ 3 → u.schedSt = 6) ∧
            (∀ d, s.sched.startDesc = some d → ∀ y, s.desc d = some y → y.phase ≠ .ended →
              u.ended d 0x00 ((im.total - 1) % 2 ^ 48) 0)
          else u.schedSt = s.schedSt ∧ u.stepNo = (s.stepNo + 1) % 2 ^ 64 ∧ u.sched.startVal = s.boundary ∧
            u.sched.crossed = s.boundary ∧ u.sched.join0 = false ∧ u.sched.join1 = false ∧ u.sched.holds = []
      else u = s)

/-- At the decision point a package whose joins are not both done holds the boundary: HOLDING, one overtopping more, itself among the
holders. When every holder has released and the tick count has reached the largest resume value, the step counter goes on from the
boundary value. A write of 1 to GLB_STEP_CTRL.CLR zeroes the step counts. -/
def Claims.HoldsAndResumes : Prop :=
  ∀ (s : State) (p : Fin 4),
    Does .decisionPoint s (fun u =>
      if s.inStep = true ∧ s.sched.startVal + s.budget ≤ s.stepCount ∧ (s.sched.join0 && s.sched.join1) = false ∧
          s.bit GLB_STEP_STATE.HOLDING = false ∧ s.sched.frozen = none then
        u.get GLB_STEP_STATE.HOLDING = 1 ∧ u.sched.holds = s.sched.holds ++ [s.rank] ∧
        u.get GLB_STEP_STATE.HOLDERS = min 65535 u.sched.holds.length ∧
        u.get GLB_STEP_CNT.OVERTOP = min GLB_STEP_CNT.OVERTOP.stop (s.get GLB_STEP_CNT.OVERTOP + 1) ∧
        (∀ k, s.linkUp k = true → k < 128 → ⟨s.rank, s.floodSeq, .hold s.boundary⟩ ∈ (u.link k).q0) ∧
        KeepsRegs s u [.GLB_STEP_STATE, .GLB_STEP_CNT]
      else u = s) ∧
    Does .stepResume s (fun u => match s.resumeTick with
      | none => u = s
      | some r =>
        if s.sched.frozen ≠ none ∧ r ≤ s.mtick ∧ s.sched.late = true then
          u.sched.frozen = none ∧ u.sched.lateHolds = [] ∧ u.sched.late = false ∧ u.sched.holds = s.sched.holds ∧
          u.stepOffset = (r + 2 ^ 64 - s.sched.startVal % 2 ^ 64) % 2 ^ 64 ∧
          KeepsRegs s u [.GLB_STEP_STATE, .GLB_STEP_OFFSET] ∧ u = { s with regs := u.regs, sched := u.sched }
        else if s.sched.frozen ≠ none ∧ r ≤ s.mtick ∧ s.sched.join0 = true ∧ s.sched.join1 = true then
          u.sched.frozen = none ∧
          (s.sched.restoring = false → u.get GLB_STEP_OFFSET.OFFSET = (r + 2 ^ 64 - s.boundary % 2 ^ 64) % 2 ^ 64)
        else u = s) ∧
    Does (.stepClr p) s (fun u =>
      if s.adminPort p = true then
        u.reg .GLB_STEP_CNT 0 0 = 0 ∧ u.reg .GLB_STEP_HELD 0 0 = 0 ∧ KeepsRegs s u [.GLB_STEP_CNT, .GLB_STEP_HELD] ∧
        u = { s with regs := u.regs }
      else u = s.drop p)

/-- In a rollback: once every package in reach has reported, the target is settled, or the schedule fails where no mirrored record is
left; with the target's state put back the package sends its ready message; once every package's is in and HOLD_HORIZON has
passed, the target berm step starts in the next epoch, after the restore step where it is mirrored. -/
def Claims.RollbackGoesOn : Prop :=
  ∀ (s : State) (im : Image), s.sched.image = some im →
    Does .rollbackSettle s (fun u =>
      if s.schedSt = 4 ∧ s.sched.restoring = false ∧ s.sched.target = none ∧ s.sched.berm ≠ none ∧
          (List.range im.packages).all (fun r => !s.reach r || s.sched.reports.any (fun x => x.rank == r)) = true then
        match s.settleTarget im with
        | some r => u.sched.target = some r ∧ u.schedSt = 4 ∧ u.cache = [] ∧ u.chanRx = []
        | none => (s.polderSt im.owner ≠ 3 → u.schedSt = 7) ∧
          (∀ d, s.sched.startDesc = some d → ∀ y, s.desc d = some y → y.phase ≠ .ended →
            u.ended d 0x0D (s.get GLB_STEP_BERM.STEP % 2 ^ 48) 0)
      else u = s) ∧
    (∀ r w, s.schedSt = 4 → s.sched.target = some r → s.reloadTiles im = .ok w → Does .rollbackReady s (fun u =>
      if s.rollbackSent = true ∨ s.bit FWU_STATUS.PAUSED = true then u = s
      else u.sched.readies = s.sched.readies ++ [s.rollbackMsg im r.latest r.start r.epoch] ∧ u.schedSt = 4)) ∧
    (∀ r t e, s.sched.target = some r → s.rollbackGo im = some t → im.step r.latest = some e → s.schedSt = 4 →
      s.sched.restoring = false → s.rollbackSent = true → Does .bermStepStart s (fun u =>
        if s.mtick < t then u = s
        else u.stepOffset = (t + 2 ^ 64 - r.start % 2 ^ 64) % 2 ^ 64 ∧
          (if e.mirrored = true then u.sched.restoring = true ∧ u.schedSt = 4 ∧ u.stepNo = r.latest % 2 ^ 64 ∧
             u.get GLB_STEP_OFFSET.OFFSET = s.get GLB_STEP_OFFSET.OFFSET ∧
             u.get GLB_STEP_STATE.EPOCH = s.get GLB_STEP_STATE.EPOCH
           else u.sched.restoring = false ∧ u.get GLB_STEP_STATE.EPOCH = r.epoch % 256 ∧
             (s.sched.stopAt = false → s.sched.preempt = none → u.schedSt = 3 ∧ u.stepNo = r.latest % 2 ^ 64)))) ∧
    (∀ b t, s.sched.berm = some b → s.sched.go = some t → s.schedSt = 2 → s.sched.kind = .resume → Does .bermStepStart s (fun u =>
        if s.mtick < t then u = s
        else u.schedSt = 3 ∧ u.stepNo = b.step % 2 ^ 64 ∧ u.sched.startVal = b.start ∧
          u.get GLB_STEP_STATE.EPOCH = (s.get GLB_STEP_STATE.EPOCH + 1) % 256))

/-! Embedding gather and sparse update (R94–R124), with the gather descriptors of spec/12. -/

/-- GTH_ASSIGN takes OWNER and EN at once on an idle engine; on a busy one clearing EN alone takes effect at once, and any other change
waits for the batch to finish. GTH_CACHE_CTRL.INV empties the cache, GTH_CACHE_PART takes at most 16 ways: through a port of
polder 0 only. The fields of a set-up register take their values unless their engine, or an engine of their polder, is busy. -/
def Obligations.GatherSetup : Prop :=
  ∀ (p : Fin 4) (n : Fin 16) (pol : Fin 8) (addr : Nat) (v : BitVec 64) (w : BitVec 32) (s : State),
    let own := v.toNat % 8
    let en := v.toNat / 8 % 2
    Does (.gthAssignWrite p n v) s (fun u =>
      if s.adminPort p = false then u = s.drop p
      else if (s.engine n).batch = none then
        u.get GTH_ASSIGN.OWNER n = own ∧ u.get GTH_ASSIGN.EN n = en ∧ KeepsBut s u .GTH_ASSIGN n 0 [] ∧ u = { s with regs := u.regs }
      else if en = 0 ∧ own = s.get GTH_ASSIGN.OWNER n then
        u.get GTH_ASSIGN.EN n = 0 ∧ u.engine n = { s.engine n with queued := none } ∧ KeepsBut s u .GTH_ASSIGN n 0 []
      else u.regs = s.regs ∧ (u.engine n).batch = (s.engine n).batch ∧
        (¬ (en = 1 ∧ own = s.get GTH_ASSIGN.OWNER n ∧ s.get GTH_ASSIGN.EN n = 1) → (u.engine n).queued = some v)) ∧
    Does (.gthSetupWrite p addr v) s (fun u => match s.target p addr with
      | .dropped => u = s.drop p
      | .reg r i j pl _ =>
        if r.isGthSetup = true then
          (∀ f ∈ r.fields, u.get f i j =
            if f.acc = .own ∧ s.setupOpen f i pl = true then s.setupVal f i (bitsOf v.toNat f.lo f.w) % 2 ^ f.w else s.get f i j) ∧
          KeepsBut s u r i j [] ∧ u = { s with regs := u.regs }
        else u = s
      | _ => u = s) ∧
    Does (.cacheInv p) s (fun u => u = if s.adminPort p = true then { s with cache := [] } else s.drop p) ∧
    Does .cacheAge s (fun u =>
      if s.cacheMiss < 1048576 then u = s
      else u = { s with cacheMiss := s.cacheMiss - 1048576, cache := u.cache } ∧
        ∀ k, SMap.get {} u.cache k = { SMap.get {} s.cache k with use := (SMap.get {} s.cache k).use / 2 }) ∧
    Does (.cachePartWrite p pol w) s (fun u =>
      if s.adminPort p = true then
        u.get GTH_CACHE_PART.WAYS pol = min 16 (w.toNat % 32) ∧ KeepsBut s u .GTH_CACHE_PART pol 0 [] ∧ u = { s with regs := u.regs }
      else u = s.drop p)

/-- While the XD core clock runs, an engine in schedule mode whose doorbell, an object of the schedule's polder, is ahead of its count takes
the next command of its queue and counts it; with nothing to take it stays as it is. A gather descriptor that its engine cannot serve ends UNIT_UNAVAILABLE with
the reason and the engine; one that finds its engine free begins its batch there, with the command it read as it issued, or with the one
it can read now where that read gave none. -/
def Claims.GatherBegins : Prop :=
  ∀ (s : State) (n : Fin 16),
    (let taken := s.get GTH_CONSUMED.COUNT n
     let b : Batch := { op := 0, cmd := [], pol := s.owner }
     let at_ := s.get GTH_QUEUE_BASE.ADDR n * 64 + 64 * (taken % s.get GTH_QUEUE_CFG.ENTRIES n)
     let v := s.demand s.owner at_ 64
     let ahead := ∃ o, s.objField s.owner (s.get GTH_QUEUE_CFG.DOORBELL n) = some o ∧ taken < (s.obj o).toNat
     let ready := s.schedEngine n = true ∧ s.bit GTH_ASSIGN.EN n = true ∧ (s.engine n).queued = none ∧
       (s.schedSt = 4 → s.sched.restoring = true) ∧ s.get PWR_IDLE.IDLE ≠ 1
     (s.engine n).batch = none →
       (¬ (ready ∧ ahead) → exec (.gthBatchTake n) s = .next s) ∧
       (∀ c, ready → ahead → v.batchRead b at_ 64 = .ok c →
         exec (.gthBatchTake n) s = .next (((v.put GTH_CONSUMED.COUNT (taken + 1) n).setEngine n { s.engine n with
           batch := some { b with op := if 2 < numAt c 1 1 then 0 else numAt c 1 1, cmd := c } }).runBatch n))) ∧
    (∀ x : Desc, ∀ p ∈ [(Instr.gather x.id, 0x18, 0), (.scatterAdd x.id, 0x19, 1), (.prefetch x.id, 0x1A, 2)],
      x.field 0x18 1 % 16 = n.val → s.runs x p.2.1 → (s.engine n).batch = none →
      (∀ r, s.engineReason x.pol n = some r → Does p.1 s (fun u => u.ended x.id 0x03 (r + 256 * n) 0 ∧ u.engine n = s.engine n)) ∧
      (let begins (v : State) (c : List Byte) : State := (v.setEngine n { v.engine n with
         batch := some { op := p.2.2, cmd := c, pol := x.pol, desc := some x.id } }).runBatch n
       let v := s.reading x (x.field 0x20 8 / 64 * 64) 64
       s.engineReason x.pol n = none →
         (x.blob ≠ [] → exec p.1 s = .next (begins (s.taken x.id) x.blob)) ∧
         (∀ c, x.blob = [] → v.vread x.pol (x.field 0x20 8 / 64 * 64) 64 = .ok c → exec p.1 s = .next (begins v c))))

/-- A batch that is done adds 1 to its DONE_OBJ; its engine is free for the next, and its descriptor, in serving mode, succeeds with
the bags it finished. A batch that is not done stays. -/
def Claims.GatherEnds : Prop :=
  ∀ (s : State) (n : Fin 16) (b : Batch), (s.engine n).batch = some b →
    (∀ d, b.desc = some d → ∃ y, s.desc d = some y ∧ y.phase ≠ .ended) →
    Does (.gthBatchDone n) s (fun u =>
      if b.done = true then
        (u.engine n).batch = none ∧ (u.engine n).trk = [] ∧
        (∀ o, s.objField b.pol (bDone b.cmd) = some o → u.obj o = s.obj o + 1 ∧ ∀ k, k ≠ o → u.obj k = s.obj k) ∧
        (s.objField b.pol (bDone b.cmd) = none → u.sync = s.sync) ∧
        (∀ d, b.desc = some d → u.ended d 0x00 0 b.bags)
      else u = s)

/-- A row that has come frees its tracker entry and stands in the reorder buffer at its position: from the cache, from this package's
memory, or from the owner's answer. A row that is lost frees the entry too, as does one whose entry is stale though its owner can be
reached; in a schedule the owner is then treated as lost. A row that a message brings comes as that message leaves the state. -/
def Claims.RowsAreFetched : Prop :=
  ∀ (s : State) (n : Fin 16) (entry : Nat) (t : Trk) (b : Batch), s.fetchOf n entry = some (t, b) →
    let size := tRowSize b.tbl
    let at_ := tBase b.tbl + (rowHome b.tbl s.rank s.machine t.row).2 * tStride b.tbl
    let got (bs : List Byte) (w : State) : State := w.rowCame n (fun b => { b with got := SMap.set [] b.got t.pos bs })
    let stale := (s.freeEntry n entry).raise (512 * b.pol + 5)
      (detail [(0, n), (16, min (s.get GTH_TDIR_CFG.COUNT b.pol - 1) (bTable b.cmd)), (32, t.row % 2 ^ 48), (80, t.owner % 32768)])
    let lost (w : State) : State := w.rowCame n (fun b => { b with lost := some (match b.lost with
      | some p => if p.1 ≤ t.pos then p else (t.pos, t.owner)
      | none => (t.pos, t.owner)) })
    (∀ remote, t.hit ≠ [] → exec (.rowFetchDone none n entry remote) s = .next (got t.hit (s.freeEntry n entry))) ∧
    (∀ bs w remote, t.hit = [] → t.owner = s.rank → b.desc ≠ none →
      (s.freeEntry n entry).readRow b.pol (tCache b.tbl) (b.op == 2 && bPin b.cmd) at_ size = .ok (bs, w) →
      exec (.rowFetchDone none n entry remote) s = .next (got bs w)) ∧
    (∀ (remote : List Byte), t.hit = [] → t.owner ≠ s.rank → size ≤ remote.length → tFrozen b.tbl = false →
      exec (.rowFetchDone none n entry remote) s = .next (got (remote.take size) (s.freeEntry n entry))) ∧
    (∀ (v : Via) (remote : List Byte), s.gets v 1 (if b.desc = none then 1 else 2) t.owner = true →
      exec (.rowFetchDone (some v) n entry remote) s =
        exec (.rowFetchDone none n entry remote) (s.got v 1 (if b.desc = none then 1 else 2) (flitsOf (remote.length + 1)) t.owner)) ∧
    (s.reach t.owner = false → exec (.trackerStale n entry) s = .next s) ∧
    (b.desc = none → exec (.lookupLost n entry) s = .next s ∧
      (s.reach t.owner = true → exec (.trackerStale n entry) s = .next (stale.treatLost t.owner))) ∧
    (∀ d, b.desc = some d → exec (.lookupLost n entry) s = .next (lost (s.freeEntry n entry)) ∧
      (s.reach t.owner = true → exec (.trackerStale n entry) s = .next (lost stale)))

/-- The responder of the owner reads the row that a request names, in a schedule within its regions, and returns it on the channel of the
request, a leading 0 saying that it is sound. A contribution to a sparse update is written into the sort area of an engine of the
schedule, where it fits, and an end marker is kept, the updates being applied once every source's is there; an engine that takes none
ignores both. By a link they act on the state that their message leaves. -/
def Claims.OwnersServe : Prop :=
  ∀ (s : State) (a : Via) (n : Fin 16) (rank tag : Nat) (sched : Bool) (pol : Fin 8) (table row seq : Nat) (grad : List Byte),
    (let vc := if sched then 1 else 2
     let v := s.got a 1 vc 1 rank
     let dir := v.get GTH_TDIR_BASE.ADDR pol * 64 + 64 * min (v.get GTH_TDIR_CFG.COUNT pol - 1) (table % 2 ^ 32)
     let may (va n : Nat) : Prop := sched = true → (v.sched.image.map (fun im => im.mayRange va n false)).getD false = true
     ∀ t bs w, s.gets a 1 vc rank = true → may dir 64 → v.vread pol dir 64 = .ok t →
       let va := tBase t + (rowHome t v.rank v.machine row).2 * tStride t
       may va (tRowSize t) → v.readRow pol (tCache t) false va (tRowSize t) = .ok (bs, w) →
       exec (.lookupRequest a rank tag sched pol table row) s =
         .next (if sched then w.sendBytes rank (BitVec.ofNat 32 tag) (0 :: bs) else w.sendFree rank (BitVec.ofNat 32 tag) (0 :: bs))) ∧
    (let c : Contrib := { seq := seq, rank := rank, row := row, grad := grad }
     let off := ((s.engine n).sort.map (fun c => c.bytes.length)).sum
     let v := s.setEngine n { s.engine n with sort := (s.engine n).sort ++ [c] }
     let fits := off + c.bytes.length ≤ s.get GTH_SORT_BYTES.BYTES n
     s.takesUpdates n = true →
       (¬ fits → exec (.contribution none n seq rank row grad) s = .next v) ∧
       (∀ u, fits → v.batchWrite { op := 1, cmd := [], pol := s.owner } (s.get GTH_SORT_BASE.ADDR n * 64 + off) c.bytes = .ok u →
         exec (.contribution none n seq rank row grad) s = .next u)) ∧
    (s.takesUpdates n = false → exec (.contribution none n seq rank row grad) s = .next s) ∧
    exec (.endMarker none n seq rank) s = .next (if s.takesUpdates n = true then
      (s.setEngine n { s.engine n with marks := (s.engine n).marks ++ [(seq, rank)] }).tryApply n else s) ∧
    (s.gets a 1 1 rank = true →
      exec (.contribution (some a) n seq rank row grad) s =
        exec (.contribution none n seq rank row grad) (s.got a 1 1 (flitsOf (16 + grad.length)) rank) ∧
      exec (.endMarker (some a) n seq rank) s = exec (.endMarker none n seq rank) (s.got a 1 1 (flitsOf 1) rank))

/-- A finished bag of a schedule's gather enters the result stream of its tile: the rows pooled in ascending list position in FP32 (sum,
mean, maximum, weighted sum), zeros for an empty bag, in the output format padded to 64 bytes; the next bag is next. -/
def Obligations.BagsArePooled : Prop :=
  (∀ (s : State) (n : Nat) (b : Batch) (lo hi : Nat), (s.engine n).batch = some b → b.op = 0 → b.desc = none →
    (∀ p ∈ b.bad, ¬ (lo ≤ p.1 ∧ p.1 < hi)) →
    let u := s.finishBag n b lo hi
    let k := 192 * n + bTile b.cmd
    let rows := (List.range (hi - lo)).map (fun j => rowVals b.tbl (SMap.get [] b.got (lo + j)))
    SMap.get [] u.streams k = SMap.get [] s.streams k ++
      (packRow (bOut b.cmd) (poolRows (bPool b.cmd) (tDim b.tbl) rows ((b.wts.drop lo).take (hi - lo)))).map (fun x => (x, false)) ∧
    (u.engine n).batch = some { b with bags := b.bags + 1 } ∧ u = { s with streams := u.streams, engines := u.engines }) ∧
  (∀ (dim : Nat) (r : List Nat) (rs : List (List Nat)) (wts : List Nat) (k : Nat), k < dim → (∀ x ∈ r :: rs, x.length = dim) →
    (∀ pool, poolRows pool dim [] wts = List.replicate dim 0) ∧
    (poolRows 1 dim (r :: rs) wts).getD k 0 = rs.foldl (fun a x => fpAdd a (x.getD k 0)) (r.getD k 0) ∧
    (poolRows 2 dim (r :: rs) wts).getD k 0 =
      fpDiv (rs.foldl (fun a x => fpAdd a (x.getD k 0)) (r.getD k 0)) (fpNat (rs.length + 1)) ∧
    (poolRows 3 dim (r :: rs) wts).getD k 0 =
      rs.foldl (fun a x => (lMax .fp32 a (x.getD k 0)).bits) (lMax .fp32 (r.getD k 0) (r.getD k 0)).bits ∧
    (poolRows 4 dim (r :: rs) wts).getD k 0 =
      (List.zip rs (wts.drop 1)).foldl (fun a x => fpFma x.2 (x.1.getD k 0) a) (fpMul (wts.headD 0) (r.getD k 0))) ∧
  (∀ (f : Nat) (vals : List Nat), (packRow f vals).length = up (vals.length * outBytes f) 64)

/-! Hjelzo engines (R125–R141). -/

/-- An engine grants the first claim in rotating tile order, a stream as a block and a load as the operand to come, and the pointer
moves past its tile; it grants nothing behind a load that waits, and no seventeenth block. A load whose turn has come makes the
16,384 bytes in tile store the resident operand and ends its operation. -/
def Claims.HjelzoGrants : Prop :=
  ∀ (e : Fin 2) (s : State) (t id : Nat) (o : TileOp), (s.tile t).op id = some o →
    let x := s.hzEng e
    let b : HzBlk := { id := x.nextBlk, tile := t, op := id, tag := o.arg, n := o.len, src := o.src, dst := o.dst,
                       gen := (s.calUnit e).gen }
    (x.nextClaim = some (t, id) → Does (.hzGrant e) s (fun u =>
      if x.loading ≠ none ∨ (o.kind ≠ .hzload ∧ o.len ≠ 0 ∧ 16 ≤ x.blocks.length) then u = s
      else (u.hzEng e).ptr = (t + 1) % 192 ∧ (u.hzEng e).claims = x.claims.filter (fun c => c != (t, id)) ∧
        (if o.kind = .hzload then (u.hzEng e).loading = some (t, id) ∧ u.tiles = s.tiles
         else if o.len = 0 then (u.tile t).op id = none ∧ (u.hzEng e).blocks = x.blocks
         else u.tiles = s.tiles ∧ (u.hzEng e).blocks = x.blocks ++ [b]))) ∧
    (∀ bs w, x.loading = some (t, id) → s.storeSource t (t * 0x400000 + o.src) 16384 = .ok (bs, w) →
      Does (.hzloadDone e) s (fun u =>
        if x.blocks = [] then
          (u.hzEng e).loading = none ∧ (u.tile t).op id = none ∧ (∀ i < 128, (u.hzEng e).row i = int8s ((bs.drop (128 * i)).take 128))
        else u = s))

/-- The next vector of the block whose turn it is in rotating order, of those whose next vector has arrived: 128 result codes are written
behind those before them, zero where the engine is not ready; the vector is flagged where it is not ready, over range, or a check residual
exceeds the threshold, and each cause is counted; the sequence number moves on, and after its last vector the block reports its flags and
its operation ends. -/
def Obligations.HjelzoVectors : Prop :=
  ∀ (e : Fin 2) (arrived : List Nat) (codes : List (BitVec 10)) (s : State) (b : HzBlk) (bs : List Byte) (w : State),
    (s.hzEng e).nextVector arrived = some b → ((s.hzEng e).blocks.map (·.id)).Pairwise (· < ·) →
    s.storeSource b.tile (b.tile * 0x400000 + b.src + 128 * b.next) 128 = .ok (bs, w) →
    let o := (s.hzEng e).vector e b.gen (s.get HZE_SEEP.THRESH e) (s.hzReady e) (int8s bs) (codes.map (·.toNat))
    let y := (List.zip (List.range 132) (codes.map (·.toNat))).map (fun p =>
      Config.hzGain b.gen e p.1 * (5 * (p.2 : Int) - 2560) + Config.hzOffset b.gen e p.1)
    let dst := b.tile * 0x400000 + b.dst + 256 * b.next
    let out := o.codes.flatMap (fun c => leBytes 2 (uint 16 c))
    let fl := if o.flagged = true then b.flagged ++ [b.next] else b.flagged
    (b ∈ (s.hzEng e).blocks ∧ b.id ∈ arrived ∧ ∀ c ∈ (s.hzEng e).blocks, c.id ∈ arrived →
      (if (s.hzEng e).vptr ≤ b.id then (s.hzEng e).vptr ≤ c.id → b.id ≤ c.id else c.id < (s.hzEng e).vptr ∧ b.id ≤ c.id)) ∧
    (o.flagged = true ↔ s.hzReady e = false ∨ (∃ c ∈ codes, c = 0 ∨ c = 1023) ∨
      ∃ k < 4, s.get HZE_SEEP.THRESH e * 1048576 < ((s.hzEng e).residual (int8s bs) y k).natAbs) ∧
    Does (.hzVector e arrived codes) s (fun u =>
      (∀ a, u.tstore.byte a = if dst ≤ a ∧ a < dst + out.length then out.getD (a - dst) 0 else s.tstore.byte a) ∧
      (u.hzEng e).seq = (s.hzEng e).seq + 1 ∧ (u.hzEng e).vptr = b.id + 1 ∧ (∀ k, k ≠ e.val → u.hzEng k = s.hzEng k) ∧
      u.get HZE_CNT.FLAGGED e = (if o.flagged = true then min HZE_CNT.FLAGGED.stop (s.get HZE_CNT.FLAGGED e + 1) else s.get HZE_CNT.FLAGGED e) ∧
      u.get HZE_CNT.OVERRANGE e = (if o.ovr = true then min HZE_CNT.OVERRANGE.stop (s.get HZE_CNT.OVERRANGE e + 1) else s.get HZE_CNT.OVERRANGE e) ∧
      u.get HZE_CNT.NOT_READY e =
        (if s.hzReady e = false then min HZE_CNT.NOT_READY.stop (s.get HZE_CNT.NOT_READY e + 1) else s.get HZE_CNT.NOT_READY e) ∧
      (if b.next + 1 = b.n then (u.tile b.tile).op b.op = none ∧ ⟨b.tag, b.n, fl⟩ ∈ (u.tile b.tile).blocks ∧
          ∀ c ∈ (u.hzEng e).blocks, c.id ≠ b.id
       else (u.hzEng e).blocks.find? (fun c => c.id == b.id) = some { b with next := b.next + 1, flagged := fl }))

/-- A full window of audited vectors is taken, and its RMS above LIMIT raises HZ_DEGRADED; DEG_LIMIT flagged vectors of one step raise it
once in the step. Writes of 1 to the CLR fields zero their counts, on a part with Hjelzo engines and through a port of polder 0; a
read of HZE_AUDIT_STAT latches the sum of squares. -/
def Claims.HjelzoAudit : Prop :=
  ∀ (p : Fin 4) (e : Fin 2) (s : State),
    let lim := s.get HZE_AUDIT_CTRL.LIMIT e
    (∀ sq, (s.hzEng e).winFull = some sq →
      let t := s.setHz e { s.hzEng e with winFull := none }
      exec (.auditWindow e) s = .next (if lim ≠ 0 ∧ lim * lim * 131072 < sq then
        t.raiseSched 7 (detail [(0, e), (4, 1), (16, min 65535 (isqrt (sq / 131072))), (64, s.stepNo)]) else t)) ∧
    Does (.degLimitReached e) s (fun u =>
      if (s.hzEng e).degRaised = true ∨ (s.hzEng e).stepFlags < s.get HZE_SEEP.DEG_LIMIT e then u = s
      else u.hzEng e = { s.hzEng e with degRaised := true } ∧ KeepsRegs s u [.EVC_PEND]) ∧
    (s.adminPort p = true → s.part.hz = true →
      Does (.hzeCntClr p e) s (fun u => u.reg .HZE_CNT e 0 = 0 ∧ KeepsBut s u .HZE_CNT e 0 [] ∧ u = { s with regs := u.regs }) ∧
      Does (.auditClr p e) s (fun u => u.reg .HZE_AUDIT_STAT e 0 = 0 ∧ u.reg .HZE_AUDIT_SUMSQ e 0 = 0 ∧
        u.readValue .HZE_AUDIT_SUMSQ e 0 = 0 ∧
        KeepsBut s u .HZE_AUDIT_STAT e 0 [.HZE_AUDIT_SUMSQ] ∧ u = { s with regs := u.regs, hz := u.hz })) ∧
    (s.adminPort p = false →
      exec (.hzeCntClr p e) s = .next (s.drop p) ∧ exec (.auditClr p e) s = .next (s.drop p)) ∧
    Does (.auditStatRead p e) s (fun u => u.readData = (if s.part.hz then s.reg .HZE_AUDIT_STAT e 0 else 0) ∧
      (u.hzEng e).latchSq = s.get HZE_AUDIT_SUMSQ.SUMSQ e ∧ u.regs = s.regs)

/-! Lanes and links (R142–R167), routing and the machine shape (R169–R184). -/

/-- A LANE_PLAN whose plan is read is checked in the order of R148: one that fails ends PLAN_REFUSED with the check's code and the
offending entry, kept in LAST_CODE. One that passes begins its re-cable (MODE 0), is armed for the pulse and leaves the warden core
(MODE 1), or only succeeds (MODE 2); the plan in force stays until the commit point. -/
def Claims.LanePlansAreChecked : Prop :=
  ∀ (s : State) (x : Desc) (bs : List Byte),
    ∀ p ∈ [(Instr.lanePlanCommit x.id, 0), (.lanePlanArm x.id, 1), (.lanePlanCheck x.id, 2)],
      s.runs x 0x20 → x.planMode = p.2 → (s.recable.map (fun r => r.desc == some x.id)).getD false = false →
      (s.reading x (x.field 0x18 8 / 8 * 8) 4160).vread x.pol (x.field 0x18 8 / 8 * 8) 4160 = .ok bs →
      Does p.1 s (fun u => u.plan = s.plan ∧ match planCheck s.part (s.planBusy x) bs with
        | some (code, i) => u.ended x.id 0x06 ((code + 65536 * i) % 2 ^ 48) 0 ∧ u.get LSW_STATUS.LAST_CODE = code % 256 ∧
            u.recable = s.recable
        | none =>
          if p.2 = 2 then u.ended x.id 0x00 0 0 ∧ u.recable = s.recable
          else u.recable = some { plan := Plan.of bs, desc := some x.id, armed := decide (p.2 = 1) } ∧
            (p.2 = 1 → u.get LSW_STATUS.STATE = 1 ∧ x.id ∉ u.warden))

/-- An edge of RECABLE_PULSE begins an armed re-cable and no other, and does nothing in a management pause. At its commit point the new
plan is in force; a re-cable that is armed, committed or absent has none. -/
def Claims.RecablesCommit : Prop :=
  ∀ (s : State),
    Does .recablePulse s (fun u =>
      if s.bit FWU_STATUS.PAUSED = true then u = s
      else u = { s with loops := u.loops, recable := u.recable } ∧
        u.recable = s.recable.map (fun r => if r.armed then { r with armed := false, wait := 10 } else r)) ∧
    Does .recableCommit s (fun u => match s.recable with
      | none => u = s
      | some r =>
        if r.armed = true ∨ r.committed = true then u = s
        else u.plan = r.plan ∧ u.rank = r.plan.rank ∧ u.reg .LSW_PLAN_ID 0 0 = r.plan.id ∧
          (∀ d, r.desc = some d → d ∉ u.warden) ∧
          (u.recable = some { r with committed := true } ∨ u.recable = none ∧ u.get LSW_STATUS.STATE = 0))

/-- The elements of a link have settled: its lanes that moved train, and a link that was DOWN trains. Training of a link ends, once no
lane of it moves: a lane passes whose receiver locked and, for a receive lane, whose training words carry the peer's rank, the lane's
wavelength and the plan's identifier, and is UP; another one tries again, up to three times, and has failed then. With MIN_LANES each way
the link carries flits from SEQ 0 on, else it waits for lanes that try again or have reduced power, and is ISOLATED where none does. -/
def Claims.LinksTrain : Prop :=
  ∀ (s : State) (k : Fin 128) (good : List Nat) (words : List TrainWord),
    let ls := s.plan.lanesOf k true ++ s.plan.lanesOf k false
    let passes (l : Nat) : Prop := l ∈ good ∧ (256 ≤ l → ∃ w, words.find? (fun w => w.lane == l) = some w ∧
      w.rank = (s.planLink k).peer ∧ w.plan = s.plan.id ∧ w.wave = waveOf l ∧ waveOf w.srcLane = w.wave)
    Does (.elementSettled k) s (fun u =>
      if s.plan.links.length ≤ k.val then u = s
      else (∀ l < 512, u.get LSW_LANE.STATE l = if l ∈ ls ∧ s.get LSW_LANE.STATE l = 1 then 2 else s.get LSW_LANE.STATE l) ∧
        u.get LNK_STATE.STATE k = (if s.get LNK_STATE.STATE k = 0 then 1 else s.get LNK_STATE.STATE k)) ∧
    Does (.linkUp k good words) s (fun u =>
      if (s.get LNK_STATE.STATE k = 1 ∨ s.get LNK_STATE.STATE k = 4) ∧ ∀ l ∈ ls, s.get LSW_LANE.STATE l ≠ 1 then
        (∀ l ∈ ls, s.get LSW_LANE.STATE l = 2 →
          (passes l → u.get LSW_LANE.STATE l = 3 ∧ SMap.get 0 u.laneTries l = 0) ∧
          (¬ passes l → if SMap.get 0 s.laneTries l + 1 < 3 then
              u.get LSW_LANE.STATE l = 2 ∧ SMap.get 0 u.laneTries l = SMap.get 0 s.laneTries l + 1
            else u.get LSW_LANE.STATE l = 0 ∧ u.get LSW_LANE.FAILED l = 1)) ∧
        (if u.enoughLanes k = true then
          u.linkUp k = true ∧ (u.link k).txSeq = 0 ∧ (u.link k).rxSeq = 0 ∧ (u.link k).retry = [] ∧
            u.get LNK_STATE.PEER_RANK k = (s.planLink k).peer % 2 ^ 15
         else if ∃ l ∈ ls, u.get LSW_LANE.STATE l = 2 ∨ u.get LSW_LANE.STATE l = 4 ∧ s.bit LSW_LANE.APR l = true then
          u.get LNK_STATE.STATE k = s.get LNK_STATE.STATE k
         else u.get LNK_STATE.STATE k = 5)
      else u = s)

/-- Single lanes. EN_REQ 0 takes a lane off its link and parks it, BUSY until it is parked; EN_REQ 1 clears its failure and takes it up
again, after the parking where that is under way: it moves, or waits while its exit has reduced power. A lane that is lost trains again,
or is failed where its loop failed. A lane that trained waits for the resynchronisation of its link; one that did not has three
attempts. -/
def Claims.LanesGoAndCome : Prop :=
  ∀ (s : State) (p : Fin 4) (l : Fin 512) (cause : Fin 8) (word : Option TrainWord),
    let lane := s.plan.lane l
    let fresh := if s.bit LSW_LANE.APR l then 4 else 1
    (s.adminPort p = true → s.bit FWU_STATUS.PAUSED = false → s.part.hasLane l = true →
      Does (.laneDownReq p l) s (fun u => u.get LSW_LANE.EN_REQ l = 0 ∧
        (s.bit LSW_LANE.EN_REQ l = true → s.bit LSW_LANE.BUSY l = false →
          u.get LSW_LANE.BUSY l = 1 ∧ u.get LSW_LANE.STATE l = 4)) ∧
      Does (.laneUpReq p l) s (fun u =>
        if s.bit LSW_LANE.EN_REQ l = true then u = s
        else u.get LSW_LANE.EN_REQ l = 1 ∧
          (if s.bit LSW_LANE.BUSY l = true then SMap.get 0 u.laneQueue l = 1 ∧ u.get LSW_LANE.STATE l = s.get LSW_LANE.STATE l
           else u.get LSW_LANE.FAILED l = 0 ∧ SMap.get 0 u.laneTries l = 0 ∧ (lane.en = true → u.get LSW_LANE.STATE l = fresh)))) ∧
    (s.adminPort p = false → exec (.laneDownReq p l) s = .next (s.drop p) ∧ exec (.laneUpReq p l) s = .next (s.drop p)) ∧
    (s.adminPort p = true → s.bit FWU_STATUS.PAUSED = true → ∀ q ∈ [(Instr.laneDownReq p l, false), (.laneUpReq p l, true)],
      exec q.1 s = .next { s with heldWrites := s.heldWrites ++ [.lane l q.2] }) ∧
    Does (.laneParked l) s (fun u =>
      if s.bit LSW_LANE.BUSY l = true then
        u.get LSW_LANE.BUSY l = 0 ∧ SMap.get 0 u.laneQueue l ≠ 1 ∧
        u.get LSW_LANE.STATE l =
          (if SMap.get 0 s.laneQueue l = 1 ∧ lane.en = true ∧ s.part.hasLane l = true ∧ s.bit LSW_LANE.EN_REQ l = true then fresh else 0)
      else u = s) ∧
    Does (.laneLost l cause) s (fun u =>
      if s.get LSW_LANE.STATE l = 3 then
        (if cause.val = 2 then u.get LSW_LANE.FAILED l = 1 ∧ u.get LSW_LANE.STATE l = 0 else u.get LSW_LANE.STATE l = 2)
      else u = s) ∧
    Does (.laneTrained l word) s (fun u =>
      if s.get LSW_LANE.STATE l = 2 ∧ s.linkUp lane.link = true then
        (if s.trainCause l word.isSome word = 0 then l.val ∈ (u.link lane.link).joining ∧ (u.link lane.link).resyncOut = true ∧
          u.get LSW_LANE.STATE l = s.get LSW_LANE.STATE l
         else if SMap.get 0 s.laneTries l + 1 < 3 then SMap.get 0 u.laneTries l = SMap.get 0 s.laneTries l + 1
         else u.get LSW_LANE.FAILED l = 1 ∧ u.get LSW_LANE.STATE l = 0 ∧ SMap.get 0 u.laneTries l = 0)
      else u = s)

/-- APR on an exit that carries light takes its lanes down at the reduced level; full power brings back those that may be lit, to train
again. -/
def Claims.OpenFibre : Prop :=
  ∀ (s : State) (x : Fin 128),
    Does (.apr x) s (fun u =>
      if (s.onExit x).any (fun l => isTx l && s.litLane l) = true then
        x.val ∈ u.aprExits ∧ ∀ l ∈ s.onExit x, u.get LSW_LANE.APR l = 1 ∧
          u.get LSW_LANE.STATE l = if s.litLane l = true then 4 else s.get LSW_LANE.STATE l
      else u = s) ∧
    Does (.aprRestore x) s (fun u =>
      (∀ l < 512, u.get LSW_LANE.APR l = if l ∈ s.onExit x then 0 else s.get LSW_LANE.APR l) ∧
      (∀ l ∈ s.onExit x, s.bit LSW_LANE.APR l = true → s.get LSW_LANE.STATE l = 4 → s.bit LSW_LANE.EN_REQ l = true →
        s.bit LSW_LANE.FAILED l = false → u.get LSW_LANE.STATE l = 2) ∧
      KeepsRegs s u [.LSW_LANE] ∧ u = { s with regs := u.regs, aprExits := s.aprExits.erase x.val })

/-- The next flit of a link that carries flits goes out on the good lane whose turn it is, ahead of a flit of the others by control of the
link itself, but for the slots reserved to VC 2, then by a replay: the front of management, or of a data channel on its route, takes the
next SEQ and a credit and stays for replay; so does RESYNC, without a credit; a flit of a replay keeps its SEQ; where nothing can go,
IDLE does. A wait for a scheduled credit counts once. On a link that is down nothing leaves; on one that a re-cable stops, or in a
replay, no new flit does. -/
def Obligations.FlitsLeave : Prop :=
  ∀ (s : State) (k : Fin 128),
    let x := s.link k
    let ls := s.goodLanes k true
    let out (u : State) (f : Flit) : Prop := (u.link k).wire = f.bytes ∧ (u.link k).wireLane = ls.getD x.stripe 0 ∧
      (u.link k).stripe = (x.stripe + 1) % max 1 ls.length
    let pkt (u : State) (r : Sent) : Prop := ∀ p, r.mgmt = none → r.pkt = some p → out u (p.flit r.vc r.seq x.rxSeq)
    (s.linkUp k = false → exec (.flitTransmit k) s = .next s) ∧
    (s.linkUp k = true →
      ((∃ m ∈ x.q0, m.msg.control = true) → x.q2 = [] → s.pick k = .control) ∧
      (s.stopped k = true ∨ x.replay ≠ none → s.pick k = .control ∨ s.pick k = .replay ∨ s.pick k = .idle) ∧
      Does (.flitTransmit k) s (fun u =>
        (∀ m, s.pick k = .control → x.q0.find? (fun m => m.msg.control) = some m →
          (u.link k).q0 = x.q0.eraseP (fun m => m.msg.control) ∧
          (∀ a b, m.msg = .resync a b →
            (u.link k).txSeq = (x.txSeq + 1) % 65536 ∧ (u.link k).retry = x.retry ++ [{ seq := x.txSeq, vc := 0 }]) ∧
          ((∀ a b, m.msg ≠ .resync a b) →
            (u.link k).txSeq = x.txSeq ∧ (u.link k).retry = x.retry ∧ out u (Msg.flit k x.nextSeq x.rxSeq m))) ∧
        (∀ i r, s.pick k = .replay → x.replay = some i → x.retry[i]? = some r →
          (u.link k).txSeq = x.txSeq ∧ (u.link k).retry = x.retry ∧
          (u.link k).replay = (if i + 1 < x.retry.length then some (i + 1) else none) ∧ pkt u r) ∧
        (∀ m rest, s.pick k = .vc0 → x.q0 = m :: rest →
          (u.link k).q0 = rest ∧ (u.link k).txSeq = (x.txSeq + 1) % 65536 ∧ (u.link k).avail0 = x.avail0 - 1 ∧
          (u.link k).retry = x.retry ++ [{ seq := x.txSeq, vc := 0, mgmt := some m }] ∧
          out u (Msg.flit k x.txSeq x.rxSeq { m with msg := s.stamped m.msg })) ∧
        (∀ vc p rest, (s.pick k = .vc1 ∧ vc = 1 ∨ s.pick k = .vc2 ∧ vc = 2) → x.queue vc = p :: rest →
          s.routeLink ((p.trailer.map (·.1)).getD s.rank) p.dst = some k.val →
          (p.trailer.isSome = true ∨ (s.planLink k).peer = p.dst) →
          let r : Sent := { seq := x.txSeq, vc := vc, pkt := some { p with frm := 0 } }
          (u.link k).queue vc = rest ∧ (u.link k).txSeq = (x.txSeq + 1) % 65536 ∧ (u.link k).avail vc = x.avail vc - 1 ∧
          (u.link k).retry = x.retry ++ [r] ∧ pkt u r) ∧
        (s.pick k = .stall → (u.link k).stalled = true ∧
          u.get LNK_ERR.SCHED_STALL k = min LNK_ERR.SCHED_STALL.stop (s.get LNK_ERR.SCHED_STALL k + 1)) ∧
        (s.pick k = .idle → (u.link k).txSeq = x.txSeq ∧ (u.link k).retry = x.retry ∧ (u.link k).q0 = x.q0 ∧ (u.link k).q1 = x.q1 ∧
          (u.link k).q2 = x.q2 ∧
          out u { typ := 0, vc := 0, seq := BitVec.ofNat 16 x.nextSeq, ack := BitVec.ofNat 16 x.rxSeq })))

/-- DATA in sequence on the scheduled channel, well formed and within the slots announced, is appended to its channel and holds a slot; a
malformed flit is discarded and counted; one that runs ahead is discarded, and a NAK asks for the missing one; one that is here already
is discarded alone. A flit whose CRC fails is as one that could not be corrected, which counts its codewords and is asked for again. -/
def Obligations.DataArrives : Prop :=
  ∀ (s : State) (k : Fin 128) (w : Wire) (f : Flit) (codewords : Nat), s.linkUp k = true → Flit.ofWire w = some f →
    let x := s.link k
    let a := seqAhead f.seq.toNat x.rxSeq
    let n := f.payload.length
    (f.typ = 1 → f.vc = 1 → a = 0 → f.trl = false → n ≠ 0 → n ≤ 256 → n % 8 = 0 → s.tagKnown 1 f.tag = true →
      x.held1 < (s.planLink k).sched → (s.schedSt = 4 → s.sched.restoring = true) →
      Does (.data k w) s (fun u =>
        u.chanBytes (f.tag.toNat % 65536) = s.chanBytes (f.tag.toNat % 65536) ++ f.payload ∧
        (u.link k).rxSeq = (x.rxSeq + 1) % 65536 ∧ (u.link k).held1 = x.held1 + 1 ∧ (u.link k).nakOut = false)) ∧
    (f.vc = 0 → a = 0 →
      Does (.data k w) s (fun u =>
        u.get LNK_VIOL.MALFORMED k = min LNK_VIOL.MALFORMED.stop (s.get LNK_VIOL.MALFORMED k + 1) ∧ u.chanRx = s.chanRx ∧
        (u.link k).rxSeq = x.rxSeq ∧ (u.link k).nakOut = true)) ∧
    (0 < a → a < s.window k → x.nakOut = false →
      Does (.data k w) s (fun u => u.chanRx = s.chanRx ∧ (u.link k).rxSeq = x.rxSeq ∧ (u.link k).nakOut = true ∧
        ⟨s.rank, 0, .nak x.rxSeq⟩ ∈ (u.link k).q0)) ∧
    (s.window k ≤ a → 65536 - s.window k ≤ a → 0 < a → exec (.data k w) s = .next s) ∧
    (∀ w', Flit.ofWire w' = none → exec (.data k w') s = exec (.badFlit k 0) s) ∧
    Does (.badFlit k codewords) s (fun u =>
      u.get LNK_ERR.UNCORR k = min LNK_ERR.UNCORR.stop (s.get LNK_ERR.UNCORR k + codewords) ∧ (u.link k).rxSeq = x.rxSeq ∧
      (u.link k).nakOut = true ∧ ⟨s.rank, 0, .nak x.rxSeq⟩ ∈ (u.link k).q0)

/-- What every good flit brings: the flits it acknowledges leave the replay buffer, its credits return to their channel. A NAK within the
buffer counts as a retry, and what it does not acknowledge is replayed; one beyond it is a violation. RESYNC in its turn uses a SEQ, ends
the wait for a replay, has this end replay what it lacks, and is answered where this end had not asked. -/
def Claims.LinkBooks : Prop :=
  ∀ (s : State) (k : Fin 128) (w : Wire) (f : Flit), s.linkUp k = true → Flit.ofWire w = some f → f.vc ≠ 3 →
    let x := s.link k
    let acked := seqAhead f.ack.toNat ((x.retry.head?.map (·.seq)).getD x.txSeq)
    let left := if acked ≤ x.retry.length then x.retry.drop acked else x.retry
    let again := if left = [] then none else some 0
    f.seq.toNat = x.rxSeq % 65536 →
    (∀ p ∈ [(Instr.credit k w, (2 : BitVec 8)), (.idle k w, 0)], f.typ = p.2 →
      Does p.1 s (fun u =>
        (u.link k).retry = left ∧
        (f.ann = false → (u.link k).avail1 = x.avail1 + (if f.crVc = 1 then f.cr.toNat else 0) ∧
          (u.link k).avail2 = x.avail2 + (if f.crVc = 2 then f.cr.toNat else 0)) ∧
        (f.ann = true → f.crVc = 1 →
          (u.link k).avail1 = f.cr.toNat - (left.filter (fun r => r.vc == 1 && r.takesCredit)).length) ∧
        u.get LNK_ERR.CORR_SYM k = min LNK_ERR.CORR_SYM.stop (s.get LNK_ERR.CORR_SYM k + f.corr) ∧
        KeepsBut s u .LNK_ERR k 0 [] ∧ (∀ j, j ≠ k.val → u.link j = s.link j))) ∧
    (f.typ = 3 → Does (.nak k w) s (fun u =>
      (u.link k).retry = left ∧
      (if acked ≤ x.retry.length then
        u.get LNK_ERR.RETRY k = min LNK_ERR.RETRY.stop (s.get LNK_ERR.RETRY k + 1) ∧ u.sched.retrans = s.sched.retrans + 1 ∧
          (u.link k).replay = again
       else u.get LNK_VIOL.OOS_RETRY k = min LNK_VIOL.OOS_RETRY.stop (s.get LNK_VIOL.OOS_RETRY k + 1) ∧
        (u.link k).resyncOut = true))) ∧
    (f.typ = 6 → x.joining = [] → x.resyncSeq ≠ some f.seq.toNat → Does (.resync k w) s (fun u =>
      (u.link k).nakOut = false ∧ (u.link k).resyncOut = false ∧ (u.link k).rxSeq = (x.rxSeq + 1) % 65536 ∧
      (u.link k).retry = left ∧ (u.link k).replay = again ∧
      (u.link k).q0 = if x.resyncOut = true then x.q0 else x.q0 ++ [⟨s.rank, 0, .resync x.txSeq ((x.rxSeq + 1) % 65536)⟩]))

/-- A retry timeout of a link with unacknowledged flits counts as a retry and replays them from the oldest; an imbalance counts as a credit
overflow and announces the channel anew; a link whose violations reach LIMIT, or that software asks, trains again. On a link that is down
none of the first three has an effect. -/
def Claims.LinksRecover : Prop :=
  ∀ (s : State) (k : Fin 128) (p : Fin 4) (sched : Bool),
    Does (.retryTimeout k) s (fun u =>
      if s.linkUp k = true ∧ (s.link k).retry ≠ [] then
        u.get LNK_ERR.RETRY k = min LNK_ERR.RETRY.stop (s.get LNK_ERR.RETRY k + 1) ∧ KeepsBut s u .LNK_ERR k 0 [] ∧
        u = { s with regs := u.regs, sched := { s.sched with retrans := s.sched.retrans + 1 }, links := u.links } ∧
        u.link k = { s.link k with replay := some 0 } ∧ (∀ j, j ≠ k.val → u.link j = s.link j)
      else u = s) ∧
    Does (.creditReannounce k sched) s (fun u =>
      if s.linkUp k = true then
        u.get LNK_VIOL.CREDIT_OVF k = min LNK_VIOL.CREDIT_OVF.stop (s.get LNK_VIOL.CREDIT_OVF k + 1) ∧
        ∃ n, ⟨s.rank, 0, .announce (if sched then 1 else 2) n⟩ ∈ (u.link k).q0
      else u = s) ∧
    Does (.violationLimit k) s (fun u =>
      if s.linkUp k = true ∧ s.get LNK_VIOL_CFG.LIMIT ≤ (s.link k).viol then
        u.get LNK_VIOL.RETRAINS k = min LNK_VIOL.RETRAINS.stop (s.get LNK_VIOL.RETRAINS k + 1) ∧
        u.get LNK_STATE.STATE k = 4 ∧ (u.link k).viol = 0
      else u = s) ∧
    Does (.linkRetrain p k) s (fun u =>
      if s.adminPort p = false then u = s.drop p
      else if s.bit FWU_STATUS.PAUSED = true then u = { s with heldWrites := s.heldWrites ++ [.retrain k] }
      else if s.plan.links.length ≤ k.val then u = s
      else u.get LNK_STATE.STATE k = 4 ∧ (u.link k).avail0 = 0 ∧ (u.link k).avail1 = 0 ∧ (u.link k).avail2 = 0)

/-- A link-state message that is new records a link of its sender as down or up; a running schedule that can no longer reach a rank of the
machine rolls back. A write of LSW_SHAPE is taken only while no re-cable is armed or running and no schedule busy, and the fields of the
register with the bytes written are clamped in the order of R171. -/
def Claims.MachineShape : Prop :=
  ∀ (s : State) (a : Via) (rank seq j peer : Nat) (up : Bool) (p : Fin 4) (be : BitVec 8) (v : BitVec 64),
    (let rest := s.netDown.filter (fun d => !(d.1 == rank && d.2.1 == j))
     s.gets a 4 0 rank = true → (rank, seq) ∉ s.seen → Does (.linkStateMessage a rank seq j peer up) s (fun u =>
       u.netDown = (if up then rest else rest ++ [(rank, j, peer)]) ∧
       (s.schedBusy = false → KeepsRegs s u [.LNK_ERR]) ∧
       (∀ im r, s.sched.image = some im → r < im.packages → s.schedSt = 3 → s.reach r = true → u.reach r = false → u.schedSt = 4))) ∧
    Does (.shapeWrite p be v) s (fun u =>
      let w := mergeBytes (s.reg .LSW_SHAPE 0 0).toNat be v.toNat
      let torus := w % 2
      let dim (lo : Nat) : Nat := max 1 (min 16 (bitsOf w lo 5))
      let size := max 1 (min (if s.part = .lhn1H then 32 else 64) (bitsOf w 8 7))
      let top := if s.part = .lhn1H then 4 * size + 1 else min 512 (8 * size + 1)
      if s.adminPort p = false then u = s.drop p
      else if s.bit FWU_STATUS.PAUSED = true then u = { s with heldWrites := s.heldWrites ++ [.shape be v] }
      else if s.get LSW_STATUS.STATE ≠ 0 ∨ s.schedBusy = true then u = s
      else u.get LSW_SHAPE.SHAPE = torus ∧
        (if torus = 1 then
          u.get LSW_SHAPE.TORUS_X = dim 32 ∧ u.get LSW_SHAPE.TORUS_Y = dim 37 ∧ u.get LSW_SHAPE.TORUS_Z = dim 42 ∧
          u.get LSW_SHAPE.GROUP_SIZE = dim 32 ∧ u.get LSW_SHAPE.GROUPS = dim 37 * dim 42
         else u.get LSW_SHAPE.GROUP_SIZE = size ∧ u.get LSW_SHAPE.GROUPS = max 1 (min top (bitsOf w 16 10))) ∧
        KeepsBut s u .LSW_SHAPE 0 0 [] ∧ u = { s with regs := u.regs })

/-! Switch control (R186–R208). -/

/-- Writes of MODE, RESTART and the coefficients of a fitted loop, through a port of polder 0. A new MODE takes effect at once: from AUTO
to MANUAL the present output is loaded, to AUTO the integrator is preset, and a loop that runs reports the mode's state. RESTART starts a
parked loop at zero output in AUTO and waits on one that parks. Coefficients are clamped. Between a give-up and the new unit's
first sample, and during a management pause, such a write waits, as does every one behind a write that waits for the first sample. -/
def Claims.LoopModes : Prop :=
  ∀ (s : State) (p : Fin 4) (i : Fin 782) (v : BitVec 64),
    let cs := [(Instr.loopAuto p i, Held.mode i 0), (.loopManual p i, .mode i 1), (.loopHold p i, .mode i 2),
      (.loopRestart p i, .restart i), (.coefWrite p i v, .coef i v)]
    (s.adminPort p = false → ∀ c ∈ cs, exec c.1 s = .next (s.drop p)) ∧
    (s.adminPort p = true → s.scu.released = true ∨ s.scu.held ≠ [] → ∀ c ∈ cs,
      exec c.1 s = .next { s with scu := { s.scu with held := s.scu.held ++ [c.2] } }) ∧
    (s.adminPort p = true → s.scu.released = false → s.scu.held = [] → s.bit FWU_STATUS.PAUSED = true → ∀ c ∈ cs,
      exec c.1 s = .next { s with heldWrites := s.heldWrites ++ [c.2] }) ∧
    (s.adminPort p = true → s.scu.released = false → s.scu.held = [] → s.bit FWU_STATUS.PAUSED = false → s.part.hasLoop i = true →
      (∀ c ∈ [(Instr.loopAuto p i, 0), (.loopManual p i, 1), (.loopHold p i, 2)], Does c.1 s (fun u =>
        if s.get SCU_LOOP_CTRL.MODE i = c.2 then u = s
        else u.get SCU_LOOP_CTRL.MODE i = c.2 ∧ (u.loop i).preset = decide (c.2 = 0) ∧
          (u.loop i).coef = (if c.2 = 2 then some (s.reg .SCU_LOOP_COEF i 0) else none) ∧
          (c.2 = 2 → (u.loop i).spHeld = some (s.heldPoint i)) ∧ (c.2 ≠ 2 → s.loopSt i ≠ 4 → (u.loop i).spHeld = none) ∧
          u.loopSt i = (if s.loopSt i = 1 ∨ s.loopSt i = 2 ∨ s.loopSt i = 3 then c.2 + 1 else s.loopSt i) ∧
          (s.get SCU_LOOP_CTRL.MODE i = 0 → c.2 = 1 → u.get SCU_LOOP_CTRL.MANUAL_OUT i = s.get SCU_LOOP_STAT.OUTPUT i) ∧
          KeepsRegs s u [.SCU_LOOP_CTRL, .SCU_LOOP_STAT, .EVC_PEND] ∧ (∀ j, j ≠ i.val → u.loop j = s.loop j))) ∧
      Does (.loopRestart p i) s (fun u =>
        if i.val < 512 ∨ (s.loopSt i ≠ 5 ∧ s.loopSt i ≠ 6) then u = s
        else if s.loopSt i = 6 then
          u.loopSt i = 1 ∧ u.get SCU_LOOP_CTRL.MODE i = 0 ∧ u.get SCU_LOOP_STAT.OUTPUT i = 0 ∧ (u.loop i).req = 0 ∧ (u.loop i).integ = 0
        else u.get SCU_LOOP_CTRL.BUSY i = 1 ∧ (u.loop i).restart = true ∧ u.loopSt i = 5) ∧
      Does (.coefWrite p i v) s (fun u =>
        u.get SCU_LOOP_COEF.KP i =
          max 1 (min (if i.val < 512 then 1024 else if i.val < 776 then 512 else 2048) (bitsOf v.toNat 0 16)) ∧
        u.get SCU_LOOP_COEF.KI i = bitsOf v.toNat 16 16 ∧
        u.get SCU_LOOP_COEF.FE_LIM i = max 1 (min 32767 (bitsOf v.toNat 32 15)) ∧
        u.get SCU_LOOP_COEF.FE_SAMPLES i = max 10 (min 10000 (bitsOf v.toNat 48 14)) ∧
        KeepsBut s u .SCU_LOOP_COEF i 0 [] ∧ u = { s with regs := u.regs }))

/-- One sample with an active unit: the analogue input's code is taken; the writes that waited take effect, in their order and before the
sample; every heater bank applies what its loops request, scaled to 40,000 in all where that exceeds it, every temperature loop its request.
Without an active unit no output changes. -/
def Claims.SamplesDrive : Prop :=
  ∀ (s : State) (samples : List Sample) (ain : BitVec 12),
    (s.scu.holder = none → Does (.loopSample samples ain) s (fun u => u = { s with loops := u.loops, recable := u.recable })) ∧
    (s.scu.holder ≠ none → Does (.loopSample samples ain) s (fun u =>
      u.get SCU_AIN.CODE = ain.toNat ∧
      u.scu = { s.scu with held := [], track := if s.scu.healthyA && s.scu.healthyB then s.scu.track + 1 else 0 } ∧
      (s.scu.held = [] → KeepsRegs s u [.SCU_LOOP_CTRL, .SCU_LOOP_STAT, .SCU_BANK, .SCU_AIN, .LSW_LANE, .EVC_PEND] ∧
        u = { s with regs := u.regs, loops := u.loops, recable := u.recable, scu := u.scu, srcs := u.srcs }) ∧
      (∀ j m, s.scu.held = [.mode j m] → s.part.hasLoop j = true → m ≤ 2 → s.loopSt j ≠ 6 → u.get SCU_LOOP_CTRL.MODE j = m) ∧
      (∀ j v, s.scu.held = [.coef j v] → s.part.hasLoop j = true → u.get SCU_LOOP_COEF.KI j = bitsOf v.toNat 16 16) ∧
      (∀ j, s.scu.held = [.restart j] → s.part.hasLoop j = true → 512 ≤ j → s.loopSt j = 6 → u.loopSt j = 1 ∧
        u.get SCU_LOOP_CTRL.MODE j = 0) ∧
      (let r := s.scu.held.foldl State.replayScu { s with scu := { s.scu with held := [] } }
       s.recable = none → r.recable = none → r.scu.holder ≠ none → r.scu.held = [] →
        exec (.loopSample samples ain) s = exec (.loopSample samples ain) r) ∧
      (∀ b ∈ s.banks,
        let sum := ((List.range 8).map (fun j => (u.loop (8 * b + j)).req.toNat)).sum
        u.get SCU_BANK.REQ b = sum % 2 ^ 17 ∧ u.get SCU_BANK.SAT b = (if 40000 < sum then 1 else 0) ∧
        ∀ j < 8, u.get SCU_LOOP_STAT.OUTPUT (8 * b + j) =
          (if 40000 < sum then (u.loop (8 * b + j)).req.toNat * 40000 / sum else (u.loop (8 * b + j)).req.toNat) % 2 ^ 16) ∧
      (∀ i, 776 ≤ i → i < 782 → s.part.hasLoop i = true → u.get SCU_LOOP_STAT.OUTPUT i = uint 16 (u.loop i).req)))

/-- The control law of R188: from the error e, P = KP × e / 256 and the integrator moved by KI × e / 256 within the output range, unless
the output was clamped or its bank scaled in the sample before; the request is their sum within the range. A loop in AUTO whose
reading is not flagged does this in its sample; PV takes the reading; a flagged reading leaves the
output and the integrator. -/
def Obligations.ControlLaw : Prop :=
  (∀ (i coef : Nat) (x : Loop) (e : Int),
    let r := outRange i
    let y := controlLaw i coef x e
    let p := Int.fdiv (bitsOf coef 0 16 * e) 256
    (x.preset = false → x.clamped = false → x.scaled = false →
      y.integ = within r (x.integ + Int.fdiv (bitsOf coef 16 16 * e) 256)) ∧
    (x.preset = false → x.clamped = true ∨ x.scaled = true → y.integ = x.integ) ∧
    (x.preset = true → y.integ = x.req - p) ∧
    y.req = within r (p + y.integ) ∧ y.clamped = decide (y.req ≠ p + y.integ) ∧ y.sp = x.sp) ∧
  (∀ (s : State) (m : Sample), m.loop < 782 → s.loopSt m.loop = 1 →
    let i := m.loop
    let x := s.stepPoint i
    let f := rangeStep (s.get SCU_LOOP_STAT.RANGE i) m.frac x.dwell
    let u := s.sampleLoop m
    u.get SCU_LOOP_STAT.PV i = uint 16 m.pv ∧ (u.loop i).sp = x.sp ∧
    (f.2 = false → (u.loop i).req = (controlLaw i (s.coefOf i) x (x.sp - m.pv)).req ∧
      u.get SCU_LOOP_STAT.FE_COUNT i = feStep (s.coefOf i) (x.sp - m.pv) (s.get SCU_LOOP_STAT.FE_COUNT i)) ∧
    (f.2 = true → (u.loop i).req = x.req ∧ (u.loop i).integ = x.integ ∧ u.get SCU_LOOP_STAT.FE_COUNT i = s.get SCU_LOOP_STAT.FE_COUNT i))

/-- A loop in AUTO or HOLD whose following error has lasted FE_SAMPLES fails and parks; parked, its output is zero, and a restart that
waited begins; a loop held for want of light goes on in its mode after 10 samples of light. -/
def Claims.LoopsFail : Prop :=
  ∀ (s : State) (i : Fin 782),
    Does (.loopFailed i) s (fun u =>
      if (s.loopSt i = 1 ∨ s.loopSt i = 3) ∧ s.scu.holder ≠ none ∧
          bitsOf (s.coefOf i) 48 14 ≤ s.get SCU_LOOP_STAT.FE_COUNT i then
        u.loopSt i = 5 ∧ (u.loop i).parkFrom = (s.loop i).req ∧ (u.loop i).parkT = 0
      else u = s) ∧
    Does (.loopParked i) s (fun u =>
      if s.loopSt i = 5 ∧ 10 ≤ (s.loop i).parkT then
        u.get SCU_LOOP_STAT.OUTPUT i = 0 ∧
        (if (s.loop i).restart = true then u.loopSt i = 1 ∧ u.get SCU_LOOP_CTRL.MODE i = 0 ∧ (u.loop i).restart = false
         else u.loopSt i = 6)
      else u = s) ∧
    Does (.lightHoldExit i) s (fun u =>
      if s.loopSt i = 4 ∧ 10 ≤ (s.loop i).lightRun then
        u.loopSt i = s.get SCU_LOOP_CTRL.MODE i + 1 ∧ (u.loop i).preset = true ∧ KeepsBut s u .SCU_LOOP_STAT i 0 []
      else u = s)

/-- The two units: a unit that gives up stops driving and records its cause; one that is reloaded is healthy again; a claim takes the
released line, for a standby that tracks; 2,000 samples make a standby track; a switchover is refused where no standby tracks. When no
unit can take over, every loop fails with its output at zero, every lane goes down, and a running schedule rolls back. -/
def Claims.UnitsTakeOver : Prop :=
  ∀ (s : State) (u_ : Fin 2) (cause : BitVec 8) (p : Fin 4),
    Does (.scuGiveup u_ cause) s (fun u =>
      if s.unitOk u_ = true ∧ 1 ≤ cause.toNat ∧ cause.toNat ≤ 7 then
        u.unitOk u_ = false ∧ u.unitOk (1 - u_) = s.unitOk (1 - u_) ∧ u.get SCU_STATUS.GIVEUP_CAUSE = cause.toNat ∧
        u.scu.holder = (if s.scu.holder = some u_.val then none else s.scu.holder) ∧
        u.scu.released = (s.scu.released || decide (s.scu.holder = some u_.val))
      else u = s) ∧
    Does (.scuReloaded u_) s (fun u =>
      if s.unitOk u_ = true then u = s
      else u.unitOk u_ = true ∧ u.scu.tracking = false ∧ u = { s with scu := u.scu }) ∧
    Does (.seawallClaim u_) s (fun u =>
      if s.scu.holder = none ∧ s.unitOk u_ = true ∧
          (if s.scu.released = true then s.scu.tracking = true else s.get SCU_CTRL.PREF = u_.val ∨ s.unitOk (1 - u_) = false) then
        u.scu.holder = some u_.val ∧ u.scu.released = false ∧
        u.get SCU_STATUS.TAKEOVERS = (if s.scu.released = true then min SCU_STATUS.TAKEOVERS.stop (s.get SCU_STATUS.TAKEOVERS + 1)
          else s.get SCU_STATUS.TAKEOVERS)
      else u = s) ∧
    (s.bit FWU_STATUS.PAUSED = false → Does .standbyTracking s (fun u =>
      u = if s.scu.holder ≠ none ∧ s.scu.healthyA = true ∧ s.scu.healthyB = true ∧ 2000 ≤ s.scu.track then
        { s with scu := { s.scu with tracking := true } } else s)) ∧
    (s.bit FWU_STATUS.PAUSED = false → Does (.scuSwitch p) s (fun u =>
      if s.adminPort p = false then u = s.drop p
      else if s.scu.released = false ∧ s.scu.tracking = true ∧ s.scu.holder ≠ none then
        u.scu.holder = s.scu.holder.map (fun h => 1 - h) ∧ u.get SCU_STATUS.GIVEUP_CAUSE = 8 ∧
        u.get SCU_STATUS.TAKEOVERS = min SCU_STATUS.TAKEOVERS.stop (s.get SCU_STATUS.TAKEOVERS + 1)
      else u.get SCU_STATUS.SWITCH_REFUSED = 1 ∧ u.scu = s.scu)) ∧
    Does .scuTakeoverFail s (fun u =>
      if s.scu.released = true ∧ s.scu.holder = none then
        (∀ i ∈ s.fitted, s.loopSt i ≠ 0 → u.loopSt i = 6 ∧ u.get SCU_LOOP_STAT.OUTPUT i = 0 ∧ (u.loop i).restart = true) ∧
        (∀ l < 512, s.part.hasLane l = true → u.get LSW_LANE.STATE l = 0) ∧
        u.scu.healthyA = false ∧ u.scu.healthyB = false ∧ (s.schedSt = 3 → u.schedSt = 4)
      else u = s)

/-! Time (R212–R226, R377). -/

/-- SET, REACQUIRE and a write of SRC reach a base through the global copy on a port of polder 0, or through the copy of the polder that
owns it. SET is taken where SRC is 0 or this package is the root, and is recorded as ignored elsewhere; REACQUIRE and a new source put
the base to ACQUIRE. A read of the nanoseconds returns them with the fraction and latches the seconds. -/
def Claims.TimeIsSet : Prop :=
  ∀ (s : State) (p : Fin 4) (pol : Option (Fin 8)) (n : Fin 8) (src : BitVec 2),
    let may := match pol with
      | none => s.adminPort p
      | some q => s.openOn q p && s.get TIM_TB_CFG.OWNER n == q.val
    let other (u : State) : Prop := u = s ∨ u = s.drop p
    let new := if 2 < src.toNat then 0 else src.toNat
    Does (.set p pol n) s (fun u =>
      if may = false then other u
      else if s.get TIM_TB_CFG.SRC n = 0 ∨ s.get TIM_TB_CFG.ROOT_RANK n = s.rank then
        (u.base n).t = ((s.get TIM_TB_SET_SEC.SEC n * 1000000000 + s.get TIM_TB_SET_NS.NS n) * 65536 + s.get TIM_TB_SET_NS.FRAC n) %
          baseSpan ∧ u.get TIM_TB_STATUS.VALID n = 1 ∧ KeepsBut s u .TIM_TB_STATUS n 0 [] ∧ (∀ k, k ≠ n.val → u.base k = s.base k) ∧
        (n.val ≠ 0 → u.bkCount = s.bkCount)
      else u.get TIM_TB_STATUS.SET_IGNORED n = 1 ∧ u.bases = s.bases) ∧
    Does (.reacquire p pol n) s (fun u =>
      if may = false then other u
      else if s.get TIM_TB_CFG.SRC n = 0 then u = s
      else u.get TIM_TB_STATUS.STATE n = 1 ∧ KeepsBut s u .TIM_TB_STATUS n 0 [] ∧ u = { s with regs := u.regs }) ∧
    Does (.tbSrcWrite p pol n src) s (fun u =>
      if may = false then other u
      else u.get TIM_TB_CFG.SRC n = new ∧
        u.get TIM_TB_STATUS.STATE n =
          (if new = 0 then 0 else if s.get TIM_TB_CFG.SRC n = 0 then 1 else s.get TIM_TB_STATUS.STATE n) ∧
        KeepsBut s u .TIM_TB_CFG n 0 [.TIM_TB_STATUS] ∧ u = { s with regs := u.regs }) ∧
    (pol = none ∨ may = true → Does (.tbNsRead p pol n) s (fun u =>
      u.readData = BitVec.ofNat 64 ((s.base n).t / 65536 % 1000000000 + (s.base n).t % 65536 * 2 ^ 32) ∧
      u.base n = { s.base n with secLatch := some ((s.base n).t / 65536 / 1000000000) } ∧
      u = { s with readData := u.readData, bases := u.bases }))

/-- A Sync from the parent of a base's tree gives the offset of R217. In ACQUIRE the base steps by it and locks; locked, an offset
beyond JUMP_NS is refused and counted, and any other sets the rate through the servo of R219. An illegal message, one of another type
among them, is a violation and restarts time on the port. A base that has lost its Sync enters HOLDOVER. -/
def Claims.TimeIsFollowed : Prop :=
  ∀ (s : State) (a : Via) (m : SyncMsg) (n : Fin 8), s.gets a 5 0 0 = true →
    let k := a.k
    let last := SMap.get none (s.link k).syncRx m.domain
    let legal := m.typ = 0 ∧ m.version = 2 ∧ m.len = 44 ∧ m.tagLen = 44 ∧ (m.domain ≤ 7 ∨ m.domain = 200) ∧
      (∀ q, last = some q → m.seqId = (q + 1) % 65536)
    let o := Int.fdiv (((s.base n).t : Int) - (m.origin + (s.link k).delay + sint 16 (s.get TIM_PORT.ASYM k) * 4096)) 4096
    (¬ legal → Does (.syncMessage a m) s (fun u => (u.link k).timeOk = false ∧ (u.link k).pdOut = none ∧ u.bases = s.bases ∧
      u.get LNK_VIOL.TIME_MSG k = min LNK_VIOL.TIME_MSG.stop (s.get LNK_VIOL.TIME_MSG k + 1))) ∧
    (legal → m.domain = n.val → (s.link k).timeOk = true → s.get TIM_TB_CFG.SRC n = 1 →
      (s.got a 5 0 1 0).timeParent ((s.got a 5 0 1 0).rootOf n) = some k.val →
      Does (.syncMessage a m) s (fun u =>
        u.get TIM_TB_CTRL.LAST_OFFSET n = uint 32 (Int.fdiv o 16) ∧ u.get TIM_TB_STATUS.STATE n = 2 ∧
        (if s.get TIM_TB_STATUS.STATE n = 1 then
          (u.base n).t = (((s.base n).t - o * 4096) % (baseSpan : Int)).toNat ∧ (u.base n).freq = (s.base n).freq
         else if s.get TIM_TB_SERVO.JUMP_NS n * 16 < o.natAbs then
          u.base n = s.base n ∧ u.get TIM_TB_STATUS.REFUSED n = min TIM_TB_STATUS.REFUSED.stop (s.get TIM_TB_STATUS.REFUSED n + 1)
         else (u.base n).t = (s.base n).t ∧
          (u.base n).integ = max (-128000000) (min 128000000 ((s.base n).integ + s.get TIM_TB_SERVO.KI n * o)) ∧
          (u.base n).freq = -max (-128000000) (min 128000000 (s.get TIM_TB_SERVO.KP n * o + (u.base n).integ))) ∧
        (∀ j, j ≠ n.val → u.base j = s.base j))) ∧
    Does (.timeHoldover n) s (fun u =>
      if s.get TIM_TB_CFG.SRC n = 1 ∧ s.get TIM_TB_CFG.ROOT_RANK n ≠ s.rank then
        u.get TIM_TB_STATUS.STATE n = 3 ∧ u.bases = s.bases ∧ KeepsBut s u .TIM_TB_STATUS n 0 [.EVC_PEND]
      else u = s)

/-- A base's Sync goes on every link toward a child of its tree, with its sequence and stamp, from the root and from those that follow;
peer-delay messages measure each link that carries time: a request is answered there with its sequence, and a response that fits the
exchange under way gives the mean delay. An illegal one is a violation. -/
def Obligations.TimeIsSent : Prop :=
  ∀ (s : State) (k : Fin 128) (a : Via) (d : Fin 8) (m : PdelayMsg),
    let legal (typ : Nat) := m.typ = typ ∧ m.version = 2 ∧ m.len = 54 ∧ m.tagLen = 54 ∧ (m.domain ≤ 7 ∨ m.domain = 200)
    Does (.syncSend d.castSucc) s (fun u =>
      if s.rootOf d ≠ s.rank ∧ s.get TIM_TB_CFG.SRC d ≠ 1 then u = s
      else (∀ j ∈ s.timeChildren (s.rootOf d),
          ⟨s.rank, 0, .sync d (SMap.get 0 (s.link j).syncTx d) (s.base d).t⟩ ∈ (u.link j).q0 ∧
          SMap.get 0 (u.link j).syncTx d = (SMap.get 0 (s.link j).syncTx d + 1) % 65536) ∧
        u = { s with links := u.links }) ∧
    Does (.syncSend 8) s (fun u => s.tickRoot = s.rank →
      u.joined = true ∧ u.get TIM_MTICK_STAT.ALIGNED = 1 ∧ u.get TIM_MTICK_STAT.OFFSET = 0 ∧
      u.get TIM_MTICK_STAT.ROOT = s.rank % 2 ^ 15) ∧
    Does (.pdelaySend k) s (fun u =>
      if s.linkUp k = true ∧ s.bit TIM_PORT.TIME_EN k = true then
        u.link k = { s.link k with pdSeq := ((s.link k).pdSeq + 1) % 65536,
                                   q0 := (s.link k).q0 ++ [⟨s.rank, 0, .pdelayReq (s.link k).pdSeq⟩] } ∧ u = { s with links := u.links }
      else u = s) ∧
    (s.linkUp a.k = false → exec (.pdelayReq a m) s = .next s ∧ exec (.pdelayResp a m) s = .next s) ∧
    (s.gets a 5 0 0 = true →
      Does (.pdelayReq a m) s (fun u =>
        if legal 2 then
          (s.bit TIM_PORT.TIME_EN a.k = true → ⟨s.rank, 0, .pdelayResp m.seqId s.portNow⟩ ∈ (u.link a.k).q0) ∧
          (s.bit TIM_PORT.TIME_EN a.k = false → u = s.got a 5 0 1 0) ∧ KeepsRegs s u [.LNK_ERR]
        else u.get LNK_VIOL.TIME_MSG a.k = min LNK_VIOL.TIME_MSG.stop (s.get LNK_VIOL.TIME_MSG a.k + 1) ∧
          (u.link a.k).timeOk = false) ∧
      Does (.pdelayResp a m) s (fun u =>
        (∀ t1, (s.link a.k).pdOut = some (m.seqId, t1) → legal 3 →
          (u.link a.k).delay = Int.fdiv ((s.portNow : Int) - t1 - m.turnaround) 2 ∧ (u.link a.k).timeOk = true ∧
            (u.link a.k).pdOut = none) ∧
        ((∀ t1, (s.link a.k).pdOut ≠ some (m.seqId, t1)) ∨ ¬ legal 3 →
          u.get LNK_VIOL.TIME_MSG a.k = min LNK_VIOL.TIME_MSG.stop (s.get LNK_VIOL.TIME_MSG a.k + 1) ∧
          (u.link a.k).timeOk = false ∧ (u.link a.k).delay = (s.link a.k).delay)))

/-- An accepted PPS edge gives every base that follows PPS the distance of PPS_BASE to the nearest second; the PPS output is high in the
first 100 ms of a second; a compare unit that is armed fires once its base has reached the target. -/
def Claims.PulsesAndCompares : Prop :=
  ∀ (s : State) (m : Fin 8),
    let t := (s.base (s.get TIM_CFG.PPS_BASE)).t
    Does .ppsEdge s (fun u =>
      if s.bit TIM_CFG.PPS_DIR = false ∨ (∃ c, s.pins.lastPps = some c ∧ s.clk < c + 781250000) then u = s
      else u.pins.lastPps = some s.clk ∧ ∀ n < 8,
        (s.get TIM_TB_CFG.SRC n = 2 → u.get TIM_TB_CTRL.LAST_OFFSET n = uint 32 (Int.fdiv (ppsOffset t) 16) ∧
          u.get TIM_TB_STATUS.STATE n = 2) ∧
        (s.get TIM_TB_CFG.SRC n ≠ 2 → u.base n = s.base n)) ∧
    Does .ppsOutput s (fun u =>
      u = { s with pins := { s.pins with
        ppsOut := !s.bit TIM_CFG.PPS_DIR && decide (t % (1000000000 * 65536) < 100000000 * 65536) } }) ∧
    Does (.timeCompare m) s (fun u =>
      if s.bit TIM_CMP.ARM m = true ∧
          sint 32 ((s.get TIM_CMP.TARGET m + 2 ^ 32 - s.shortStamp (s.get TIM_CMP.BASE m)) % 2 ^ 32) ≤ 0 then
        u.get TIM_CMP.ARM m = 0 ∧ u.get TIM_CMP.FIRED m = 1 ∧ KeepsBut s u .TIM_CMP m 0 [.EVC_PEND]
      else u = s)

/-- Loss of REFCLK takes every lane and link down, puts the bases that follow a source to HOLDOVER, and is a fault of a running schedule;
when it returns, the lanes that may be lit train. -/
def Claims.ReferenceClock : Prop :=
  ∀ (s : State),
    Does .refclkLost s (fun u =>
      if s.pins.refclk = true then
        u.pins.refclk = false ∧
        (∀ l < 512, s.get LSW_LANE.STATE l = 2 ∨ s.get LSW_LANE.STATE l = 3 → u.get LSW_LANE.STATE l = 0) ∧
        (∀ k < s.plan.links.length, k < 65536 → s.get LNK_STATE.STATE k ∈ [1, 2, 3, 4] → u.get LNK_STATE.STATE k = 0) ∧
        (∀ n < 8, s.get TIM_TB_CFG.SRC n ≠ 0 → u.get TIM_TB_STATUS.STATE n = 3) ∧ (s.schedSt = 3 → u.schedSt = 4)
      else u = s) ∧
    Does .refclkReturn s (fun u =>
      if s.pins.refclk = false then
        u.pins = { s.pins with refclk := true } ∧
        (∀ l < 512, u.get LSW_LANE.STATE l =
          if s.usable l = true ∧ s.get LSW_LANE.STATE l = 0 then 2 else s.get LSW_LANE.STATE l) ∧
        KeepsRegs s u [.LSW_LANE] ∧ u = { s with regs := u.regs, pins := u.pins }
      else u = s)

/-! Host ports, polders, apertures (R227–R243). -/

/-- A grant of `k` places from `b` on, out of `n`: all free, no more than asked for, no longer free run left out, at the lowest place. -/
def GrantedRun (busy : Nat → Bool) (n req b k : Nat) : Prop :=
  k ≤ req ∧ b + k ≤ n ∧ (∀ j < k, busy (b + j) = false) ∧
    (∀ i m, i + m ≤ n → m ≤ req → (∀ j < m, busy (i + j) = false) → m ≤ k) ∧
    (∀ i < b, i + k ≤ n → ∃ j < k, busy (i + j) = true)

/-- OPEN opens a CLOSED polder at once, with the rings, objects and HBM that the others leave, bound to its port alone; CLOSE closes an
OPEN one other than polder 0: what waits ends POLDER_CLOSING, its engines are off, its bases and targets are given up. Both do nothing
where the polder is so already, and are queued while it opens or closes. Once its memory is zeroed it is CLOSED, and opens again where
an OPEN was queued, polder 0 where its port has trained. -/
def Obligations.PoldersOpenAndClose : Prop :=
  ∀ (s : State) (p : Fin 4) (n : Fin 8),
    Does (.polderOpen p n) s (fun u =>
      if s.adminPort p = false then u = s.drop p
      else if s.bit PWR_START.SAFE = true ∧ n.val ≠ 0 then u = s
      else if s.polderSt n = 0 then
        u.polderSt n = 1 ∧ u.get GLB_PLD_STAT.BUSY n = 1 ∧
        u.get GLB_PLD_STAT.HBM_GIB n = min (s.get GLB_PLD_CFG.HBM_REQ n) (s.unallocatedFrames / 262144) ∧
        GrantedRun s.pageBusy 128 (s.get GLB_PLD_CFG.RINGS_REQ n) (u.get GLB_PLD_STAT.RING_BASE n) (u.get GLB_PLD_STAT.RING_PAGES n) ∧
        GrantedRun s.blockBusy 256 (s.get GLB_PLD_CFG.SYNC_REQ n) (u.get GLB_PLD_STAT.SYNC_BASE n)
          (u.get GLB_PLD_STAT.SYNC_BLOCKS n) ∧
        (∀ q < 4, u.bound n q = decide (q = s.clampSpecial GLB_PLD_CFG.PORT n (s.get GLB_PLD_CFG.PORT n)))
      else if s.polderSt n = 2 then u = s
      else u.get GLB_PLD_STAT.QUEUED n = 1 ∧ KeepsBut s u .GLB_PLD_STAT n 0 []) ∧
    Does (.polderClose p n) s (fun u =>
      if s.adminPort p = false then u = s.drop p
      else if n.val = 0 ∨ s.polderSt n = 0 then u = s
      else if s.polderSt n = 2 then
        u.polderSt n = 3 ∧ u.get GLB_PLD_STAT.BUSY n = 1 ∧
        (∀ x, s.desc x.id = some x → x.pol = n → x.phase = .waiting → u.ended x.id 0x13 0 0) ∧
        (∀ e < 16, u.get GTH_ASSIGN.OWNER e = n → u.get GTH_ASSIGN.EN e = 0) ∧
        (∀ b < 8, u.get TIM_TB_CFG.OWNER b ≠ n) ∧ (∀ j < 16, u.get EVC_TGT_CFG.EN n j = 0)
      else u.get GLB_PLD_STAT.QUEUED n = 2 ∧ KeepsBut s u .GLB_PLD_STAT n 0 []) ∧
    Does (.polderOpened n) s (fun u =>
      if s.polderSt n = 1 then
        u.polderSt n = (if s.get GLB_PLD_STAT.QUEUED n = 2 ∧ n.val ≠ 0 then 3 else 2) ∧ u.get GLB_PLD_STAT.QUEUED n = 0
      else u = s) ∧
    Does (.polderZeroed n) s (fun u =>
      let again := if n.val = 0 then s.portUp.getD (s.clampSpecial GLB_PLD_CFG.PORT 0 s.setPort) false = true
        else s.get GLB_PLD_STAT.QUEUED n = 1
      if s.closedOut n = true then
        (¬ again →
          u.reg .GLB_PLD_STAT n 0 = 0 ∧ (∀ f, SMap.get 0 u.frames f ≠ n.val + 1) ∧ (∀ q < 4, u.bound n q = false) ∧
          (∀ f a, SMap.get 0 s.frames f = n.val + 1 → f ∉ u.retired → a < 4096 → u.hbm.byte (4096 * f + a) = 0)) ∧
        (again → u.polderSt n = 1)
      else u = s)

/-- A reset of a port takes its link down and closes every polder bound to it; a trained port is up, and polder 0 reopens where the
port is its own. Setting Bus Master Enable sends the vectors of its polders that were pending and are not masked. A BAR2 access restarts
the XD core clock and goes to BASE + offset of an OPEN polder of the port; elsewhere it is dropped and reads zeros, and without a
translation it counts in BAR2_MISS too. -/
def Obligations.PortsAndApertures : Prop :=
  ∀ (s : State) (q : Fin 4),
    Does (.portReset q) s (fun u =>
      if s.upperPort q = true then u = s
      else u.get GLB_PORT.RESETS q = min GLB_PORT.RESETS.stop (s.get GLB_PORT.RESETS q + 1) ∧ u.get GLB_PORT.LINK_UP q = 0 ∧
        u.portUp.getD q false = false ∧ u.busMaster.getD q false = false ∧
        (q.val < s.inReset.length → u.inReset.getD q false = true) ∧
        (∀ n < 8, s.bound n q = true → 1 ≤ s.polderSt n → s.polderSt n ≤ 3 → u.polderSt n = 3)) ∧
    Does (.portResetEnd q) s (fun u =>
      u = if s.upperPort q = true then s else { s with inReset := s.inReset.set q false }) ∧
    (∀ (gen : Fin 7) (width : Fin 17), Does (.portTrained q gen width) s (fun u =>
      if s.upperPort q = true ∨ s.inReset.getD q false = true ∨ s.portRuns q = false then u = s
      else u.get GLB_PORT.LINK_UP q = 1 ∧ u.get GLB_PORT.RATE q = gen ∧ u.get GLB_PORT.WIDTH q = width ∧
        u.polderSt 0 = if s.clampSpecial GLB_PLD_CFG.PORT 0 s.setPort = q.val ∧ s.polderSt 0 = 0 then 1 else s.polderSt 0)) ∧
    (∀ on, q.val < s.busMaster.length → Does (.busMasterEnable q on) s (fun u =>
      u.busMaster.getD q false = on ∧ (on = false → u = { s with busMaster := u.busMaster }) ∧
      (on = true → ∀ v < 128, (s.msix.byte (msixKey q (2048 + v / 8))).toNat / 2 ^ (v % 8) % 2 = 1 → s.msixMasked q v = false →
        s.bound (v / 16) q = true →
        (q.val, v) ∈ u.msixOut ∧ (u.msix.byte (msixKey q (2048 + v / 8))).toNat / 2 ^ (v % 8) % 2 = 0))) ∧
    (∀ (off len : Nat) (bs : List Byte),
      let n := off / 2 ^ 33
      let va := s.get PLD_BAR2.BASE n * 2 ^ 21 + off % 2 ^ 33
      let w := s.wakeXd
      let r := w.demand n va len
      let counted (u : State) : Prop := u.get GLB_PORT.DROPPED q = min GLB_PORT.DROPPED.stop (s.get GLB_PORT.DROPPED q + 1)
      let missed (u : State) : Prop := counted u ∧
        u.get PLD_STATUS.BAR2_MISS n = min PLD_STATUS.BAR2_MISS.stop (s.get PLD_STATUS.BAR2_MISS n + 1)
      let there := n < 8 ∧ s.openOn n q = true
      Does (.bar2Access q off len none) s (fun u =>
        (¬ there → u.readBytes = List.replicate len 0 ∧ counted u) ∧
        (∀ xs, there → r.vread n va len = .ok xs → u = { r with readBytes := xs, readPoison := false }) ∧
        (∀ e a, there → r.vread n va len = .error (.fault e a) → u.readBytes = List.replicate len 0 ∧ missed u) ∧
        (∀ a pa, there → r.vread n va len = .error (.hbm a pa) → u.readBytes = [] ∧ u.readPoison = true)) ∧
      Does (.bar2Access q off len (some bs)) s (fun u =>
        (¬ there → u = w.drop q) ∧
        (∀ t, there → w.vwriteAll n va bs = .ok t → u = t) ∧
        (∀ e a, there → w.vwriteAll n va bs = .error (.fault e a) → missed u ∧ u.hbm = s.hbm ∧ u.host = s.host) ∧
        (∀ a pa, there → w.vwriteAll n va bs = .error (.hbm a pa) → u = w)))

/-! Rings, sluices, descriptors (R244–R270). -/

/-- ENABLE starts a ring that its polder owns with its counters at zero, and is queued while a disable is in progress; DISABLE stops its
fetch and cancels what waits. A sluice moves TAIL and CQ_HEAD no further than there is room. The ring engine, while its clock runs and no
management pause stops it, grants an eligible ring of the highest priority; the descriptors of one read enter in order. -/
def Obligations.RingsAreServed : Prop :=
  ∀ (s : State) (p : Fin 4) (n : Fin 8),
    let sel := s.get RNG_SEL.RING n
    Does (.enable p n) s (fun u =>
      if s.openOn n p = false then u = s.drop p
      else if s.ownsRing n sel = false then u = s
      else if s.get RNG_CTRL.BUSY sel = 1 then u.get RNG_CTRL.QUEUED sel = 1 ∧ KeepsBut s u .RNG_CTRL sel 0 []
      else if s.get RNG_CTRL.ENABLED sel = 1 then u = s
      else u.get RNG_CTRL.ENABLED sel = 1 ∧ u.get RNG_CTRL.RING_FAULT sel = 0 ∧ u.reg .RNG_STATE sel 0 = 0 ∧
        KeepsRegs s u [.RNG_CTRL, .RNG_STATE] ∧ u.descs = s.descs) ∧
    Does (.disable p n) s (fun u =>
      if s.openOn n p = false then u = s.drop p
      else if s.ownsRing n sel = false ∨ s.get RNG_CTRL.ENABLED sel = 0 then u = s
      else (s.get RNG_CTRL.QUEUED sel = 0 → u.get RNG_CTRL.ENABLED sel = 0) ∧
        (∀ y ∈ u.descs, y.ring = sel → y.phase = .waiting → y.cancelled = true)) ∧
    (∀ (addr size : Nat) (v : BitVec 64),
      let off := addr - 0x180000
      let r := 64 * (off / 4096) + off % 4096 / 64
      let ahead (a b : Nat) : Nat := (a + 65536 - b) % 65536
      let tail := s.get RNG_STATE.TAIL r
      let head := s.get RNG_STATE.CQ_HEAD r
      Does (.sluice p addr size v) s (fun u =>
        if addr < 0x180000 ∨ 0x200000 ≤ addr then u = s
        else if ((s.ringOwner r).map (s.openOn · p)).getD false = true ∧ size = 8 ∧ off % 64 = 0 ∧
            s.get RNG_CTRL.ENABLED r = 1 ∧ s.get RNG_CTRL.BUSY r ≠ 1 then
          u.get RNG_STATE.TAIL r = (if ahead (v.toNat % 65536) tail ≤ s.ringSize r - s.announcedOn r then v.toNat % 65536 else tail) ∧
          u.get RNG_STATE.CQ_HEAD r =
            (if v.toNat / 2 ^ 63 = 1 ∧ ahead (v.toNat / 2 ^ 32 % 65536) head ≤ ahead (s.get RNG_STATE.CQ_TAIL r) head
             then v.toNat / 2 ^ 32 % 65536 else head) ∧
          KeepsBut s u .RNG_STATE r 0 [] ∧ u = { s with regs := u.regs }
        else u = s.drop p)) ∧
    Does .ringGrant s (fun u =>
      if s.get FWU_STATUS.PAUSED = 1 ∨ s.get PWR_IDLE.IDLE = 1 ∨ s.pins.resetN = false then u = s
      else (s.nextGrant = none → u = s) ∧
        (∀ r, s.nextGrant = some r → s.eligible r = true ∧ (∀ q < 8192, s.eligible q = true → s.get RNG_CFG.PRIO r ≤ s.get RNG_CFG.PRIO q) ∧
          u.fetches = s.fetches ++ [{ ring := r, pos := s.get RNG_STATE.HEAD r, n := s.fetchCount r }] ∧
          u = { s with ringPtr := u.ringPtr, fetches := u.fetches })) ∧
    (∀ (r : Fin 8192) (f : Fetch) (m : Nat) (bs : List Byte), s.fetches.find? (fun f => f.ring == r.val) = some f → 0 < f.n →
      s.ringOwner r = some m → s.fetchBlocked r = false → s.cancels = [] →
      let at_ := s.get RNG_SQ_BASE.ADDR r * 64 + 64 * (f.pos % s.ringSize r)
      let s0 := s.demand m at_ (64 * f.n)
      s0.vread m at_ (64 * f.n) = .ok bs →
      Does (.descriptorFetched r) s (fun u =>
        u.get RNG_STATE.HEAD r = (f.pos + f.n) % 65536 ∧ KeepsBut s0 u .RNG_STATE r 0 [] ∧ u.nextDesc = s.nextDesc + f.n ∧
        u.hbm = s0.hbm ∧ (∀ g ∈ u.fetches, g.ring ≠ r.val) ∧
        u.descs = s.descs ++ (List.range f.n).map (fun i =>
          { id := s.nextDesc + i, ring := r, pol := m, pos := (f.pos + i) % 65536, raw := (bs.drop (64 * i)).take 64,
            cancelled := !s.bit RNG_CTRL.ENABLED r })))

/-- The descriptor of a ring whose turn it is issues when its fence and its wait object allow it, and ends with its status where a check
refuses it: an undefined opcode, an administrator opcode of another polder, an absent or unavailable unit; one of a gather engine takes its
command with it. One that has ended adds 1 to its signal object on success, its record is written, and it leaves. -/
def Obligations.DescriptorsPass : Prop :=
  ∀ (s : State) (r : Fin 8192) (x : Desc), s.desc x.id = some x →
    (s.nextToIssue r = none → Does (.descriptorIssue r) s (fun u => u = s)) ∧
    (s.nextToIssue r = some x → Does (.descriptorIssue r) s (fun u =>
      if x.cancelled = true then u.ended x.id (if s.polderSt x.pol = 3 then 0x13 else 0x0A) 0 0
      else if s.recordBlocked r = true ∨ (x.fence = true ∧ s.descs.any (fun y => y.ring == x.ring && decide (y.id < x.id)) = true) then u = s
      else (opcodes.contains x.opcode = false → u.ended x.id 0x01 0 0) ∧
        (adminOp x.opcode = true → x.pol ≠ 0 → u.ended x.id 0x04 0 0) ∧
        (opcodes.contains x.opcode = true → (adminOp x.opcode = true → x.pol = 0) →
          (∀ det, s.absentUnit x = some det → u.ended x.id 0x02 (det % 2 ^ 48) 0) ∧
          (∀ det, s.absentUnit x = none → s.unavailable x = some det → u.ended x.id 0x03 (det % 2 ^ 48) 0)) ∧
        (s.issueCheck x = none → s.waitOpen x = false → u = s) ∧
        (s.issueCheck x = none → s.waitOpen x = true → gatherOp x.opcode = false →
          u.descs = s.descs.filter (fun y => y.id != x.id) ++ [{ x with phase := .issued }] ∧
          u.warden = (if adminOp x.opcode = true then s.warden ++ [x.id] else s.warden) ∧
          u = { s with descs := u.descs, warden := u.warden }) ∧
        (∀ cmd, s.issueCheck x = none → s.waitOpen x = true → gatherOp x.opcode = true →
          let at_ := x.field 0x20 8 / 64 * 64
          let t := (s.dispatch x).demand x.pol at_ 64
          t.vread x.pol at_ 64 = .ok cmd →
          u.desc x.id = some { x with phase := .issued, blob := cmd } ∧ (∀ d, d ≠ x.id → u.desc d = s.desc d) ∧
          u.warden = s.warden ∧ u = { t with descs := u.descs }))) ∧
    (x.phase ≠ .ended → Does (.descriptorComplete x.id) s (fun u => u = s)) ∧
    (∀ w, x.phase = .ended → s.mute.getD x.pol false = false → x.ring < 8192 → s.get FWU_STATUS.PAUSED ≠ 1 → s.recordTurn x = true →
      s.polderSt x.pol ≠ 3 → s.get RNG_CTRL.BUSY x.ring ≠ 1 → s.faults.any (fun f => f.pol == x.pol && f.slot.isNone) = false →
      (s.applySignal x).vwriteAll x.pol (s.get RNG_CQ_BASE.ADDR x.ring * 32 +
        32 * (s.get RNG_STATE.CQ_TAIL x.ring % s.ringSize x.ring)) ((s.applySignal x).recordBytes x) = .ok w →
      Does (.descriptorComplete x.id) s (fun u =>
        u.get RNG_STATE.CQ_TAIL x.ring = (s.get RNG_STATE.CQ_TAIL x.ring + 1) % 65536 ∧
        u.get RNG_STAT.COMPLETED x.ring = min RNG_STAT.COMPLETED.stop (s.get RNG_STAT.COMPLETED x.ring + 1) ∧
        u.hbm = w.hbm ∧ u.host = w.host ∧ u.desc x.id = none ∧ (∀ d, d ≠ x.id → u.desc d = s.desc d) ∧
        (∀ o, s.signalObj x = some o → u.obj o = if x.status = 0 ∧ x.signalled = false then s.obj o + 1 else s.obj o)))

/-- NOP succeeds at once. COPY and FILL start where the copy engine has room and it is their turn, and move their bytes piece by piece, each
in its turn, to the end of an aligned 4 KiB of destination; a piece without a translation suspends the descriptor with its progress. CANCEL
reports what it found: nothing 0, one not issued 1, one that stops 2, one that has ended 3; in a slot that is announced it waits for the
fetch. -/
def Obligations.MovesAndCancels : Prop :=
  ∀ (s : State) (x : Desc), s.desc x.id = some x →
    (s.runs x 0x01 → Does (.nopDescriptor x.id) s (fun u => u.ended x.id 0 0 0)) ∧
    (∀ c ∈ [(Instr.copy x.id, 0x02), (.fill x.id, 0x03)], x.opcode = c.2 → x.phase = .issued → Does c.1 s (fun u =>
      if x.moveLen = 0 then u.ended x.id 0 0 0
      else if s.copyRoom x = true then
        u = { s.taken x.id with copyPtr := SMap.set 0 s.copyPtr (s.prioOf x) (s.ringKey x.ring + 1) }
      else u = s)) ∧
    (let at_ := x.moveDst + x.done
     let len := min (4096 - at_ % 4096) (x.moveLen - x.done)
     let fill := (List.range len).map (fun i => x.raw.getD (0x28 + (x.done + i) % 8) 0)
     let t := ({ s with copyPtr := SMap.set 0 s.copyPtr (4 + s.prioOf x) (x.id + 1) } : State).demandPiece x x.done
     x.phase = .running →
     (s.pieceTurn x = false → Does (.copyPiece x.id) s (fun u => u = s)) ∧
     (∀ bs w, s.pieceTurn x = true →
       (x.opcode = 0x02 ∧ t.vread x.pol (x.field 0x18 8 + x.done) len = .ok bs) ∨ (x.opcode = 0x03 ∧ bs = fill) →
       t.vwriteAll x.pol at_ bs = .ok w → Does (.copyPiece x.id) s (fun u =>
         u.hbm = w.hbm ∧ u.host = w.host ∧ u.tstore = w.tstore ∧
         if x.moveLen ≤ x.done + len then u.ended x.id 0 0 x.moveLen else u.desc x.id = some { x with done := x.done + len })) ∧
     (∀ n va, s.pieceTurn x = true → x.opcode = 0x02 → t.vread x.pol (x.field 0x18 8 + x.done) len = .error (.fault n va) →
       Does (.copyPiece x.id) s (fun u =>
         if s.get MMU_FQ_CFG.EN x.pol = 1 then ∃ y, u.desc x.id = some y ∧ y.phase = .suspended ∧ y.done = x.done
         else u.ended x.id 0x12 0 x.done))) ∧
    (let r := s.cancelRing x
     let slot := x.field 0x1A 2 % s.ringSize r
     s.runs x 0x04 → s.cancels.any (fun c => c.by_ == x.id) = false →
     (∀ pos, s.announcedAt r slot = some pos → Does (.cancel x.id) s (fun u =>
       u = { s.taken x.id with cancels := s.cancels ++ [{ ring := r, pos := pos, user := x.field 0x20 8, by_ := x.id }] })) ∧
     (s.announcedAt r slot = none → Does (.cancel x.id) s (fun u =>
       ((s.taken x.id).cancelTarget r slot (x.field 0x20 8) = none → u.ended x.id 0 0 0) ∧
       (∀ y, (s.taken x.id).cancelTarget r slot (x.field 0x20 8) = some y → (s.taken x.id).desc y.id = some y →
         (y.phase = .waiting → u.ended x.id 0 1 0 ∧ ∀ z, u.desc y.id = some z → z.cancelled = true) ∧
         (y.phase = .suspended → u.ended x.id 0 2 0 ∧ u.ended y.id (if s.polderSt y.pol = 3 then 0x13 else 0x0B) 0 y.done) ∧
         (y.phase = .ended → u.ended x.id 0 3 0)))))

/-! Device memory, translation, faults (R271–R291). -/

/-- MAP takes what its pages need from the quota first, beside what other MAPs have claimed, and ends QUOTA_EXCEEDED with the shortage
where that fails; a page whose tables are there gets its entry, from the quota with frames of the polder; UNMAP of a page clears its entry,
and skips what is not mapped. Both wait for the accesses of other packages' pages that use their range. -/
def Claims.PagesAreMapped : Prop :=
  ∀ (s : State) (x : Desc), s.tablesWait x.pol = false →
    let v := (s.taken x.id).onDesc x.id (fun y => { y with claim := 0 })
    let m := x.mapArgs
    let free := v.quotaFree x.pol
    let used := s.inUse x.pol m.va (m.pages * pageSize m.level)
    let all := (List.range m.pages).drop x.prog
    let todo := all.filter (fun i => !v.mapSkips x.pol m i)
    let n := pageSize m.level / 4096
    let need := (if m.fresh = true then todo.length * n else 0) + (if v.ptHbm x.pol = true then v.tablesShort x.pol m todo else 0)
    let leaf (a : Nat) := mkLeaf m.rd m.wr false m.target a m.rank
    (s.runs x 0x40 → used = true → exec (.map x.id) s = .next (s.taken x.id)) ∧
    (s.runs x 0x40 → used = false → free < need → Does (.map x.id) s (fun u =>
      u.ended x.id 0x14 ((need - free) % 2 ^ 48) x.done ∧ u.hbm = s.hbm ∧ u.host = s.host ∧ u.frames = s.frames)) ∧
    (s.runs x 0x40 → used = false → need ≤ free → todo = [] → Does (.map x.id) s (fun u => u.ended x.id 0 0 x.done)) ∧
    (s.runs x 0x40 → used = false → need ≤ free → all = [0] → todo = [0] → v.tablesShort x.pol m [0] ≤ v.tablesLeft x.pol →
      (∀ a w, m.target ≠ 0 → v.reachPage x.pol (m.pageVa 0) m.level = some (a, w) → Does (.map x.id) s (fun u =>
        u.ended x.id 0 0 (x.done + 1) ∧ u.pte x.pol a = leaf (m.pageAddr 0))) ∧
      (∀ f a v1 w, m.fresh = true → v.allocRun x.pol n = some (f, v1) → v1.reachPage x.pol (m.pageVa 0) m.level = some (a, w) →
        w.entry x.pol m.level a = none → Does (.map x.id) s (fun u =>
          u.ended x.id 0 0 (x.done + 1) ∧ u.pte x.pol a = leaf (4096 * f) ∧
          ∀ i < n, SMap.get 0 s.frames (f + i) = 0 ∧ SMap.get 0 u.frames (f + i) = x.pol + 1 ∧ SMap.get 0 u.refs (f + i) = 1)) ∧
      (∀ va r, m.target = 0 → m.fresh = false → v.aliasRun x.pol (m.pageAddr 0) n = .error (r, va) →
        (s.get MMU_FQ_CFG.EN x.pol = 0 → Does (.map x.id) s (fun u => u.ended x.id 0x12 0 x.done)) ∧
        (s.get MMU_FQ_CFG.EN x.pol = 1 → Does (.map x.id) s (fun u =>
          ∃ y, u.desc x.id = some y ∧ y.phase = .suspended ∧ y.claim = need ∧ y.prog = 0 ∧ y.done = x.done)))) ∧
    (s.runs x 0x41 → s.inUse x.pol x.range.1 (x.range.2 - x.range.1) = true → exec (.unmap x.id) s = .next (s.taken x.id)) ∧
    (s.runs x 0x41 → s.inUse x.pol x.range.1 (x.range.2 - x.range.1) = false → x.range.2 = x.range.1 + 4096 →
      s.lockedAt x.pol x.range.1 = none →
      (∀ a e, v.pageAt x.pol x.range.1 = .ok (4, a, e) → Does (.unmap x.id) s (fun u =>
        u.ended x.id 0 0 (x.done + 1) ∧ u.pte x.pol a = 0)) ∧
      (∀ nxt, v.pageAt x.pol x.range.1 = .error nxt → x.range.2 ≤ nxt → Does (.unmap x.id) s (fun u =>
        u.ended x.id 0 0 x.done ∧ u.hbm = s.hbm ∧ u.host = s.host ∧ u.frames = s.frames)))

/-- EMBANK locks the translation of a page of HBM or host memory and marks its entry; a page that is not mapped is a translation fault.
RELEASE unlocks every page that its range meets, unless the resident schedule lists one of them: SCHEDULE_STATE then. -/
def Claims.PagesAreEmbanked : Prop :=
  ∀ (s : State) (x : Desc), s.tablesWait x.pol = false →
    let v := s.taken x.id
    (s.runs x 0x42 → x.done = 0 → x.prog = 0 → x.range.2 = x.range.1 + 4096 → s.lockedAt x.pol x.range.1 = none →
      (∀ a e, v.walk x.pol x.range.1 = .leaf 4 a e → pteTarget e ≤ 1 → (pteTarget e = 0 → s.ownsLeaf x.pol 4 e = true) →
        s.locked.length < 65536 → Does (.embank x.id) s (fun u =>
          u.ended x.id 0 0 1 ∧ pteEmb (u.pte x.pol a) = true ∧ pteAddr (u.pte x.pol a) = pteAddr e ∧
          u.locked = s.locked ++ [{ pol := x.pol, va := x.range.1, size := 4096, target := pteTarget e, addr := pteAddr e,
                                    rd := pteRead e, wr := pteWrite e }])) ∧
      (∀ l t, v.walk x.pol x.range.1 = .hole l t → Does (.embank x.id) s (fun u => u.locked = s.locked ∧
        if s.get MMU_FQ_CFG.EN x.pol = 1 then ∃ y, u.desc x.id = some y ∧ y.phase = .suspended else u.ended x.id 0x12 0 0))) ∧
    (s.runs x 0x43 → Does (.release x.id) s (fun u =>
      if s.releaseBarred x.pol x.range.1 x.range.2 = true then u.ended x.id 0x08 s.schedSt 0 ∧ u.locked = s.locked
      else u.ended x.id 0 0 (s.lockedIn x.pol x.range.1 x.range.2).length ∧
        u.locked = s.locked.filter (fun l => !(s.lockedIn x.pol x.range.1 x.range.2).contains l)))

/-- FAULT_REPLY names an outstanding fault: on retry its descriptor runs again, on abort it ends FAULT_ABORTED with the fault's number
and progress, as it does after TIMEOUT_MS. A read error of host memory where data lies ends its descriptor, or disables the ring whose fetch
it was; one where a table in host memory is read is a translation fault of that work. -/
def Claims.FaultsAreAnswered : Prop :=
  ∀ (s : State) (x y : Desc) (f : FaultRec), s.desc y.id = some y → y.id ≠ x.id → f.desc = some y.id → f.requester ≠ 2 →
    f.requester ≠ 3 → y.phase = .suspended →
    (s.runs x 0x44 → s.faultNamed x = none → Does (if x.replyAbort then .faultReplyAbort x.id else .faultReplyRetry x.id) s (fun u =>
      u.ended x.id 0 0 0 ∧ u.faults = s.faults.filter (fun f => !(f.desc == some x.id)))) ∧
    (s.runs x 0x44 → s.faultNamed x = some f → x.replyAbort = false → Does (.faultReplyRetry x.id) s (fun u =>
      u.ended x.id 0 0 0 ∧ u.desc y.id = some { y with phase := .running })) ∧
    (s.runs x 0x44 → s.faultNamed x = some f → x.replyAbort = true → Does (.faultReplyAbort x.id) s (fun u =>
      u.ended x.id 0 0 0 ∧ u.ended y.id 0x12 (f.id % 2 ^ 48) f.done)) ∧
    (∀ (pol : Fin 8) (slot : Nat),
      (s.faults.find? (fun f => f.pol == pol.val && f.slot == some slot) = none → Does (.faultTimeout pol slot) s (fun u => u = s)) ∧
      (s.faults.find? (fun f => f.pol == pol.val && f.slot == some slot) = some f → Does (.faultTimeout pol slot) s (fun u =>
        if s.get MMU_FQ_CFG.TIMEOUT_MS pol = 0 then u = s else u.ended y.id 0x12 (f.id % 2 ^ 48) f.done))) ∧
    (∀ (z : Desc) (r : Fin 8192) (a : Nat),
      (s.desc z.id = some z → Does (.hostReadError (some z.id) r a) s (fun u =>
        if z.active = true ∧ readsMemory z.opcode = true ∧ s.inHost z.pol a = true then u.ended z.id 0x11 (a % 2 ^ 48) (s.progress z)
        else if z.active = true ∧ walksTables z.opcode = true ∧ s.ptHbm z.pol = false then
          (if s.get MMU_FQ_CFG.EN z.pol = 1 then ∃ y, u.desc z.id = some y ∧ y.phase = .suspended ∧ y.done = s.progress z
           else u.ended z.id 0x12 0 (s.progress z))
        else u = s)) ∧
      (s.ringOwner r = none → exec (.hostReadError none r a) s = .next s) ∧
      (∀ n, s.ringOwner r = some n → s.get RNG_CTRL.ENABLED r = 1 → s.get RNG_CTRL.QUEUED r = 0 →
        let off (u : State) : Prop := u.get RNG_CTRL.ENABLED r = 0 ∧ u.get RNG_CTRL.RING_FAULT r = 1
        Does (.hostReadError none r a) s (fun u =>
          if s.fetches.any (fun f => f.ring == r.val) = false ∨ s.fetchBlocked r = true then u = s
          else if s.inHost n a = true then off u
          else if s.ptHbm n = true then u = s
          else if s.get MMU_FQ_CFG.EN n = 1 then u.fetchBlocked r = true ∧ u.get RNG_CTRL.ENABLED r = 1
          else off u)))

/-- The patrol scrubber corrects and counts one wrong symbol, and a unit that cannot be corrected becomes poisoned and is counted once;
while it is off the symbols stay wrong. A read of MMU_QUOTA_A gives the frames used and free, and latches the other half. A request of
another package is served where every byte lies in embanked pages that allow it, waits for a port that issues no request, and is denied
elsewhere; one of this package's that is not answered fails its user. -/
def Claims.MemoryIsKept : Prop :=
  ∀ (s : State) (p : Fin 4) (pol : Fin 8),
    (∀ pa bad,
      let n := max bad (SMap.get 0 s.hbmErr (pa / 64))
      Does (.hbmPatrol pa bad) s (fun u =>
      if s.part.hbmGib * 2 ^ 30 ≤ pa ∨ n = 0 then u = s
      else if s.get MMU_HBM_SCRUB.EN = 0 then u = { s with hbmErr := SMap.set 0 s.hbmErr (pa / 64) n }
      else if n = 1 then u.get MMU_HBM_ERR.CE = min MMU_HBM_ERR.CE.stop (s.get MMU_HBM_ERR.CE + 1) ∧
        KeepsBut s u .MMU_HBM_ERR 0 0 [] ∧ u = { s with regs := u.regs, hbmErr := SMap.set 0 s.hbmErr (pa / 64) 0 }
      else if s.poisoned (pa / 64) = true then u = s
      else u.poisoned (pa / 64) = true ∧
        (s.hbmErr = [] → u.get MMU_HBM_ERR.UE = min MMU_HBM_ERR.UE.stop (s.get MMU_HBM_ERR.UE + 1)))) ∧
    Does (.quotaARead p pol) s (fun u =>
      if s.openOn pol p = true then
        bitsOf u.readData.toNat MMU_QUOTA_A.USED.lo MMU_QUOTA_A.USED.w = s.usedFrames pol % 2 ^ MMU_QUOTA_A.USED.w ∧
        bitsOf u.readData.toNat MMU_QUOTA_A.FREE.lo MMU_QUOTA_A.FREE.w =
          (s.get GLB_PLD_STAT.HBM_GIB pol * 262144 - s.usedFrames pol - s.pendingPages pol) % 2 ^ MMU_QUOTA_A.FREE.w ∧
        SMap.get 0 u.quotaB pol = BitVec.ofNat 64 (s.get GLB_PLD_STAT.HBM_GIB pol * 2 ^ 32 + s.pendingPages pol % 2 ^ 32)
      else u = { s.drop p with readData := 0 }) ∧
    (∀ (a : Via) (rank tag va len : Nat) (bs : List Byte), s.gets a 1 2 rank = true →
      let t (n : Nat) := s.got a 1 2 (flitsOf (12 + n)) rank
      let r := (t 0).demand pol va len
      let may (ok : Locked → Bool) (n : Nat) : Prop := s.isOpen pol = true ∧
        ∀ i < n, ∃ l, s.lockedAt pol ((va + i) % 2 ^ 48) = some l ∧ ok l = true
      (∀ xs, may (·.rd) len → r.vread pol va len = .ok xs →
        exec (.remoteAccessRequest a rank tag pol va len none) s = .next (r.sendFree rank (BitVec.ofNat 32 tag) (0 :: xs))) ∧
      (may (·.rd) len → r.vread pol va len = .error .wait →
        exec (.remoteAccessRequest a rank tag pol va len none) s =
          .next { r with served := r.served ++ [{ rank := rank, tag := tag, pol := pol, va := va, len := len, wr := none }] }) ∧
      (¬ may (·.rd) len →
        exec (.remoteAccessRequest a rank tag pol va len none) s = .next ((t 0).sendFree rank (BitVec.ofNat 32 tag) [1])) ∧
      (∀ w, may (·.wr) bs.length → (t bs.length).vwriteAll pol va bs = .ok w →
        exec (.remoteAccessRequest a rank tag pol va len (some bs)) s = .next (w.sendFree rank (BitVec.ofNat 32 tag) [0])) ∧
      (¬ may (·.wr) bs.length →
        exec (.remoteAccessRequest a rank tag pol va len (some bs)) s =
          .next ((t bs.length).sendFree rank (BitVec.ofNat 32 tag) [1]))) ∧
    (∀ (tag : Nat) (r : Rem) (x : Desc),
      (s.remotes.find? (fun r => r.tag == tag && r.ans.isNone) = none → Does (.remoteAccessTimeout tag) s (fun u => u = s)) ∧
      (s.remotes.find? (fun r => r.tag == tag && r.ans.isNone) = some r → r.requester = 1 → r.desc = some x.id →
        s.desc x.id = some x → x.phase ≠ .ended → s.get MMU_FQ_CFG.EN x.pol = 0 →
        Does (.remoteAccessTimeout tag) s (fun u => u.ended x.id 0x12 0 x.done)))

/-! Sync objects and events (R292–R314). -/

/-- SYNC_ADD adds once to an object of its polder here, or sends the add to the package it names and waits for the answer; SYNC_WRITE
replaces the value. Without an object nothing changes. A remote add that is no repeat is applied, in schedule traffic only in the epoch
in force, and to an object its polder owns; a repeat, by its link's sequence or its trailer's, is not. The answer completes its sender, and a
denial or a time-out is a fault. -/
def Obligations.ObjectsAreAdded : Prop :=
  ∀ (s : State) (x : Desc) (k : Via),
    let v : Word := BitVec.ofNat 64 (x.field 0x20 8)
    let rank := x.field 0x1C 4 % 32768
    let here := x.field 0x1C 4 / 2 ^ 31 = 1 ∨ rank = s.rank
    let only (u : State) (o : Nat) (w : Word) : Prop := u.obj o = w ∧ ∀ i, i ≠ o → u.obj i = s.obj i
    (∀ c ∈ [(Instr.syncAdd x.id, 0x08), (.syncWrite x.id, 0x09)], s.runs x c.2 → s.objField x.pol (x.field 0x18 2) = none →
      Does c.1 s (fun u => u.ended x.id 0 0 0 ∧ u.sync = s.sync)) ∧
    (∀ o, s.objField x.pol (x.field 0x18 2) = some o →
      (s.runs x 0x08 → here → Does (.syncAdd x.id) s (fun u => u.ended x.id 0 0 0 ∧ only u o (s.obj o + v))) ∧
      (s.runs x 0x09 → Does (.syncWrite x.id) s (fun u => u.ended x.id 0 0 0 ∧ only u o v)) ∧
      (s.runs x 0x08 → ¬ here → s.adds.any (fun a => a.desc == some x.id) = false → Does (.syncAdd x.id) s (fun u =>
        u.sync = s.sync ∧
        ((s.routeLink s.rank rank).isSome = true → u.desc x.id = some { x with phase := .running } ∧
          u.adds = s.adds ++ [{ tag := s.nextAdd, pol := x.pol, obj := o, val := v, rank := rank, desc := some x.id }]) ∧
        (s.routeLink s.rank rank = none → s.get MMU_FQ_CFG.EN x.pol = 0 → u.ended x.id 0x12 0 0)))) ∧
    (∀ (sender tag : Nat) (pol : Fin 8) (o : Nat) (w : Word) (sched : Bool) (epoch : BitVec 8),
      let vc := if sched then 1 else 2
      (s.gets k 1 vc sender = true → Does (.remoteAdd k sender tag pol o w sched epoch) s (fun u =>
        if sched = true ∧ epoch ≠ BitVec.ofNat 8 (s.get GLB_STEP_STATE.EPOCH) then
          u.sync = s.sync ∧ u.get SYN_STAT.EPOCH_DROP pol = min SYN_STAT.EPOCH_DROP.stop (s.get SYN_STAT.EPOCH_DROP pol + 1)
        else if s.isOpen pol = true ∧ s.ownsObj pol o = true then
          only u o (s.obj o + w) ∧ u.get SYN_STAT.REMOTE_IN pol = min SYN_STAT.REMOTE_IN.stop (s.get SYN_STAT.REMOTE_IN pol + 1)
        else u.sync = s.sync ∧ u.get SYN_STAT.REMOTE_IN pol = s.get SYN_STAT.REMOTE_IN pol)) ∧
      (s.gets k 1 vc sender = false → Does (.remoteAdd k sender tag pol o w sched epoch) s (fun u =>
        u.sync = s.sync ∧ u.adds = s.adds ∧ ∀ i, u.reg .SYN_STAT i 0 = s.reg .SYN_STAT i 0))) ∧
    (∀ (tag : Nat) (a : RAdd), (s.adds.find? (fun a => a.tag == tag) = none → Does (.remoteAddTimeout tag) s (fun u => u = s)) ∧
      (s.adds.find? (fun a => a.tag == tag) = some a → a.desc = some x.id → a.tileOp = none → s.desc x.id = some x → x.phase ≠ .ended →
        (s.gets k 1 2 a.rank = true →
          Does (.remoteAddAck k tag false) s (fun u => u.ended x.id 0 0 0 ∧ u.adds = s.adds.filter (fun b => b.tag != tag))) ∧
        ∀ c ∈ [(Instr.remoteAddAck k tag true, s.gets k 1 2 a.rank), (.remoteAddTimeout tag, true)], c.2 = true → Does c.1 s (fun u =>
          u.adds = s.adds.filter (fun b => b.tag != a.tag) ∧
          if s.get MMU_FQ_CFG.EN x.pol = 1 then ∃ y, u.desc x.id = some y ∧ y.phase = .suspended else u.ended x.id 0x12 0 0)) ∧
      (∀ t id, s.adds.find? (fun a => a.tag == tag) = some a → a.desc = none → a.tileOp = some (t, id) → s.gets k 1 1 a.rank = true →
        Does (.remoteAddAck k tag false) s (fun u => ∀ o ∈ (u.tile t).ops, o.id ≠ id)))

/-- A source that rises becomes pending, merging into one that is already with its coalesced count, or stays latched with its detail while
its polder holds its edges, the package is idle, or a start has not opened polder 0. The end of a hold lets the latched ones in, each with
its own detail. A write of EVC_PEND replaces the word. A write of a watch or its threshold evaluates it, and a change to met raises its
source. -/
def Claims.EventsArePended : Prop :=
  ∀ (s : State) (p : Fin 4) (n : Fin 8),
    let lets (u : State) : Prop := s.get PWR_IDLE.IDLE ≠ 1 → ∀ i < 512, (s.src (512 * n + i)).latch = true →
      u.srcBit EVC_PEND.PEND (512 * n + i) = true ∧ (u.src (512 * n + i)).latch = false ∧
        ((s.srcs.map (·.1)).Nodup → (u.src (512 * n + i)).detail = (s.src (512 * n + i)).held)
    (∀ (src : Fin 4096) (d : BitVec 128), Does (.eventEdge src d) s (fun u =>
      let held := s.get EVC_CTRL.HOLD (src / 512) = 1 ∨ s.get PWR_IDLE.IDLE = 1 ∨ (src.val < 512 ∧ s.get PWR_START.PHASE < 3)
      (∀ i, i ≠ src.val → u.src i = s.src i) ∧ u = { s with regs := u.regs, srcs := u.srcs } ∧
      (held → u.src src = { s.src src with latch := true, held := d } ∧ u.regs = s.regs) ∧
      (¬ held → u.srcBit EVC_PEND.PEND src = true ∧ KeepsBut s u .EVC_PEND (src / 512) (src % 512 / 64) [] ∧
        u.src src = { s.src src with
          coalesced := if s.srcBit EVC_PEND.PEND src = true then min 65535 ((s.src src).coalesced + 1) else 0, detail := d }))) ∧
    (∀ (w : Fin 8) (v : BitVec 64), Does (.pendWrite p n w v) s (fun u =>
      if s.openOn n p = true then
        u.reg .EVC_PEND n w = v ∧ KeepsBut s u .EVC_PEND n w [] ∧ ∀ i < 64,
          u.src (512 * n + 64 * w + i) =
            if (s.reg .EVC_PEND n w).getLsbD i = v.getLsbD i then s.src (512 * n + 64 * w + i)
            else { s.src (512 * n + 64 * w + i) with coalesced := 0, detail := 0 }
      else u = s.drop p)) ∧
    (∀ on, Does (.eventHold p n on) s (fun u =>
      if s.openOn n p = false then u = s.drop p
      else if on = true then u.get EVC_CTRL.HOLD n = 1 ∧ KeepsBut s u .EVC_CTRL n 0 [] ∧ u = { s with regs := u.regs }
      else if s.get EVC_CTRL.HOLD n = 1 then u.get EVC_CTRL.HOLD n = 0 ∧ KeepsBut s u .EVC_CTRL n 0 [.EVC_PEND] ∧ lets u
      else u = s)) ∧
    Does (.holdExpired n) s (fun u =>
      if s.get EVC_CTRL.HOLD n = 1 then u.get EVC_CTRL.HOLD n = 0 ∧ u.get EVC_CTRL.HOLD_EXPIRED n = 1 ∧ lets u else u = s) ∧
    (∀ (w : Fin 128) (th : Bool) (v : BitVec 64), Does (.watchWrite p n w th v) s (fun u =>
      if s.openOn n p = false then u = s.drop p
      else (if th = true then u.reg .SYN_THRESH n w = v
            else u.get SYN_WATCH.OBJ n w = v.toNat % 2 ^ 14 ∧ u.get SYN_WATCH.EN n w = v.toNat / 2 ^ 15 % 2) ∧
        KeepsBut s u (if th then .SYN_THRESH else .SYN_WATCH) n w [.EVC_PEND] ∧
        (s.get SYN_STAT.RESTORING n = 0 →
          SMap.get false u.watchMet (n * 128 + w) = u.watchHolds n w ∧
          (SMap.get false s.watchMet (n * 128 + w) = false → u.watchHolds n w = true →
            u.srcBit EVC_PEND.PEND (512 * n + 64 + w) = true ∨ (u.src (512 * n + 64 + w)).latch = true))))

/-- The next event of a polder is the pending, unmasked, inactive source of the least priority value, lowest number first, and it is
delivered where its priority group is below the running one of an enabled target. Polders take turns. The record goes into the queue, the
source becomes active, the running priority is the event's; where the queue is full the target's SPILL grows instead. -/
def Claims.EventsAreDelivered : Prop :=
  ∀ (s : State),
    (∀ n src j, s.nextEvent n = some (src, j) → s.isOpen n = true ∧ s.get EVC_CTRL.HOLD n = 0 ∧ src ∈ s.eligibleSrcs n ∧
      (∀ y ∈ s.eligibleSrcs n, s.prio src < s.prio y ∨ (s.prio src = s.prio y ∧ src ≤ y)) ∧ s.get EVC_TGT_CFG.EN n j = 1 ∧
      s.prio src / 2 ^ s.get EVC_CTRL.SPLIT n < s.get EVC_TGT_CFG.RUNPRIO n j / 2 ^ s.get EVC_CTRL.SPLIT n) ∧
    (s.get PWR_IDLE.IDLE = 1 ∨ (∀ n < 8, s.nextEvent n = none) → Does .eventDelivery s (fun u => u = s)) ∧
    (∀ k n src j, s.get PWR_IDLE.IDLE ≠ 1 → k < 8 → n = (s.evPol + k) % 8 → (∀ i < k, s.nextEvent ((s.evPol + i) % 8) = none) →
      s.nextEvent n = some (src, j) → Does .eventDelivery s (fun u =>
        u.evPol = (n + 1) % 8 ∧ SMap.get 0 u.evTgt n = (j + 1) % 16 ∧ u.srcBit EVC_PEND.PEND src = false ∧
        if s.queueFull n j = true then
          u.get EVC_TGT_PTR.SPILL n j = min EVC_TGT_PTR.SPILL.stop (s.get EVC_TGT_PTR.SPILL n j + 1) ∧ u.host = s.host ∧
          u.srcBit EVC_ACTIVE.ACTIVE src = false
        else
          u.get EVC_TGT_PTR.TAIL n j = (s.get EVC_TGT_PTR.TAIL n j + 1) % 65536 ∧ u.get EVC_TGT_PTR.SPILL n j = 0 ∧
          u.get EVC_TGT_CFG.RUNPRIO n j = s.prio src ∧ u.srcBit EVC_ACTIVE.ACTIVE src = true ∧
          u.hostRead (s.portOf n) (s.get EVC_TGT_BASE.ADDR n j * 4096 + 32 * (s.get EVC_TGT_PTR.TAIL n j % s.queueSize n j)) 32 =
            s.eventRecord n j src))

/-- EVC_TGT_DONE in native mode completes an active source of the polder and may set the running priority; in stacked mode it pops the
top entry, and one that is not the top is a stack fault. HEAD moves no further than TAIL. MODE changes while no source is active. A target
that is disabled, by its own command or by a write of EN, completes what is active at it and is empty. -/
def Obligations.EventsComplete : Prop :=
  ∀ (s : State) (p : Fin 4) (n : Fin 8) (j : Fin 16) (v : BitVec 32) (head : BitVec 16),
    let src := v.toNat % 4096
    let x := s.tgt n j
    let top (u : State) : Prop := u.get EVC_TGT_CFG.RUNPRIO n j = ((u.tgt n j).stack.head?.map (·.1)).getD 256 % 512
    let emptied (u : State) : Prop := u.get EVC_TGT_CFG.EN n j = 0 ∧ u.get EVC_TGT_PTR.HEAD n j = 0 ∧ u.get EVC_TGT_PTR.TAIL n j = 0 ∧
      u.tgt n j = {} ∧ (∀ a ∈ x.active, a < 4096 → u.srcBit EVC_ACTIVE.ACTIVE a = false) ∧
      (s.get EVC_CTRL.MODE n = 1 → u.get EVC_TGT_CFG.RUNPRIO n j = 256)
    Does (.eventDone p n j v) s (fun u =>
      if s.openOn n p = false then u = s.drop p
      else if s.get EVC_CTRL.MODE n = 0 ∧ src / 512 = n.val ∧ s.srcBit EVC_ACTIVE.ACTIVE src = true then
        u.srcBit EVC_ACTIVE.ACTIVE src = false ∧ (∀ i < 16, src ∉ (u.tgt n i).active) ∧
        u.get EVC_TGT_CFG.RUNPRIO n j =
          (if v.toNat / 2 ^ 25 % 2 = 1 then min 256 (v.toNat / 2 ^ 16 % 512) else s.get EVC_TGT_CFG.RUNPRIO n j) ∧
        KeepsBut s u .EVC_ACTIVE n (src % 512 / 64) [.EVC_TGT_CFG]
      else u = s) ∧
    Does (.stackedEoi p n j v) s (fun u =>
      if s.openOn n p = false then u = s.drop p
      else if s.get EVC_CTRL.MODE n = 0 then u = s
      else (u.tgt n j).stack = x.stack.filter (fun e => e.2 != src) ∧
        (src ∈ x.stack.map (·.2) → u.srcBit EVC_ACTIVE.ACTIVE src = false ∧ top u) ∧
        u.get EVC_TGT_CFG.STACK_FAULTS n j =
          if x.stack.head?.map (·.2) = some src then s.get EVC_TGT_CFG.STACK_FAULTS n j
          else min EVC_TGT_CFG.STACK_FAULTS.stop (s.get EVC_TGT_CFG.STACK_FAULTS n j + 1)) ∧
    (let tail := s.get EVC_TGT_PTR.TAIL n j
     let old := s.get EVC_TGT_PTR.HEAD n j
     Does (.eventHeadWrite p n j head) s (fun u =>
      if s.openOn n p = false then u = s.drop p
      else u.get EVC_TGT_PTR.HEAD n j =
          (if (head.toNat + 65536 - old) % 65536 ≤ (tail + 65536 - old) % 65536 then head.toNat else old) ∧
        KeepsBut s u .EVC_TGT_PTR n j [] ∧
        (u.get EVC_TGT_PTR.HEAD n j = tail → u.msixOut = s.msixOut ∧ u.msix = s.msix) ∧
        (u.get EVC_TGT_PTR.HEAD n j ≠ tail → s.msixMasked (s.portOf n) (16 * n + j) = false →
          s.busMaster.getD (s.portOf n) false = true → u.msixOut = s.msixOut ++ [(s.portOf n, 16 * n.val + j.val)]))) ∧
    (∀ stacked, Does (.evcModeWrite p n stacked) s (fun u =>
      if s.openOn n p = false then u = s.drop p
      else if (List.range 8).all (fun w => s.reg .EVC_ACTIVE n w == 0) = true ∧ s.get EVC_CTRL.MODE n ≠ b2n stacked then
        u.get EVC_CTRL.MODE n = b2n stacked ∧ (stacked = true → top u) ∧ KeepsBut s u .EVC_CTRL n 0 [.EVC_TGT_CFG]
      else u = s)) ∧
    Does (.targetDisable p n j) s (fun u => if s.openOn n p = true then emptied u else u = s.drop p) ∧
    (∀ addr be w pl copy, s.target p addr = .reg .EVC_TGT_CFG n j pl copy → be.getLsbD 0 = true → w.getLsbD 0 = false →
      s.get EVC_TGT_CFG.EN n j = 1 → Does (.registerWrite p addr be w) s emptied)

/-! Power, lasers, starts, calibration, settings (R315–R347). -/

/-- A DOMAIN descriptor names a domain of the part and its sequencer does not have it yet. -/
def NamesDomain (s : State) (x : Desc) (action : Nat) : Prop :=
  s.runs x 0x28 ∧ x.action = action ∧ s.part.hasDomain x.domain = true ∧ x.arg = 0 ∧
    s.doms.any (fun p => p.2.desc.contains x.id || (p.2.queued.map (fun q => q.desc == x.id)).getD false) = false

/-- The DETAIL of SCHED_STATE: the state, and in [15:8] whether the polder of the descriptor is not the schedule's owner (R263). -/
def busyDetail (s : State) (x : Desc) : Nat :=
  s.schedSt + 256 * b2n ((s.sched.image.map (fun im => im.owner != x.pol)).getD false)

/-- DOMAIN reports, turns on where rails and tokens allow it, and turns off outside a schedule; a request toward the other state is queued
while a sequence runs. The ends of a sequence give ON and OFF; the bring-up of a switch control unit lasts until it has been reloaded and
tracks. A rail out of range, or a thermal trip, fails every domain that it feeds, the lasers off first. -/
def Claims.DomainsSwitch : Prop :=
  ∀ (s : State) (x : Desc) (d : Fin 36),
    let n := x.domain
    let st := s.get PWR_DOMAIN.STATE n
    let joins (u : State) : Prop := (u.dom n).desc = (s.dom n).desc ++ [x.id]
    let queues (u : State) (on : Bool) : Prop := (u.dom n).queued = some ⟨on, x.id⟩ ∧ u.get PWR_DOMAIN.QUEUED n = 1
    let fails (u : State) (ds : List Nat) : Prop := u.get PWR_LASER.ARMED = 0 ∧
      ∀ m ∈ ds, s.get PWR_DOMAIN.STATE m ∈ [2, 3, 4] → u.get PWR_DOMAIN.STATE m = 5
    (NamesDomain s x 0 → Does (.domainReport x.id) s (fun u =>
      u.ended x.id 0 (b2n (decide (st = 3)) + 2 * s.get PWR_DOMAIN.BUSY n) 0)) ∧
    (NamesDomain s x 1 → Does (.domainOn x.id) s (fun u =>
      if st = 2 then joins u
      else if st = 4 then queues u true
      else if st = 3 then (if (s.dom n).bringup = true then joins u else u.ended x.id 0 1 0)
      else if s.railsGood n = false then u.ended x.id 0x03 (8 + 256 * n) 0
      else if s.tokensFree < s.part.demand n then u.ended x.id 0 0 0 ∧ u.get PWR_TOKEN.SHORT = 1
      else u.get PWR_DOMAIN.STATE n = 2 ∧ u.get PWR_DOMAIN.BUSY n = 1 ∧ (u.dom n).desc = [x.id])) ∧
    (NamesDomain s x 2 → Does (.domainOff x.id) s (fun u =>
      if (n < 22 ∨ 32 ≤ n) ∧ s.schedBusy = true then u.ended x.id 0x08 (busyDetail s x) 0
      else if st = 2 then queues u false
      else if st = 4 then joins u
      else if st = 3 then u.get PWR_DOMAIN.STATE n = 4 ∧ u.get PWR_DOMAIN.BUSY n = 1 ∧ (u.dom n).desc = [x.id]
      else u.ended x.id 0 0 0)) ∧
    (let sd := s.get PWR_DOMAIN.STATE d
     let all (u : State) (on : Nat) : Prop := ∀ y, s.desc y.id = some y → y.phase ≠ .ended → y.id ∈ (s.dom d).desc →
       u.ended y.id 0 ((on + 2 * y.arg) % 2 ^ 48) 0
     (s.dom d).queued = none →
       Does (.domainOnDone d) s (fun u =>
         if sd = 2 then u.get PWR_DOMAIN.STATE d = 3 ∧ u.get PWR_DOMAIN.BUSY d = 0 ∧ (d.val ∈ [0, 1, 4, 5] → all u 1) else u = s) ∧
       Does (.domainOffDone d) s (fun u =>
         if sd = 4 then u.get PWR_DOMAIN.STATE d = 1 ∧ u.get PWR_DOMAIN.BUSY d = 0 ∧ (u.dom d).desc = [] ∧ all u 0 else u = s) ∧
       ∀ calFailed calReuse, Does (.domainBringupDone d calFailed calReuse) s (fun u =>
         if sd = 3 ∧ (s.dom d).bringup = true ∧ (d.val = 2 → s.scu.healthyA = true ∧ (s.scu.tracking = true ∨ s.scu.holder = some 0)) ∧
             (d.val = 3 → s.scu.healthyB = true ∧ (s.scu.tracking = true ∨ s.scu.holder = some 1)) then
           (u.dom d).desc = [] ∧ (u.dom d).bringup = false ∧ (d.val < 22 ∨ (24 ≤ d.val ∧ d.val < 32) → all u 1) ∧
           (∀ a, 6 ≤ d.val → d.val < 22 → 12 * (d.val - 6) ≤ a / 4194304 → a / 4194304 < 12 * (d.val - 6) + 12 → u.tstore.byte a = 0)
         else u = s)) ∧
    (∀ (r : Fin 7) (back : Bool), s.rails.length = 7 → s.mainPower = true → s.starting = false → Does (.railFault r back) s (fun u =>
      u.rails = s.rails.set r back ∧
      ((∃ m < 36, (railsOf m).contains r.val = true ∧ s.get PWR_DOMAIN.STATE m ∈ [2, 3, 4]) →
        fails u ((List.range 36).filter (fun m => (railsOf m).contains r.val))))) ∧
    Does .thermalTrip s (fun u =>
      if s.mainPower = false then u = s
      else s.starting = false → u.pins.thermTrip = true ∧ u.get PWR_START.FORCE_COLD = 1 ∧ fails u ((List.range 35).map (1 + ·)))

/-- Every 10 µs the governor lowers VDD_TILE by 5 mV while power, temperature or a die is over its limit, to no less than 650 mV, and
raises it again below 98 % of the envelope; 1 ms at the floor raises POWER_LIMIT once. An idle package stops its clock, and lets latched
edges in when it goes on. A calibration ages by the hour. -/
def Claims.PowerIsGoverned : Prop :=
  ∀ (s : State) (w tj a b : Nat) (e : Fin 2) (ok : Bool),
    let v := s.get PWR_WEIR.VNOW_MV
    let set := s.get PWR_WEIR.VSET_MV
    let env := s.get PWR_WEIR.ENVELOPE_W
    let lim := s.get PWR_WEIR.TJ_LIMIT
    let hot := env < w ∨ lim < tj ∨ (s.part = .lhn1H ∧ (164 < a ∨ 164 < b))
    let new := if hot then max (v - 5) 650 else if set < v then max (v - 5) set
      else if 100 * w < 98 * env ∧ tj + 2 < lim ∧ v < set then min (v + 5) set else v
    Does (.weirUpdate w tj a b) s (fun u =>
      u.get PWR_WEIR.VNOW_MV = new ∧ u.get PWR_WEIR.P_W = min 2047 w ∧
      u.get PWR_WEIR.AT_FLOOR = (if hot then s.get PWR_WEIR.AT_FLOOR else 0) ∧
      u.overT = (if hot ∧ new = 650 then s.overT + 1 else 0) ∧ KeepsBut s u .PWR_WEIR 0 0 []) ∧
    Does .powerLimit s (fun u =>
      if s.overT < 101 ∨ s.get PWR_WEIR.AT_FLOOR = 1 then u = s
      else u.get PWR_WEIR.AT_FLOOR = 1 ∧ (u.srcBit EVC_PEND.PEND 40 = true ∨ (u.src 40).latch = true) ∧
        KeepsBut s u .PWR_WEIR 0 0 [.EVC_PEND]) ∧
    Does .idleEnter s (fun u =>
      if s.get PWR_IDLE.DELAY_US ≠ 0 ∧ s.quiet = true then
        u.get PWR_IDLE.IDLE = 1 ∧ KeepsBut s u .PWR_IDLE 0 0 [] ∧ u = { s with regs := u.regs }
      else u = s) ∧
    Does .idleExit s (fun u =>
      if s.get PWR_IDLE.IDLE = 1 then
        u.get PWR_IDLE.IDLE = 0 ∧ KeepsBut s u .PWR_IDLE 0 0 [.EVC_PEND] ∧
        ∀ n < 8, s.get EVC_CTRL.HOLD n = 0 → ∀ i < 512, (s.src (512 * n + i)).latch = true →
          u.srcBit EVC_PEND.PEND (512 * n + i) = true ∧ (u.src (512 * n + i)).latch = false
      else u = s) ∧
    Does .calibrationAge s (fun u =>
      (∀ i < 6, u.calUnit i = if (s.calUnit i).gen = 0 then s.calUnit i else { s.calUnit i with ageH := (s.calUnit i).ageH + 1 }) ∧
      KeepsRegs s u [.CFG_CAL] ∧ u = { s with regs := u.regs, cal := u.cal }) ∧
    Does (.hzLaserOkChange e ok) s (fun u =>
      if s.part.hz = true then
        u.get HZE_STATUS.LASER_OK e = b2n (ok && decide (s.get PWR_DOMAIN.STATE (22 + e.val) = 3) && decide (s.get PWR_LASER.ARMED = 1)) ∧
        KeepsBut s u .HZE_STATUS e 0 [.EVC_PEND]
      else u = s)

/-- A channel that goes unsafe disarms the lasers at once: every fitted lane is down, and a running schedule rolls back. A disagreement of
the channels that lasts DISC_MS latches the discrepancy fault, which clears when both have cycled. LASER_REARM lights the lasers only
while the input is stable and nothing is latched. -/
def Obligations.LasersAreSafe : Prop :=
  ∀ (s : State) (p : Fin 4) (b : Bool) (v : BitVec 8) (x : Desc),
    let own := if b then PWR_LASER.B_SAFE else PWR_LASER.A_SAFE
    let other := if b then PWR_LASER.A_SAFE else PWR_LASER.B_SAFE
    let latched := s.get PWR_LASER.DISC_FAULT = 1
    let ms := max 2 (min 200 v.toNat)
    Does (.laserOff b) s (fun u =>
      if s.get own = 1 then
        u.get own = 0 ∧ u.get PWR_LASER.STABLE = 0 ∧ u.get PWR_LASER.ARMED = 0 ∧
        u.get PWR_LASER.SHUTDOWNS =
          (if s.get other = 1 then min PWR_LASER.SHUTDOWNS.stop (s.get PWR_LASER.SHUTDOWNS + 1) else s.get PWR_LASER.SHUTDOWNS) ∧
        (s.get PWR_LASER.ARMED = 1 → (∀ l < 512, s.part.hasLane l = true → u.get LSW_LANE.STATE l = 0) ∧
          (s.schedSt = 3 → u.schedSt = 4)) ∧
        (s.get PWR_LASER.ARMED = 0 → KeepsRegs s u [.PWR_LASER, .EVC_PEND])
      else u = s) ∧
    Does (.laserGlitch b) s (fun u =>
      u.get PWR_LASER.GLITCHES = min PWR_LASER.GLITCHES.stop (s.get PWR_LASER.GLITCHES + 1) ∧ KeepsBut s u .PWR_LASER 0 0 [] ∧
      u = { s with regs := u.regs }) ∧
    Does (.laserSafeReturn b) s (fun u =>
      if s.get own = 1 then u = s
      else u.get own = 1 ∧ u.get PWR_LASER.ARMED = s.get PWR_LASER.ARMED ∧ KeepsBut s u .PWR_LASER 0 0 [] ∧
        (latched → s.laserWent / 2 ^ b2n b % 2 = 1 → s.get (if b then PWR_LASER.A_CYCLED else PWR_LASER.B_CYCLED) = 1 →
          u.get PWR_LASER.DISC_FAULT = 0 ∧ u.laserWent = 0) ∧
        (latched → s.get (if b then PWR_LASER.A_CYCLED else PWR_LASER.B_CYCLED) = 0 → u.get PWR_LASER.DISC_FAULT = 1)) ∧
    Does .laserStable s (fun u =>
      if s.get PWR_LASER.A_SAFE = 1 ∧ s.get PWR_LASER.B_SAFE = 1 then u.get PWR_LASER.STABLE = 1 ∧ KeepsBut s u .PWR_LASER 0 0 [] else u = s) ∧
    Does .laserDiscrepancy s (fun u =>
      if s.get PWR_LASER.A_SAFE ≠ s.get PWR_LASER.B_SAFE ∧ ¬ latched ∧
          (∃ t, s.discSince = some t ∧ t + s.get PWR_LASER.DISC_MS * 1562500 ≤ s.clk + 78125) then
        u.get PWR_LASER.DISC_FAULT = 1 ∧ u.get PWR_LASER.A_CYCLED = 0 ∧ u.get PWR_LASER.B_CYCLED = 0 ∧
        KeepsBut s u .PWR_LASER 0 0 [.EVC_PEND]
      else u = s) ∧
    Does (.discMsWrite p v) s (fun u =>
      if s.adminPort p = false then u = s.drop p
      else if s.get FWU_STATUS.PAUSED = 1 then u = { s with heldWrites := s.heldWrites ++ [.discMs v.toNat] }
      else u.get PWR_LASER.DISC_MS = ms ∧ KeepsBut s u .PWR_LASER 0 0 [.EVC_PEND] ∧
        (∀ t, s.discSince = some t → s.get PWR_LASER.A_SAFE ≠ s.get PWR_LASER.B_SAFE → t + ms * 1562500 ≤ s.clk →
          u.get PWR_LASER.DISC_FAULT = 1)) ∧
    (s.runs x 0x2E → Does (.laserRearm x.id) s (fun u =>
      if s.get PWR_LASER.STABLE = 1 ∧ ¬ latched then
        u.ended x.id 0 0 0 ∧ u.get PWR_LASER.ARMED = 1 ∧ KeepsRegs s u [.PWR_LASER, .LSW_LANE, .GTH_ASSIGN]
      else u.ended x.id 0x03 6 0 ∧ u.get PWR_LASER.ARMED = s.get PWR_LASER.ARMED))

/-- A start begins at phase FIRMWARE with every register but those of flash, fuses, the backup domain and the laser input as after reset;
a warm one keeps the calibration. -/
def Restarted (s u : State) (warm : Bool) : Prop :=
  u.get PWR_START.PHASE = 1 ∧ u.get PWR_START.KIND = b2n warm ∧ u.get PWR_START.READY = 0 ∧ u.get PWR_START.SAFE = 0 ∧
    u.flash = s.flash ∧ u.host = s.host ∧ u.bkCount = s.bkCount ∧ u.cal = (if warm then s.cal else []) ∧
    ∀ r i j, r ∉ keptRegs → r ≠ .TIM_TB_STATUS → u.reg r i j = BitVec.ofNat 64 (resetNat s.part r i j)

/-- A start that fails counts, keeps its cause and phase, and is followed by a cold start, the third time by safe mode. -/
def StartFailed (s u : State) (cause : Nat) : Prop :=
  u.get PWR_START.FAIL_CAUSE = cause ∧ u.get PWR_START.FAILS = min 3 (s.get PWR_START.FAILS + 1) ∧
    u.get PWR_START.FAIL_PHASE = s.get PWR_START.PHASE ∧ u.get PWR_START.FORCE_COLD = 1 ∧
    if 2 ≤ s.get PWR_START.FAILS then u.get PWR_START.SAFE = 1 ∧ u.polderSt 0 = 1 else u.get PWR_START.PHASE = 1

/-- Power and resets begin a start; its phases follow in order to READY, a warm one without MEMORY_TRAIN, CAL_WAIT only where settings ask
for it, and its time counts; a phase that fails, a rail that a phase finds out of range, or the watchdog outside CAL_WAIT, fails the
start. -/
def Claims.StartsRun : Prop :=
  ∀ (s : State) (p : Fin 4) (r : PhaseResult) (cause : Fin 8) (us : Option Nat),
    let warm := !(s.bit PWR_START.FORCE_COLD || s.bit PWR_START.SAFE)
    let ph := s.get PWR_START.PHASE
    let slot := s.get FWU_STATUS.ACTIVE_SLOT
    let ok (k : Nat) : Bool := if k = 0 then r.imageOk0 else r.imageOk1
    Does .powerOn s (fun u =>
      if s.mainPower = true ∧ ph ≠ 0 then u = s
      else Restarted s u false ∧ u.mainPower = true ∧ u.rails = List.replicate 7 true) ∧
    (∀ c ∈ [(Instr.resetWarm p, 1), (.resetCold p, 2), (.resetSafe p, 3)], Does c.1 s (fun u =>
      if s.adminPort p = false then u = s.drop p
      else if s.get FWU_STATUS.PAUSED = 1 then u = { s with heldWrites := s.heldWrites ++ [.reset c.2] }
      else if c.2 = 3 then u.get PWR_START.SAFE = 1 ∧ u.polderSt 0 = 1 ∧ u.get PWR_START.READY = 0
      else Restarted s u (warm && decide (c.2 = 1)))) ∧
    Does (.resetN us) s (fun u => match us with
      | none => u = { s with pins := { s.pins with resetN := false } }
      | some n => if n < 10 ∨ s.mainPower = false then u = { s with pins := u.pins } ∧ u.pins.resetN = true else Restarted s u warm) ∧
    Does (.startPhaseDone r) s (fun u =>
      if s.starting = false then u = s
      else if s.railOut ph = true then StartFailed s u 5
      else if ph = 8 then u = s
      else (ph = 1 → ok slot = true → u.get PWR_START.PHASE = 2 ∧ u.get FWU_STATUS.ACTIVE_SLOT = slot) ∧
        (ph = 1 → ok slot = false → ok (1 - slot) = true →
          u.get PWR_START.PHASE = 2 ∧ u.get FWU_STATUS.ACTIVE_SLOT = 1 - slot ∧ u.get FWU_STATUS.PROVISIONAL = 0) ∧
        (ph = 1 → ok slot = false → ok (1 - slot) = false → StartFailed s u 7) ∧
        (ph = 2 → u.get PWR_START.PHASE = 3 ∧ u.polderSt 0 = 1 ∧
          ∀ d ∈ [1, 2, 3, 4, 5], s.part.hasDomain d = true → u.get PWR_DOMAIN.STATE d = 3) ∧
        (ph = 3 → u.get PWR_START.PHASE = if s.get PWR_START.KIND = 1 then 5 else 4) ∧
        (ph = 7 → u.get PWR_START.PHASE ∈ [8, 9] ∧ (s.setCalWait = 0 → u.get PWR_START.PHASE = 9)) ∧
        (ph ∈ [4, 5, 6, 9, 10, 11] → u.get PWR_START.PHASE = ph + 1) ∧
        (ph = 11 → u.get PWR_START.READY = 1 ∧ u.get PWR_START.FAILS = 0 ∧ u.get PWR_START.FORCE_COLD = 0)) ∧
    Does .calWaitExpired s (fun u =>
      if s.starting = true ∧ ph = 8 then
        u.get PWR_START.PHASE = 9 ∧ u.startMs = s.startMs + s.setCalWait ∧ KeepsBut s u .PWR_START 0 0 [] ∧
        u = { s with regs := u.regs, startMs := u.startMs, calFull := true }
      else u = s) ∧
    Does (.startFail cause) s (fun u => if s.starting = true ∧ cause ≠ 0 then StartFailed s u cause else u = s) ∧
    Does .startWatchdog s (fun u => if s.starting = true ∧ ph ≠ 8 then StartFailed s u 6 else u = s)

/-- CAL_RUN calibrates the units named, or every fitted one, in full, and fails those without light; CAL_RESTORE refuses a file that fails a
check, and trims the units of one that passes, or is taken by a start in CAL_WAIT; both are refused while a schedule is busy. CAL_SAVE and
SETTINGS_READ write their buffers; SETTINGS_WRITE replaces both copies where its block passes. The backup domain logs an alarm while the
main power is off. How long a start waited for its CAL_RESTORE is the model's free value, within CAL_WAIT_MS (log 238). -/
def Obligations.CalibrationAndSettings : Prop :=
  ∀ (s : State) (x : Desc),
    let v := s.taken x.id
    let at_ := x.field 0x18 8 / 64 * 64
    let mask := x.field 0x18 8 % 64
    let units := (List.range 6).filter (fun i => s.unitFitted i && (mask == 0 || mask / 2 ^ i % 2 == 1))
    let lit (i : Nat) : Bool := s.bit PWR_LASER.ARMED && s.domOn (unitDomain i)
    let done (u : State) (us : List Nat) (bad : BitVec 6) : Prop :=
      let good (i : Nat) : Bool := lit i && !bad.getLsbD i
      u.ended x.id (if us.all good = true then 0 else 0x17) (bitSet 6 (fun i => us.contains i && !good i)) 0 ∧
      ∀ i ∈ us, if good i = true then u.calUnit i = { gen := (s.calUnit i).gen + 1, ageH := 0, pass := true, fail := false }
        else (u.calUnit i).pass = false ∧ (u.calUnit i).fail = true
    let block := s.settingsBlock
    let busy (u : State) : Prop := u.ended x.id 0x08 (busyDetail s x) 0
    (s.runs x 0x29 → ∀ bad, Does (.calRun x.id bad) s (fun u => if s.schedBusy = true then busy u else done u units bad)) ∧
    (s.runs x 0x2A → x.blob = [] → x.length 0x20 < 1048576 → Does (.calSave x.id) s (fun u => u.ended x.id 0x15 1048576 0)) ∧
    (s.runs x 0x2A → ∀ w,
      let t := if x.blob = [] then (v.drawBytes 1048512).2 else v
      let content := if x.blob = [] then t.calFileBytes (v.drawBytes 1048512).1 else x.blob
      content.length ≤ x.length 0x20 → t.vwrite x.pol (at_ + x.done) (content.drop x.done) = (w, none) →
      Does (.calSave x.id) s (fun u => u.ended x.id 0 0 content.length ∧ u.hbm = w.hbm ∧ u.host = w.host)) ∧
    (s.runs x 0x2B → s.starting = true → s.calFile ≠ none → ∀ bad, exec (.calRestore x.id bad) s = .next v) ∧
    (s.runs x 0x2B → s.schedBusy = true → (s.starting = true → s.calFile = none) → ∀ bad, Does (.calRestore x.id bad) s busy) ∧
    (s.runs x 0x2B → s.schedBusy = false → (s.starting = true → s.calFile = none) → x.length 0x20 < 1048576 → ∀ bad,
      Does (.calRestore x.id bad) s (fun u => u.ended x.id 0x16 0x11 0)) ∧
    (∀ bs bad, s.runs x 0x2B → s.schedBusy = false → (s.starting = true → s.calFile = none) → 1048576 ≤ x.length 0x20 →
      (s.reading x at_ 1048576).vread x.pol at_ 1048576 = .ok bs →
      let us := (List.range 6).filter (fun i => s.unitFitted i && numAt bs 5 1 / 2 ^ i % 2 == 1)
      Does (.calRestore x.id bad) s (fun u =>
        (∀ c, s.fileCheck bs = some c → u.ended x.id 0x16 c 0 ∧ u.cal = s.cal) ∧
        (s.fileCheck bs = none → s.starting = true → s.get PWR_START.PHASE = 8 →
          u.calFile = some (bitSet 6 us.contains) ∧ u.get PWR_START.PHASE = 9 ∧ u.cal = s.cal ∧
          s.startMs ≤ u.startMs ∧ u.startMs ≤ s.startMs + s.setCalWait) ∧
        (s.fileCheck bs = none → ¬ (s.starting = true ∧ s.get PWR_START.PHASE = 8) → done u us bad))) ∧
    (s.runs x 0x2C → Does (.settingsRead x.id) s (fun u =>
      let content := if x.blob = [] then block else x.blob
      (x.length 0x20 < block.length → u.ended x.id 0x15 block.length 0) ∧
      (∀ w, block.length ≤ x.length 0x20 → v.vwrite x.pol (at_ + x.done) (content.drop x.done) = (w, none) →
        u.ended x.id 0 0 content.length ∧ u.hbm = w.hbm ∧ u.host = w.host))) ∧
    (s.runs x 0x2D → x.length 0x20 < 8192 → Does (.settingsWrite x.id) s (fun u => u.ended x.id 0x16 1 0 ∧ u.flash = s.flash)) ∧
    (∀ bs, s.runs x 0x2D → 8192 ≤ x.length 0x20 → (s.reading x at_ 8192).vread x.pol at_ 8192 = .ok bs →
      Does (.settingsWrite x.id) s (fun u =>
      (∀ c, s.blockCheck bs = some c → u.ended x.id 0x16 c 0 ∧ u.flash = s.flash) ∧
      (s.blockCheck bs = none → u.ended x.id 0 0 0 ∧ u.settings = s.settings ∧ u.flash.setA = u.flash.setB ∧
        u.flash.setA = withCrc (bs.take 8 ++ leBytes 4 ((s.lastGen + 1) % 4294967296) ++ bs.drop 0xC)))) ∧
    (∀ cause : Fin 5, Does (.backupAlarm cause) s (fun u =>
      let n := s.get PWR_BK_STAT.ENTRIES
      if cause = 0 ∨ (cause = 1 ∧ s.alarmDue = false) then u = s
      else (cause = 2 → u.get PWR_BK_STAT.VBAT_LOW = 1) ∧ (3 ≤ cause.val → u.get PWR_BK_STAT.TEMP_BAD = 1) ∧
        (s.mainPower = true → u.srcBit EVC_PEND.PEND 46 = true ∨ (u.src 46).latch = true) ∧
        (s.mainPower = false → u.pins.wake = true ∧
          if n < 64 then u.get PWR_BK_STAT.ENTRIES = n + 1 ∧ u.get PWR_BK_LOG.SEC n = s.bkCount / 32768 % 2 ^ 48 ∧
            u.get PWR_BK_LOG.CAUSE n = cause
          else u.get PWR_BK_STAT.LOST = min PWR_BK_STAT.LOST.stop (s.get PWR_BK_STAT.LOST + 1)))) ∧
    (∀ p : Fin 4, Does (.bkLogClr p) s (fun u =>
      if s.adminPort p = false then u = s.drop p
      else if s.get FWU_STATUS.PAUSED = 1 then u = { s with heldWrites := s.heldWrites ++ [.logClr] }
      else u.get PWR_BK_STAT.ENTRIES = 0 ∧ u.get PWR_BK_STAT.LOST = 0 ∧ (∀ n < 64, u.reg .PWR_BK_LOG n 0 = 0) ∧
        KeepsRegs s u [.PWR_BK_STAT, .PWR_BK_LOG]))

/-! Firmware update, counters, dumps, test multiplexers (R348–R370). -/

/-- FW_CHUNK checks before it reads: no transfer while an image is provisional, none but the header's chunk without one, none beyond its
count; the header's chunk opens a transfer after its checks; a chunk is written, and its bit stands only where its check word matches.
FW_ACTIVATE, FW_REVERT and FW_COMMIT refuse with their code, or select the slot and pause, or raise MIN_SV; the pause ends with the new
image running. -/
def Obligations.FirmwareUpdates : Prop :=
  ∀ (s : State) (x : Desc),
    let refuses (u : State) (c : Nat) : Prop := u.ended x.id 0x16 (c % 2 ^ 48) 0 ∧ u.get FWU_STATUS.LAST_CODE = c % 256
    let i := min 767 (x.field 0x20 2)
    let k := 1 - s.get FWU_STATUS.ACTIVE_SLOT
    let prov := s.get FWU_STATUS.PROVISIONAL = 1
    let paused := s.get FWU_STATUS.PAUSED = 1
    let slot (u : State) (j : Nat) : Nat := u.get (if j = 0 then FWU_STATUS.SLOT0 else FWU_STATUS.SLOT1)
    let selects (u : State) (p : Nat) : Prop := u.get FWU_STATUS.ACTIVE_SLOT = k ∧ u.get FWU_STATUS.PROVISIONAL = p ∧ slot u k = 3 ∧
      slot u (1 - k) = 4 ∧ u.get FWU_STATUS.PAUSED = 1 ∧ u.desc x.id = some { x with phase := .running }
    (s.runs x 0x30 →
      (prov → Does (.fwChunk x.id) s (fun u => refuses u 0x2B)) ∧
      (¬ prov → i ≠ 0 → s.get FWU_XFER.OPEN = 0 → Does (.fwChunk x.id) s (fun u => refuses u 0x21)) ∧
      (¬ prov → i ≠ 0 → s.get FWU_XFER.OPEN = 1 → s.get FWU_XFER.CHUNKS ≤ i → Does (.fwChunk x.id) s (fun u => refuses u 0x26)) ∧
      (∀ bs, ¬ prov → (s.reading x (x.field 0x18 8 / 64 * 64) 65536).vread x.pol (x.field 0x18 8 / 64 * 64) 65536 = .ok bs →
        bs.length = 65536 →
        (i ≠ 0 → s.get FWU_XFER.OPEN = 1 → i < s.get FWU_XFER.CHUNKS → Does (.fwChunk x.id) s (fun u =>
          u.flash.slots.read (k * 50331648 + 65536 * i) 65536 = bs ∧
          if crc32c (chunkBody (s.slotNum k 0x8 4) i bs) = s.slotNum k (0x200 + 4 * i) 4 then
            u.ended x.id 0 0 0 ∧ u.chunkSet i = true ∧ slot u k = (if u.allChunks = true then 2 else 1)
          else refuses u 0x27 ∧ u.chunkSet i = false ∧ slot u k = 1)) ∧
        (i = 0 → Does (.fwChunk x.id) s (fun u =>
          (∀ c, s.headerCheck (bs.take 4096) = some c → refuses u c ∧ u.flash = s.flash) ∧
          (s.headerCheck (bs.take 4096) = none → s.keyOk (bs.take 4096) = false → refuses u 0x25 ∧ u.flash = s.flash) ∧
          (s.headerCheck (bs.take 4096) = none → s.keyOk (bs.take 4096) = true →
            u.flash.slots.read (k * 50331648) 65536 = bs ∧ u.get FWU_XFER.OPEN = 1 ∧ u.flash.digest = (bs.drop 0x20).take 48 ∧
            (¬ (s.get FWU_XFER.OPEN = 1 ∧ s.flash.digest = u.flash.digest) →
              u.get FWU_XFER.CHUNKS = numAt bs 0x14 2 ∧ ∀ j < 768, j ≠ 0 → u.chunkSet j = false) ∧
            (crc32c (chunkBody (numAt bs 0x8 4) 0 bs) = numAt bs 0x200 4 → u.ended x.id 0 0 0 ∧ u.chunkSet 0 = true) ∧
            (crc32c (chunkBody (numAt bs 0x8 4) 0 bs) ≠ numAt bs 0x200 4 → refuses u 0x27 ∧ u.chunkSet 0 = false)))))) ∧
    (s.runs x 0x31 → Does (.fwActivate x.id) s (fun u =>
      if paused then u = s.taken x.id
      else if prov then refuses u 0x2B
      else if s.recabling = true then refuses u 0x2E
      else if s.allChunks = false then refuses u 0x28
      else (∀ c, s.slotCheck k = some c → refuses u c ∧ slot u k = 5 ∧ u.get FWU_STATUS.ACTIVE_SLOT = s.get FWU_STATUS.ACTIVE_SLOT) ∧
        (s.slotCheck k = none → selects u 1 ∧ u.get FWU_XFER.OPEN = 0 ∧ ∀ j < 768, u.chunkSet j = false))) ∧
    (s.runs x 0x33 → Does (.fwRevert x.id) s (fun u =>
      if paused then u = s.taken x.id else if prov then selects u 0 else refuses u 0x2B)) ∧
    (s.runs x 0x32 → Does (.fwCommit x.id) s (fun u =>
      let sv := s.get FWU_STATUS.RUN_SV
      let used := s.get FWU_FUSE.USED
      let low := sv ≤ s.get FWU_FUSE.MIN_SV
      if ¬ prov then refuses u 0x2B
      else if s.get CFG_SETTINGS.DEFAULTED = 1 ∧ s.get CFG_SETTINGS.CAUSE = 2 then refuses u 0x2C
      else if ¬ low ∧ used = 255 then refuses u 0x2D
      else u.ended x.id 0 0 0 ∧ u.get FWU_STATUS.PROVISIONAL = 0 ∧ u.get FWU_FUSE.MIN_SV = max sv (s.get FWU_FUSE.MIN_SV) ∧
        u.get FWU_FUSE.USED = if low then used else used + 1)) ∧
    (s.heldWrites = [] → Does .pauseEnd s (fun u =>
      if paused then
        u.get FWU_STATUS.PAUSED = 0 ∧ u.get FWU_STATUS.ROM_LOADER = 0 ∧
        u.get FWU_STATUS.RUN_SV = s.slotSv (s.get FWU_STATUS.ACTIVE_SLOT) % 2 ^ 32 ∧
        (s.desc x.id = some x → x.phase = .running → x.opcode = 0x31 ∨ x.opcode = 0x33 → u.ended x.id 0 0 0)
      else u = s))

/-- A counter grows by the occurrences of its event at a tile that its keys match, wraps modulo 2^48 and counts its wraps; a write of its
configuration restarts it. A snapshot captures once and restarts REPROG; a dump is counted and written with the locked phases that it found,
and asks for a reset where there are any; which grants are held at that instant is the model's free value (log 27). The two keys in order make
the test pins live, a lock or nothing else does not. -/
def Claims.CountersAndDumps : Prop :=
  ∀ (s : State) (x : Desc) (p : Fin 4) (c : Fin 1024),
    (∀ (t : Fin 192) (e : Fin 8) (n : Nat), Does (.counterIncrement t e n) s (fun u =>
      (∀ c < 1024, u.ctr c = if s.counts c t e = true then
          { s.ctr c with value := ((s.ctr c).value + n) % 2 ^ 48, ovf := min 255 ((s.ctr c).ovf + ((s.ctr c).value + n) / 2 ^ 48) }
        else s.ctr c) ∧
      (u.wrapped = (s.wrapped || (List.range 1024).any (fun c => s.counts c t e && decide (2 ^ 48 ≤ (s.ctr c).value + n)))) ∧
      KeepsRegs s u [.EVC_PEND])) ∧
    (∀ v : BitVec 64, Does (.counterCfgWrite p c v) s (fun u =>
      let w := v.toNat
      if s.adminPort p = false then u = s.drop p
      else u.ctr c = { reprog := true } ∧ (∀ i, i ≠ c.val → u.ctr i = s.ctr i) ∧ KeepsBut s u .DBG_CNT_CFG c 0 [] ∧
        u.get DBG_CNT_CFG.TILE c = (if 192 ≤ w % 256 then 255 else w % 256) ∧ u.get DBG_CNT_CFG.EN c = w / 2 ^ 8 % 2 ∧
        u.get DBG_CNT_CFG.EVENT c = (if 7 < w / 2 ^ 9 % 16 then 0 else w / 2 ^ 9 % 16) ∧ u.get DBG_CNT_CFG.OWNER c = w / 2 ^ 13 % 8 ∧
        u.get DBG_CNT_CFG.STEP c = w / 2 ^ 16 % 65536 ∧ u.get DBG_CNT_CFG.ANY_STEP c = w / 2 ^ 32 % 2 ∧
        u.get DBG_CNT_CFG.PC_LO c = w / 2 ^ 33 % 32768 ∧ u.get DBG_CNT_CFG.PC_HI c = max (w / 2 ^ 33 % 32768) (w / 2 ^ 48 % 32768))) ∧
    (let v := s.taken x.id
     let paused := s.get FWU_STATUS.PAUSED = 1
     let at_ := x.field 0x18 8 / 64 * 64
     let size := 64 + 16 * (s.ctrsOf x.pol).length
     (s.runs x 0x39 → Does (.counterSnapshot x.id) s (fun u =>
       (paused → u = v) ∧
       (¬ paused → x.length 0x20 < size → u.ended x.id 0x15 size 0 ∧ u.ctrs = s.ctrs) ∧
       (∀ w, ¬ paused → x.blob = [] → size ≤ x.length 0x20 →
         v.vwrite x.pol (at_ + x.done) ((v.snapshot x.pol).drop x.done) = (w, none) →
         u.ended x.id 0 0 size ∧ u.hbm = w.hbm ∧ u.host = w.host ∧ u.wrapped = false ∧
         ∀ c ∈ s.ctrsOf x.pol, u.ctr c = { s.ctr c with reprog := false }))) ∧
     (s.runs x 0x38 → Does (.dump x.id) s (fun u =>
       (paused → u = v) ∧
       (¬ paused → x.length 0x20 < 4202496 → u.ended x.id 0x15 4202496 0) ∧
       (let held := v.heldGrants
        ∀ w, ¬ paused → x.blob = [] → 4202496 ≤ x.length 0x20 →
         held.2.vwrite x.pol (at_ + x.done) ((held.2.dumpBytes held.1).drop x.done) = (w, none) →
         u.ended x.id 0 0 4202496 ∧ u.hbm = w.hbm ∧ u.host = w.host ∧
         u.get DBG_DUMP.DUMPS = min DBG_DUMP.DUMPS.stop (s.get DBG_DUMP.DUMPS + 1) ∧
         u.get DBG_DUMP.LOCKED = held.1.length % 2 ^ DBG_DUMP.LOCKED.w ∧
         (held.1 ≠ [] → u.get DBG_DUMP.RESET_REQ = 1 ∧ (u.srcBit EVC_PEND.PEND 57 = true ∨ (u.src 57).latch = true)))))) ∧
    (∀ v : BitVec 16, Does (.tmuxKey p v) s (fun u =>
      if s.adminPort p = false then u = s.drop p
      else if v = 0xC3A5 ∧ s.tmuxStep = 1 then u.tmuxStep = 0 ∧ u.get DBG_TMUX_CTRL.UNLOCKED = 1 ∧ KeepsBut s u .DBG_TMUX_CTRL 0 0 [.EVC_PEND]
      else u = { s with tmuxStep := if v = 0x7A3C then 1 else 0 })) ∧
    Does .tmuxKeyTimeout s (fun u => u = { s with tmuxStep := 0 }) ∧
    Does (.tmuxLock p) s (fun u =>
      if s.adminPort p = false then u = s.drop p
      else u.get DBG_TMUX_CTRL.UNLOCKED = 0 ∧ KeepsBut s u .DBG_TMUX_CTRL 0 0 [.EVC_PEND] ∧ u.tmuxStep = s.tmuxStep)

/-! Pins and power loss (R371–R391). -/

/-- The board controller reads what the last refresh left, and writes nothing. The test port takes its instructions; those that drive or
float pins only while RESET_N is low. -/
def Claims.PinsAnswer : Prop :=
  ∀ (s : State) (code : BitVec 8) (ts : List (BitVec 8)),
    Does (.smbusShadowRefresh ts) s (fun u =>
      u = { s with pins := { s.pins with smbShadow := if s.mainPower = true then s.smbFresh ts else s.pins.smbShadow } }) ∧
    Does (.smbusRead code) s (fun u =>
      u = { s with pins := { s.pins with smbOut := if s.mainPower = false then s.pins.smbOut
        else (if s.pins.smbShadow = [] then s.smbFresh [] else s.pins.smbShadow).getD code.toNat [] } }) ∧
    Does (.smbusWrite code) s (fun u => u = s) ∧
    (∀ c ∈ [(Instr.extest, 0x00), (.clamp, 0x04), (.highz, 0x05)], Does c.1 s (fun u =>
      u = { s with pins := { s.pins with ir := if s.pins.resetN = true then 0xFF else BitVec.ofNat 8 c.2 } })) ∧
    (∀ c ∈ [(Instr.idcode, 0x01), (.bypass, 0xFF)], Does c.1 s (fun u =>
      u = { s with pins := { s.pins with ir := BitVec.ofNat 8 c.2 } } ∧
      (c.2 = 0x01 → u.dataReg = (32, s.idReg.toNat)) ∧ (c.2 = 0xFF → u.dataReg = (1, 0)))) ∧
    (∀ v, Does (.samplePreload (some v)) s (fun u =>
      u = { s with pins := { s.pins with ir := 0x02, boundary := v } } ∧ u.dataReg = (56, v.toNat))) ∧
    Does (.samplePreload none) s (fun u => u = { s with pins := { s.pins with ir := 0x02, boundary := u.pins.boundary }, free := u.free })

/-- Without main power only flash, fuses and the backup domain keep what they hold, and the backup domain only while its cell has power.
A loss of backup power zeroes the backup domain, its log, and the memory of failed starts. -/
def Claims.PowerIsLost : Prop :=
  ∀ (s : State),
    let cleared (u : State) : Prop := u.bkCount = 0 ∧ u.bkKept = false ∧ u.get PWR_START.FAILS = 0 ∧ u.get PWR_START.FORCE_COLD = 0 ∧
      u.get PWR_BK_STAT.ENTRIES = 0 ∧ u.get PWR_BK_ALARM.EN = 0
    Does .mainPowerLoss s (fun u =>
      if s.mainPower = false then u = s
      else u.mainPower = false ∧ u.flash = s.flash ∧ u.host = s.host ∧ u.hbm = [] ∧ u.tstore = [] ∧ u.descs = [] ∧ u.pins = {} ∧
        u.get PWR_START.PHASE = 0 ∧ u.get PWR_START.READY = 0 ∧
        (∀ j, u.reg .FWU_FUSE 0 j = s.reg .FWU_FUSE 0 j) ∧
        (∀ r i j, r ∉ [.FWU_STATUS, .FWU_XFER, .FWU_FUSE, .FWU_BITMAP, .PWR_BK_STAT, .PWR_BK_ALARM, .PWR_BK_LOG, .PWR_START] →
          u.reg r i j = BitVec.ofNat 64 (resetNat s.part r i j)) ∧
        (s.vbat = true → u.bkCount = s.bkCount ∧ u.get PWR_START.FAILS = s.get PWR_START.FAILS ∧
          u.get PWR_BK_STAT.ENTRIES = s.get PWR_BK_STAT.ENTRIES ∧ u.get PWR_BK_ALARM.EN = s.get PWR_BK_ALARM.EN) ∧
        (s.vbat = false → cleared u)) ∧
    Does .backupPowerLoss s (fun u =>
      u.vbat = false ∧ cleared u ∧ KeepsRegs s u [.PWR_START, .PWR_BK_LOG, .PWR_BK_STAT, .PWR_BK_ALARM] ∧
      u = { s with regs := u.regs, vbat := u.vbat, bkCount := u.bkCount, bkFrac := u.bkFrac, bkKept := u.bkKept })

/-! Reset and invariant. -/

/-- After reset every register reads the reset column of its table; no start has begun, only D00 runs, every polder is CLOSED, every sync
object is zero, nothing is in any queue. -/
def Obligations.ResetLeaves : Prop :=
  (∀ r i j, State.reset.reg r i j = BitVec.ofNat 64 (resetNat State.reset.part r i j)) ∧
  (∀ r : RegName, r ∉ [.SCU_RAMP, .SCU_LOOP_CTRL, .SCU_LOOP_COEF, .RNG_PLD_CFG, .GLB_ID, .GLB_CAP_UNIT, .GLB_CAP_DOMAIN, .GLB_CAP_SIZE,
      .GLB_CAP_LOOP, .PWR_WEIR, .PWR_IDLE, .FWU_STATUS, .PWR_LASER, .PWR_DOMAIN] →
    ∀ i j, State.reset.reg r i j = BitVec.ofNat 64 (r.fields.map (fun f => f.rst * 2 ^ f.lo)).sum) ∧
  State.reset.get PWR_START.PHASE = 0 ∧ State.reset.get PWR_DOMAIN.STATE 0 = 3 ∧
  (∀ d < 36, d ≠ 0 → State.reset.get PWR_DOMAIN.STATE d ≠ 3) ∧ (∀ n < 8, State.reset.polderSt n = 0) ∧
  (∀ o, State.reset.obj o = 0) ∧ State.reset.pending = [] ∧ State.reset.descs = [] ∧ State.reset.schedSt = 0 ∧
  (∀ t, State.reset.tile t = {}) ∧ Memory.wf State.reset = true

/-- Every step keeps the canonical form of the memories: HBM, tile store and host memory list no byte twice, none out of order, and
none equal to what an unlisted byte reads as. -/
def Obligations.StepsKeepMemoryForm : Prop :=
  ∀ (s t : State), Memory.wf s = true → step s = .next t → Memory.wf t = true

/-! Statements over several groups of commands. -/

/-- Special registers are read and written, and branches go, as the scalar chapter states. -/
def Obligations.SpecialRegistersAndFlow : Prop := Claims.SpecialRegisters ∧ Claims.ControlFlow

/-- LD64, LD32, ST64 and ST32 move the aligned word; beyond the store they are ADDR_RANGE. -/
def Obligations.ScalarMemoryAccess : Prop := Claims.ScalarMemory ∧ Claims.AddressRangeFaults

/-- Lane operations write v[D] lane by lane, and flags grow by what they record. -/
def Obligations.LaneArithmetic : Prop := Claims.LaneResults ∧ Claims.AbsResults

/-- Reductions use the pairwise tree; the six functions write v[D] lane by lane. -/
def Obligations.ReductionsAndFunctions : Prop := Claims.ReductionResults ∧ Claims.FunctionResults

/-- Conversions into registers, into tile store and of MX rows. -/
def Obligations.Conversions : Prop := Claims.RegisterConversions ∧ Claims.StoreConversions ∧ Claims.RowConversions

/-- Vector loads and stores, consecutive and strided; every other byte reads as before. -/
def Obligations.VectorMemory : Prop := Claims.VectorLoads ∧ Claims.VectorStores

/-- Fences, asynchronous issues and claims of Hjelzo engines. -/
def Obligations.OperationsBegin : Prop := Claims.FencesWait ∧ Claims.OperationsIssue ∧ Claims.HjelzoClaims

/-- LRECV, SWAIT and HZFBR wait or go on; STEP.END and STEP.RETIRE report the tile done. -/
def Obligations.WaitsAndStepEnd : Prop := Claims.ReceiveAndWait ∧ Claims.FlaggedBlockReport ∧ Claims.StepEnds

/-- Fault latch, freeboard registers and the tile-store scrubber. -/
def Obligations.ClusterRegisters : Prop := Claims.FabricRegisters ∧ Claims.ScrubberPasses

/-- Supply faults stop the tiles of a cluster; the later join measures the freeboard of a step. -/
def Obligations.SupplyAndMeasures : Prop := Claims.SupplyFaults ∧ Claims.StepIsMeasured

/-- SCHED_START, SCHED_RESUME and SCHED_PREEMPT accept or end with their status. -/
def Obligations.SchedulesStartAndPreempt : Prop := Claims.SchedulesStart ∧ Claims.PreemptionIsNamed

/-- Holds at the decision point, the resume, and the course of a rollback. -/
def Obligations.HoldsAndRollback : Prop := Claims.HoldsAndResumes ∧ Claims.RollbackGoesOn

/-- Batches begin from a queue or a descriptor and end with their done object. -/
def Obligations.GatherRuns : Prop := Claims.GatherBegins ∧ Claims.GatherEnds

/-- Rows come from cache, memory or their owner; owners serve requests and contributions. -/
def Obligations.RowsTravel : Prop := Claims.RowsAreFetched ∧ Claims.OwnersServe

/-- Claims of an engine are granted in rotating order; audits and the degraded event. -/
def Obligations.HjelzoTurns : Prop := Claims.HjelzoGrants ∧ Claims.HjelzoAudit

/-- Lane plans are checked in order; a re-cable begins and commits. -/
def Obligations.LanePlansAndRecables : Prop := Claims.LanePlansAreChecked ∧ Claims.RecablesCommit

/-- Links train and come up; single lanes go down, come up, are lost and retrain. -/
def Obligations.LinksAndLanes : Prop := Claims.LinksTrain ∧ Claims.LanesGoAndCome

/-- Open-fibre protection takes lanes down and back; link states and the machine shape. -/
def Obligations.FibreAndShape : Prop := Claims.OpenFibre ∧ Claims.MachineShape

/-- Acknowledgements, credits, NAK, RESYNC, time-outs, imbalance and retraining. -/
def Obligations.LinkCare : Prop := Claims.LinkBooks ∧ Claims.LinksRecover

/-- Modes, restarts and coefficients of a loop, and one sample of the switch control. -/
def Obligations.LoopsAreDriven : Prop := Claims.LoopModes ∧ Claims.SamplesDrive

/-- Loops fail, park and return; units give up, claim, track and fail over. -/
def Obligations.LoopsFailOver : Prop := Claims.LoopsFail ∧ Claims.UnitsTakeOver

/-- Time bases are set, follow their source through the servo, and hold over. -/
def Obligations.TimeIsKept : Prop := Claims.TimeIsSet ∧ Claims.TimeIsFollowed

/-- PPS in and out, compare units, and loss and return of REFCLK. -/
def Obligations.PulsesAndReference : Prop := Claims.PulsesAndCompares ∧ Claims.ReferenceClock

/-- MAP, UNMAP, EMBANK and RELEASE of pages. -/
def Obligations.PagesAreManaged : Prop := Claims.PagesAreMapped ∧ Claims.PagesAreEmbanked

/-- Fault replies and time-outs, HBM scrubbing, quota reads and remote accesses. -/
def Obligations.FaultsAndMemoryCare : Prop := Claims.FaultsAreAnswered ∧ Claims.MemoryIsKept

/-- Events become pending, and are delivered in priority order into queues. -/
def Obligations.EventsRise : Prop := Claims.EventsArePended ∧ Claims.EventsAreDelivered

/-- The weir of R321, domains and their tokens, idle, and calibration age. -/
def Obligations.DomainsAndGovernor : Prop := Claims.DomainsSwitch ∧ Claims.PowerIsGoverned

/-- Starts run their phases or fail; what survives loss of power. -/
def Obligations.StartsAndPowerLoss : Prop := Claims.StartsRun ∧ Claims.PowerIsLost

/-- Counters, snapshots, dumps, test multiplexers, the board port and the test port. -/
def Obligations.ServicePorts : Prop := Claims.CountersAndDumps ∧ Claims.PinsAnswer
end

