-- ==== Sys2Proof/Laws/Sparse.lean ====
section
/-! SUPPORT. Sparse data by key: a read after a write, the writes that leave a key alone, and the canonical form that every
operation keeps. -/

namespace Sys2Proof.Machine

namespace SMap

variable {α : Type}

theorem get_of_absent (d : α) (m : SMap α) (k : Nat) (h : ∀ p ∈ m, p.1 ≠ k) : get d m k = d := by
  induction m with
  | nil => rfl
  | cons p m ih =>
    obtain ⟨k', y⟩ := p
    have h1 : k' ≠ k := h (k', y) (by simp)
    simp only [get, h1, if_false]
    exact ih (fun q hq => h q (by simp [hq]))

theorem get_filter (d : α) (m : SMap α) (k : Nat) (q : Nat → Bool) :
    get d (m.filter (fun p => q p.1)) k = if q k then get d m k else d := by
  induction m with
  | nil => simp [get]
  | cons p m ih =>
    obtain ⟨k', y⟩ := p
    by_cases hq : q k' = true
    · simp only [List.filter_cons, hq, if_true, get]
      by_cases hk : k' = k
      · subst hk; simp [hq]
      · simp [hk, ih]
    · simp only [List.filter_cons, hq, get]
      by_cases hk : k' = k
      · subst hk; simp [hq, ih]
      · simp [hk, ih]

theorem get_ins (d : α) (m : SMap α) (k k' : Nat) (x : α) (h : ∀ p ∈ m, p.1 ≠ k) :
    get d (ins k x m) k' = if k' = k then x else get d m k' := by
  induction m with
  | nil =>
    by_cases hk : k' = k
    · simp [ins, get, hk]
    · have : k ≠ k' := fun e => hk e.symm
      simp [ins, get, hk, this]
  | cons p m ih =>
    obtain ⟨j, y⟩ := p
    have hj : j ≠ k := h (j, y) (by simp)
    have ih := ih (fun q hq => h q (by simp [hq]))
    by_cases hlt : j < k
    · simp only [ins, hlt, if_true, get, ih]
      by_cases hk : k' = k
      · subst hk; simp [hj]
      · simp [hk]
    · simp only [ins, hlt, if_false, get]
      by_cases hk : k' = k
      · subst hk; simp
      · have : k ≠ k' := fun e => hk e.symm
        simp [this, hk]

/-- A read after a write. -/
theorem get_set [DecidableEq α] (d : α) (m : SMap α) (k k' : Nat) (x : α) :
    get d (set d m k x) k' = if k' = k then x else get d m k' := by
  have hne : ∀ p ∈ List.filter (fun p => decide (p.1 ≠ k)) m, p.1 ≠ k := by
    intro p hp; simpa using (List.mem_filter.mp hp).2
  have hf := get_filter d m k' (fun j => decide (j ≠ k))
  by_cases hx : x = d
  · subst hx
    simp only [set, if_true]
    rw [hf]
    by_cases hk : k' = k <;> simp [hk]
  · simp only [set, hx, if_false]
    rw [get_ins d _ k k' x hne, hf]
    by_cases hk : k' = k <;> simp [hk]

@[simp] theorem get_set_self [DecidableEq α] (d : α) (m : SMap α) (k : Nat) (x : α) : get d (set d m k x) k = x := by
  simp [get_set]

/-- A write leaves the other keys alone, whatever an unlisted key reads as. -/
theorem get_set_other [DecidableEq α] (d e : α) (m : SMap α) (k k' : Nat) (x : α) (h : k' ≠ k) :
    get e (set d m k x) k' = get e m k' := by
  have hne : ∀ p ∈ List.filter (fun p => decide (p.1 ≠ k)) m, p.1 ≠ k := by
    intro p hp; simpa using (List.mem_filter.mp hp).2
  have hf := get_filter e m k' (fun j => decide (j ≠ k))
  simp only [h, ne_eq, not_false_eq_true, decide_true, if_true] at hf
  by_cases hx : x = d
  · simp only [set, hx, if_true]; exact hf
  · simp only [set, hx, if_false]
    rw [get_ins e _ k k' x hne, if_neg h]; exact hf

theorem get_set_ne [DecidableEq α] (d : α) (m : SMap α) (k k' : Nat) (x : α) (h : k' ≠ k) :
    get d (set d m k x) k' = get d m k' := by simp [get_set, h]

@[simp] theorem get_nil (d : α) (k : Nat) : get d ([] : SMap α) k = d := rfl

theorem get_append (d : α) (m n : SMap α) (k : Nat) :
    get d (m ++ n) k = if m.any (fun p => p.1 == k) then get d m k else get d n k := by
  induction m with
  | nil => simp
  | cons p m ih =>
    obtain ⟨j, y⟩ := p
    by_cases hj : j = k
    · simp [get, hj]
    · have hb : (j == k) = false := by simpa using hj
      simp only [List.cons_append, get, hj, if_false, ih, List.any_cons]
      rw [hb, Bool.false_or]

theorem get_ofList [DecidableEq α] (d : α) (xs : List α) (k j : Nat) :
    get d (ofList d k xs) j = if k ≤ j then xs.getD (j - k) d else d := by
  induction xs generalizing k with
  | nil => simp [ofList]
  | cons x xs ih =>
    by_cases hx : x = d
    · subst hx
      simp only [ofList, if_true, ih]
      by_cases h1 : k + 1 ≤ j
      · have h2 : k ≤ j := by omega
        have h3 : j - k = (j - (k + 1)) + 1 := by omega
        simp [h1, h2, h3]
      · by_cases h2 : k ≤ j
        · have h3 : j - k = 0 := by omega
          simp [h1, h2, h3]
        · simp [h1, h2]
    · simp only [ofList, hx, if_false, get, ih]
      by_cases h0 : k = j
      · simp [h0]
      · by_cases h1 : k + 1 ≤ j
        · have h2 : k ≤ j := by omega
          have h3 : j - k = (j - (k + 1)) + 1 := by omega
          simp [h0, h1, h2, h3]
        · have h2 : ¬ k ≤ j := by omega
          simp [h0, h1, h2]

theorem ofList_keys [DecidableEq α] (d : α) (xs : List α) (k : Nat) :
    ∀ p ∈ ofList d k xs, k ≤ p.1 ∧ p.1 < k + xs.length ∧ p.2 ≠ d := by
  induction xs generalizing k with
  | nil => simp [ofList]
  | cons x xs ih =>
    intro p hp
    by_cases hx : x = d
    · simp only [ofList, hx, if_true] at hp
      have h := ih (k + 1) p hp
      exact ⟨by omega, by simp only [List.length_cons]; omega, h.2.2⟩
    · simp only [ofList, hx, if_false, List.mem_cons] at hp
      rcases hp with rfl | hp
      · simp [hx]
      · have h := ih (k + 1) p hp
        exact ⟨by omega, by simp only [List.length_cons]; omega, h.2.2⟩

/-- A read after a block write. -/
theorem get_setList [DecidableEq α] (d : α) (m : SMap α) (k : Nat) (xs : List α) (j : Nat) :
    get d (setList d m k xs) j = if k ≤ j ∧ j < k + xs.length then xs.getD (j - k) d else get d m j := by
  have f1 := get_filter d m j (fun i => decide (i < k))
  have f3 := get_filter d m j (fun i => decide (k + xs.length ≤ i))
  have f2 := get_ofList d xs k j
  unfold setList
  rw [List.append_assoc, get_append, get_append]
  by_cases a1 : (List.filter (fun p => decide (p.1 < k)) m).any (fun p => p.1 == j) = true
  · obtain ⟨p, hp, he⟩ := List.any_eq_true.mp a1
    have hk := (List.mem_filter.mp hp).2
    simp only [beq_iff_eq] at he
    simp only [decide_eq_true_eq, he] at hk
    have hn : ¬ (k ≤ j ∧ j < k + xs.length) := by omega
    simp only [a1, if_true, hn, if_false]
    rw [f1]; simp [hk]
  · simp only [a1]
    by_cases a2 : (ofList d k xs).any (fun p => p.1 == j) = true
    · obtain ⟨p, hp, he⟩ := List.any_eq_true.mp a2
      have hk := ofList_keys d xs k p hp
      simp only [beq_iff_eq] at he
      rw [he] at hk
      have hin : k ≤ j ∧ j < k + xs.length := ⟨hk.1, hk.2.1⟩
      simp only [a2, if_true, hin, and_self]
      rw [f2]; simp [hin.1]
    · simp only [a2]
      by_cases hin : k ≤ j ∧ j < k + xs.length
      · have hd : get d (ofList d k xs) j = d := get_of_absent _ _ _ (by
          intro p hp he
          exact a2 (List.any_eq_true.mpr ⟨p, hp, by simp [he]⟩))
        rw [f2] at hd
        simp only [hin.1, if_true] at hd
        rw [if_pos hin, hd]
        have h3 : ¬ (k + xs.length ≤ j) := by omega
        simp only [Bool.false_eq_true, if_false]
        rw [f3]; simp [h3]
      · rw [if_neg hin]
        simp only [Bool.false_eq_true, if_false]
        by_cases hlt : j < k
        · have h3 : ¬ (k + xs.length ≤ j) := by omega
          rw [f3]
          simp only [h3, decide_false, Bool.false_eq_true, if_false]
          have hne : ∀ p ∈ List.filter (fun p => decide (p.1 < k)) m, p.1 ≠ j := by
            intro p hp he
            exact a1 (List.any_eq_true.mpr ⟨p, hp, by simp [he]⟩)
          have h0 := get_of_absent d _ j hne
          rw [f1] at h0
          simpa [hlt] using h0.symm
        · have h3 : k + xs.length ≤ j := by omega
          rw [f3]; simp [h3]

/-! The canonical form. -/

theorem wf_cons [DecidableEq α] (d : α) (k : Nat) (x : α) (m : SMap α) :
    wf d ((k, x) :: m) = true ↔ x ≠ d ∧ (∀ p ∈ m, k < p.1) ∧ wf d m = true := by
  simp [wf, and_assoc]

theorem wf_filter [DecidableEq α] (d : α) (m : SMap α) (q : Nat × α → Bool) (h : wf d m = true) :
    wf d (m.filter q) = true := by
  induction m with
  | nil => rfl
  | cons p m ih =>
    obtain ⟨k, x⟩ := p
    rw [wf_cons] at h
    by_cases hq : q (k, x) = true
    · simp only [List.filter_cons, hq, if_true]
      rw [wf_cons]
      exact ⟨h.1, fun p hp => h.2.1 p (List.mem_filter.mp hp).1, ih h.2.2⟩
    · simp only [List.filter_cons, hq]
      exact ih h.2.2

theorem mem_ins (k : Nat) (x : α) (m : SMap α) (p : Nat × α) (hp : p ∈ ins k x m) : p = (k, x) ∨ p ∈ m := by
  induction m with
  | nil => simpa [ins] using hp
  | cons q m ih =>
    obtain ⟨j, y⟩ := q
    by_cases hlt : j < k
    · simp only [ins, hlt, if_true, List.mem_cons] at hp
      rcases hp with rfl | hp
      · simp
      · rcases ih hp with h | h
        · exact .inl h
        · exact .inr (by simp [h])
    · simp only [ins, hlt, if_false, List.mem_cons] at hp
      rcases hp with h | h | h
      · exact .inl h
      · exact .inr (by simp [h])
      · exact .inr (by simp [h])

theorem wf_ins [DecidableEq α] (d : α) (m : SMap α) (k : Nat) (x : α) (hx : x ≠ d) (hk : ∀ p ∈ m, p.1 ≠ k)
    (h : wf d m = true) : wf d (ins k x m) = true := by
  induction m with
  | nil => simp [ins, wf, hx]
  | cons q m ih =>
    obtain ⟨j, y⟩ := q
    rw [wf_cons] at h
    have hjk : j ≠ k := hk (j, y) (by simp)
    have ih := ih (fun p hp => hk p (by simp [hp])) h.2.2
    by_cases hlt : j < k
    · simp only [ins, hlt, if_true]
      rw [wf_cons]
      refine ⟨h.1, fun p hp => ?_, ih⟩
      rcases mem_ins k x m p hp with rfl | hp
      · exact hlt
      · exact h.2.1 p hp
    · simp only [ins, hlt, if_false]
      rw [wf_cons, wf_cons]
      have hkj : k < j := by omega
      refine ⟨hx, fun p hp => ?_, h⟩
      rcases List.mem_cons.mp hp with rfl | hp
      · exact hkj
      · exact lt_trans hkj (h.2.1 p hp)

/-- A write keeps the canonical form. -/
theorem wf_set [DecidableEq α] (d : α) (m : SMap α) (k : Nat) (x : α) (h : wf d m = true) : wf d (set d m k x) = true := by
  have hf := wf_filter d m (fun p => decide (p.1 ≠ k)) h
  by_cases hx : x = d
  · simp only [set, hx, if_true]; exact hf
  · simp only [set, hx, if_false]
    exact wf_ins d _ k x hx (fun p hp => by simpa using (List.mem_filter.mp hp).2) hf

theorem wf_append [DecidableEq α] (d : α) (m n : SMap α) (hm : wf d m = true) (hn : wf d n = true)
    (h : ∀ p ∈ m, ∀ q ∈ n, p.1 < q.1) : wf d (m ++ n) = true := by
  induction m with
  | nil => simpa using hn
  | cons p m ih =>
    obtain ⟨k, x⟩ := p
    rw [wf_cons] at hm
    rw [List.cons_append, wf_cons]
    refine ⟨hm.1, fun q hq => ?_, ih hm.2.2 (fun p hp => h p (by simp [hp]))⟩
    rcases List.mem_append.mp hq with hq | hq
    · exact hm.2.1 q hq
    · exact h (k, x) (by simp) q hq

theorem wf_ofList [DecidableEq α] (d : α) (xs : List α) (k : Nat) : wf d (ofList d k xs) = true := by
  induction xs generalizing k with
  | nil => rfl
  | cons x xs ih =>
    by_cases hx : x = d
    · simp only [ofList, hx, if_true]; exact ih _
    · simp only [ofList, hx, if_false]
      rw [wf_cons]
      exact ⟨hx, fun p hp => by have := ofList_keys d xs (k + 1) p hp; omega, ih _⟩

/-- A block write keeps the canonical form. -/
theorem wf_setList [DecidableEq α] (d : α) (m : SMap α) (k : Nat) (xs : List α) (h : wf d m = true) :
    wf d (setList d m k xs) = true := by
  unfold setList
  refine wf_append d _ _ (wf_append d _ _ (wf_filter d m _ h) (wf_ofList d xs k) ?_) (wf_filter d m _ h) ?_
  · intro p hp q hq
    have h1 := (List.mem_filter.mp hp).2
    have h2 := ofList_keys d xs k q hq
    simp only [decide_eq_true_eq] at h1
    omega
  · intro p hp q hq
    have h2 := (List.mem_filter.mp hq).2
    simp only [decide_eq_true_eq] at h2
    rcases List.mem_append.mp hp with hp | hp
    · have h1 := (List.mem_filter.mp hp).2
      simp only [decide_eq_true_eq] at h1
      omega
    · have h1 := ofList_keys d xs k p hp
      omega

theorem wf_clear [DecidableEq α] (d : α) (m : SMap α) (lo hi : Nat) (h : wf d m = true) : wf d (clear m lo hi) = true :=
  wf_filter d m _ h

theorem wf_mapVal [DecidableEq α] (d : α) (g : α → α) (m : SMap α) (h : wf d m = true) : wf d (mapVal d g m) = true := by
  unfold mapVal
  induction m with
  | nil => rfl
  | cons p m ih =>
    obtain ⟨k, x⟩ := p
    rw [wf_cons] at h
    have ih := ih h.2.2
    by_cases hx : g x = d
    · simp only [List.map_cons, List.filter_cons, hx]
      simpa using ih
    · simp only [List.map_cons, List.filter_cons, ne_eq, hx, not_false_eq_true, decide_true, if_true]
      rw [wf_cons]
      refine ⟨hx, fun q hq => ?_, by simpa using ih⟩
      obtain ⟨r, hr, rfl⟩ := List.mem_map.mp (List.mem_filter.mp hq).1
      exact h.2.1 r hr

/-! Blocks. -/

theorem length_getList (d : α) (m : SMap α) (k n : Nat) : (getList d m k n).length = n := by simp [getList]

theorem getD_getList (d : α) (m : SMap α) (k n i : Nat) (h : i < n) : (getList d m k n).getD i d = get d m (k + i) := by
  have hf := get_filter d m (k + i) (fun j => decide (k ≤ j) && decide (j < k + n))
  have hi : k + i < k + n := by omega
  simp [getList, List.getD, h, hf, hi]

end SMap

namespace Mem

/-- The byte at an address after a write. -/
theorem byte_write (m : Mem) (a : Nat) (bs : List Byte) (j : Nat) :
    (m.write a bs).byte j = if a ≤ j ∧ j < a + bs.length then bs.getD (j - a) 0 else m.byte j :=
  SMap.get_setList 0 m a bs j

/-- Bytes outside a write are as before. -/
theorem byte_write_outside (m : Mem) (a : Nat) (bs : List Byte) (j : Nat) (h : ¬ (a ≤ j ∧ j < a + bs.length)) :
    (m.write a bs).byte j = m.byte j := by rw [byte_write, if_neg h]

theorem wf_write (m : Mem) (a : Nat) (bs : List Byte) (h : m.wf = true) : (m.write a bs).wf = true :=
  SMap.wf_setList 0 m a bs h

theorem length_read (m : Mem) (a n : Nat) : (m.read a n).length = n := SMap.length_getList 0 m a n

theorem getD_read (m : Mem) (a n i : Nat) (h : i < n) : (m.read a n).getD i 0 = m.byte (a + i) :=
  SMap.getD_getList 0 m a n i h

/-- What a block write wrote is what a block read gives. -/
theorem read_write (m : Mem) (a : Nat) (bs : List Byte) : (m.write a bs).read a bs.length = bs := by
  apply List.ext_getElem
  · exact length_read _ _ _
  · intro i h1 h2
    have h : i < bs.length := h2
    have h3 := getD_read (m.write a bs) a bs.length i h
    have h4 : ((m.write a bs).read a bs.length)[i] = (m.write a bs).byte (a + i) := by
      rw [← h3]; simp [List.getD, h1]
    rw [h4, byte_write]
    simp [h, List.getD]

end Mem

end Sys2Proof.Machine
end

