-- ==== Sys2Proof/Laws/Regs.lean ====
section
/-! SUPPORT. Registers by field: what a field reads after a write of it, of another field of its register, of another
register. -/

namespace Sys2Proof.Machine

theorem RegName.ctorIdx_inj {r r' : RegName} (h : r.ctorIdx = r'.ctorIdx) : r = r' := by
  rw [← RegName.ofNat_ctorIdx r, ← RegName.ofNat_ctorIdx r', h]

/-- Keys of registers with different names differ. -/
theorem RegName.key_ne {r r' : RegName} (h : r ≠ r') (i j i' j' : Nat) : r.key i j ≠ r'.key i' j' := by
  intro e
  unfold RegName.key at e
  exact h (RegName.ctorIdx_inj (by omega))

/-- Keys of one register differ where its indices do. -/
theorem RegName.key_ne_idx (r : RegName) {i j i' j' : Nat} (hi : i < 65536) (hj : j < 65536) (hi' : i' < 65536) (hj' : j' < 65536)
    (h : i ≠ i' ∨ j ≠ j') : r.key i j ≠ r.key i' j' := by
  intro e
  unfold RegName.key at e
  omega

/-! Bit fields of a number. -/

theorem setBits_get (x lo w v : Nat) : bitsOf (setBits x lo w v) lo w = v % 2 ^ w := by
  unfold bitsOf setBits
  have h1 : 0 < 2 ^ lo := Nat.pow_pos (by decide)
  have h2 : x % 2 ^ lo < 2 ^ lo := Nat.mod_lt _ h1
  have e : x % 2 ^ lo + v % 2 ^ w * 2 ^ lo + x / 2 ^ (lo + w) * 2 ^ (lo + w) =
      x % 2 ^ lo + 2 ^ lo * (v % 2 ^ w + 2 ^ w * (x / 2 ^ (lo + w))) := by rw [pow_add]; ring
  rw [e, Nat.add_mul_div_left _ _ h1, Nat.div_eq_of_lt h2, Nat.zero_add, Nat.add_mul_mod_self_left]
  exact Nat.mod_mod _ _

/-- A field below the one written. -/
theorem setBits_get_below (x lo w v lo' w' : Nat) (h : lo' + w' ≤ lo) : bitsOf (setBits x lo w v) lo' w' = bitsOf x lo' w' := by
  unfold bitsOf setBits
  obtain ⟨a, rfl⟩ := Nat.exists_eq_add_of_le h
  have e : x % 2 ^ (lo' + w' + a) + v % 2 ^ w * 2 ^ (lo' + w' + a) + x / 2 ^ (lo' + w' + a + w) * 2 ^ (lo' + w' + a + w) =
      x % 2 ^ (lo' + w' + a) + 2 ^ (lo' + w') * (2 ^ a * (v % 2 ^ w + 2 ^ w * (x / 2 ^ (lo' + w' + a + w)))) := by
    rw [pow_add 2 (lo' + w' + a) w, pow_add 2 (lo' + w') a]; ring
  have d : x = x % 2 ^ (lo' + w' + a) + 2 ^ (lo' + w') * (2 ^ a * (x / 2 ^ (lo' + w' + a))) := by
    rw [← Nat.mul_assoc, ← pow_add]; exact (Nat.mod_add_div _ _).symm
  have key (y b : Nat) : (y + 2 ^ (lo' + w') * b) / 2 ^ lo' % 2 ^ w' = y / 2 ^ lo' % 2 ^ w' := by
    have : y + 2 ^ (lo' + w') * b = y + 2 ^ lo' * (2 ^ w' * b) := by rw [pow_add]; ring
    rw [this, Nat.add_mul_div_left _ _ (Nat.pow_pos (by decide)), Nat.add_mul_mod_self_left]
  rw [e, key]
  conv_rhs => rw [d, key]

/-- A field above the one written. -/
theorem setBits_get_above (x lo w v lo' w' : Nat) (h : lo + w ≤ lo') : bitsOf (setBits x lo w v) lo' w' = bitsOf x lo' w' := by
  unfold bitsOf setBits
  obtain ⟨a, rfl⟩ := Nat.exists_eq_add_of_le h
  have h0 : 0 < 2 ^ lo := Nat.pow_pos (by decide)
  have hw : 0 < 2 ^ w := Nat.pow_pos (by decide)
  have h1 : x % 2 ^ lo < 2 ^ lo := Nat.mod_lt _ h0
  have h2 : v % 2 ^ w < 2 ^ w := Nat.mod_lt _ hw
  have h3 : x % 2 ^ lo + v % 2 ^ w * 2 ^ lo < 2 ^ (lo + w) := by
    rw [pow_add]
    calc x % 2 ^ lo + v % 2 ^ w * 2 ^ lo < 2 ^ lo + v % 2 ^ w * 2 ^ lo := by omega
      _ = (v % 2 ^ w + 1) * 2 ^ lo := by ring
      _ ≤ 2 ^ w * 2 ^ lo := Nat.mul_le_mul_right _ (by omega)
      _ = 2 ^ lo * 2 ^ w := by ring
  have hp : 0 < 2 ^ (lo + w) := Nat.pow_pos (by decide)
  have e : (x % 2 ^ lo + v % 2 ^ w * 2 ^ lo + x / 2 ^ (lo + w) * 2 ^ (lo + w)) / 2 ^ (lo + w) = x / 2 ^ (lo + w) := by
    rw [Nat.add_mul_div_right _ _ hp, Nat.div_eq_of_lt h3, Nat.zero_add]
  rw [pow_add 2 (lo + w) a, ← Nat.div_div_eq_div_mul, ← Nat.div_div_eq_div_mul, e]

theorem setBits_lt (x lo w v n : Nat) (hx : x < 2 ^ n) (h : lo + w ≤ n) : setBits x lo w v < 2 ^ n := by
  unfold setBits
  obtain ⟨a, rfl⟩ := Nat.exists_eq_add_of_le h
  have h0 : 0 < 2 ^ lo := Nat.pow_pos (by decide)
  have hw : 0 < 2 ^ w := Nat.pow_pos (by decide)
  have h1 : x % 2 ^ lo < 2 ^ lo := Nat.mod_lt _ h0
  have h2 : v % 2 ^ w < 2 ^ w := Nat.mod_lt _ hw
  have h4 : x / 2 ^ (lo + w) < 2 ^ a := by
    rw [Nat.div_lt_iff_lt_mul (Nat.pow_pos (by decide)), ← pow_add, Nat.add_comm a]; exact hx
  have h3 : x % 2 ^ lo + v % 2 ^ w * 2 ^ lo + 1 ≤ 2 ^ (lo + w) := by
    have : (v % 2 ^ w + 1) * 2 ^ lo ≤ 2 ^ w * 2 ^ lo := Nat.mul_le_mul_right _ (by omega)
    rw [Nat.add_mul, ← pow_add, Nat.add_comm w lo] at this
    omega
  have h5 : (x / 2 ^ (lo + w) + 1) * 2 ^ (lo + w) ≤ 2 ^ a * 2 ^ (lo + w) := Nat.mul_le_mul_right _ (by omega)
  rw [Nat.add_mul, ← pow_add, Nat.add_comm a] at h5
  omega

/-! Registers. -/

namespace State

variable (s : State)

@[simp] theorem reg_setReg_self (r : RegName) (i j : Nat) (v : Word) : (s.setReg r i j v).reg r i j = v := by
  simp [reg, setReg]

theorem reg_setReg_key (r r' : RegName) (i j i' j' : Nat) (v : Word) (h : r'.key i' j' ≠ r.key i j) :
    (s.setReg r i j v).reg r' i' j' = s.reg r' i' j' := by
  simp only [reg, setReg]
  exact SMap.get_set_other _ _ _ _ _ _ h

theorem get_def (f : Fld) (i j : Nat) : s.get f i j = bitsOf (s.reg f.reg i j).toNat f.lo f.w := rfl

/-- A field after a write of it. -/
theorem get_put_self (f : Fld) (v i j : Nat) (h : f.lo + f.w ≤ 64) : (s.put f v i j).get f i j = v % 2 ^ f.w := by
  simp only [get_def, put, reg_setReg_self, BitVec.toNat_ofNat]
  rw [Nat.mod_eq_of_lt (setBits_lt _ _ _ _ 64 (s.reg f.reg i j).isLt h), setBits_get]

/-- A field after a write of another field of its register. -/
theorem get_put_field (f g : Fld) (v i j : Nat) (hr : g.reg = f.reg) (hf : f.lo + f.w ≤ 64)
    (h : f.lo + f.w ≤ g.lo ∨ g.lo + g.w ≤ f.lo) : (s.put f v i j).get g i j = s.get g i j := by
  simp only [get_def, put, hr, reg_setReg_self, BitVec.toNat_ofNat]
  rw [Nat.mod_eq_of_lt (setBits_lt _ _ _ _ 64 (s.reg f.reg i j).isLt hf)]
  rcases h with h | h
  · exact setBits_get_above _ _ _ _ _ _ h
  · exact setBits_get_below _ _ _ _ _ _ h

/-- A field after a write of another register. -/
theorem get_put_reg (f g : Fld) (v i j i' j' : Nat) (h : g.reg ≠ f.reg) : (s.put f v i j).get g i' j' = s.get g i' j' := by
  simp only [get_def, put]
  rw [reg_setReg_key _ _ _ _ _ _ _ _ (RegName.key_ne h _ _ _ _)]

/-- A field after a write of the same register at another index. -/
theorem get_put_idx (f g : Fld) (v i j i' j' : Nat) (hi : i < 65536) (hj : j < 65536) (hi' : i' < 65536) (hj' : j' < 65536)
    (h : i' ≠ i ∨ j' ≠ j) : (s.put f v i j).get g i' j' = s.get g i' j' := by
  by_cases hr : g.reg = f.reg
  · simp only [get_def, put, hr]
    rw [reg_setReg_key _ _ _ _ _ _ _ _ (RegName.key_ne_idx _ hi' hj' hi hj h)]
  · exact get_put_reg s f g v i j i' j' hr

theorem reg_put_reg (f : Fld) (r : RegName) (v i j i' j' : Nat) (h : r ≠ f.reg) : (s.put f v i j).reg r i' j' = s.reg r i' j' := by
  simp only [put]
  rw [reg_setReg_key _ _ _ _ _ _ _ _ (RegName.key_ne h _ _ _ _)]

theorem get_setReg_reg (r : RegName) (g : Fld) (v : Word) (i j i' j' : Nat) (h : g.reg ≠ r) :
    (s.setReg r i j v).get g i' j' = s.get g i' j' := by
  simp only [get_def]
  rw [reg_setReg_key _ _ _ _ _ _ _ _ (RegName.key_ne h _ _ _ _)]

/-- A field is below its bound. -/
theorem get_lt (f : Fld) (i j : Nat) : s.get f i j < 2 ^ f.w := by
  simp only [get_def, bitsOf]
  exact Nat.mod_lt _ (Nat.pow_pos (by decide))

/-- A one-bit field after a write of it. -/
theorem bit_put_self (f : Fld) (v i j : Nat) (h : f.lo + f.w ≤ 64) (hw : f.w = 1) : (s.put f v i j).bit f i j = (v % 2 == 1) := by
  simp only [bit, get_put_self s f v i j h, hw, pow_one]

/-- A counter field after it grew. -/
theorem get_bump_self (f : Fld) (i j n : Nat) (h : f.lo + f.w ≤ 64) (hs : f.stop < 2 ^ f.w) :
    (s.bump f i j n).get f i j = min f.stop (s.get f i j + n) := by
  simp only [bump, get_put_self s f _ i j h]
  exact Nat.mod_eq_of_lt (lt_of_le_of_lt (min_le_left _ _) hs)

end State

end Sys2Proof.Machine
end

