-- ==== Sys2Proof/Laws/State.lean ====
section
/-! SUPPORT. What every update of one part of the state leaves alone, field by field, and what a part reads after its update. -/

namespace Sys2Proof.Machine.State

variable (s : State)

/-! setReg. -/

@[simp] theorem setReg_pending (r : RegName) (i j : Nat) (v : Word) : (s.setReg r i j v).pending = s.pending := rfl
@[simp] theorem setReg_part (r : RegName) (i j : Nat) (v : Word) : (s.setReg r i j v).part = s.part := rfl
@[simp] theorem setReg_serial (r : RegName) (i j : Nat) (v : Word) : (s.setReg r i j v).serial = s.serial := rfl
@[simp] theorem setReg_readData (r : RegName) (i j : Nat) (v : Word) : (s.setReg r i j v).readData = s.readData := rfl
@[simp] theorem setReg_readBytes (r : RegName) (i j : Nat) (v : Word) : (s.setReg r i j v).readBytes = s.readBytes := rfl
@[simp] theorem setReg_readPoison (r : RegName) (i j : Nat) (v : Word) : (s.setReg r i j v).readPoison = s.readPoison := rfl
@[simp] theorem setReg_free (r : RegName) (i j : Nat) (v : Word) : (s.setReg r i j v).free = s.free := rfl
@[simp] theorem setReg_tiles (r : RegName) (i j : Nat) (v : Word) : (s.setReg r i j v).tiles = s.tiles := rfl
@[simp] theorem setReg_tstore (r : RegName) (i j : Nat) (v : Word) : (s.setReg r i j v).tstore = s.tstore := rfl
@[simp] theorem setReg_tsErr (r : RegName) (i j : Nat) (v : Word) : (s.setReg r i j v).tsErr = s.tsErr := rfl
@[simp] theorem setReg_istore (r : RegName) (i j : Nat) (v : Word) : (s.setReg r i j v).istore = s.istore := rfl
@[simp] theorem setReg_isErr (r : RegName) (i j : Nat) (v : Word) : (s.setReg r i j v).isErr = s.isErr := rfl
@[simp] theorem setReg_scrubbed (r : RegName) (i j : Nat) (v : Word) : (s.setReg r i j v).scrubbed = s.scrubbed := rfl
@[simp] theorem setReg_portPtr (r : RegName) (i j : Nat) (v : Word) : (s.setReg r i j v).portPtr = s.portPtr := rfl
@[simp] theorem setReg_fbdMinStep (r : RegName) (i j : Nat) (v : Word) : (s.setReg r i j v).fbdMinStep = s.fbdMinStep := rfl
@[simp] theorem setReg_fbdLastStep (r : RegName) (i j : Nat) (v : Word) : (s.setReg r i j v).fbdLastStep = s.fbdLastStep := rfl
@[simp] theorem setReg_quotaB (r : RegName) (i j : Nat) (v : Word) : (s.setReg r i j v).quotaB = s.quotaB := rfl
@[simp] theorem setReg_hz (r : RegName) (i j : Nat) (v : Word) : (s.setReg r i j v).hz = s.hz := rfl
@[simp] theorem setReg_sched (r : RegName) (i j : Nat) (v : Word) : (s.setReg r i j v).sched = s.sched := rfl
@[simp] theorem setReg_engines (r : RegName) (i j : Nat) (v : Word) : (s.setReg r i j v).engines = s.engines := rfl
@[simp] theorem setReg_streams (r : RegName) (i j : Nat) (v : Word) : (s.setReg r i j v).streams = s.streams := rfl
@[simp] theorem setReg_cache (r : RegName) (i j : Nat) (v : Word) : (s.setReg r i j v).cache = s.cache := rfl
@[simp] theorem setReg_cacheMiss (r : RegName) (i j : Nat) (v : Word) : (s.setReg r i j v).cacheMiss = s.cacheMiss := rfl
@[simp] theorem setReg_links (r : RegName) (i j : Nat) (v : Word) : (s.setReg r i j v).links = s.links := rfl
@[simp] theorem setReg_laneTries (r : RegName) (i j : Nat) (v : Word) : (s.setReg r i j v).laneTries = s.laneTries := rfl
@[simp] theorem setReg_laneQueue (r : RegName) (i j : Nat) (v : Word) : (s.setReg r i j v).laneQueue = s.laneQueue := rfl
@[simp] theorem setReg_plan (r : RegName) (i j : Nat) (v : Word) : (s.setReg r i j v).plan = s.plan := rfl
@[simp] theorem setReg_recable (r : RegName) (i j : Nat) (v : Word) : (s.setReg r i j v).recable = s.recable := rfl
@[simp] theorem setReg_chanRx (r : RegName) (i j : Nat) (v : Word) : (s.setReg r i j v).chanRx = s.chanRx := rfl
@[simp] theorem setReg_aprExits (r : RegName) (i j : Nat) (v : Word) : (s.setReg r i j v).aprExits = s.aprExits := rfl
@[simp] theorem setReg_seen (r : RegName) (i j : Nat) (v : Word) : (s.setReg r i j v).seen = s.seen := rfl
@[simp] theorem setReg_floodSeq (r : RegName) (i j : Nat) (v : Word) : (s.setReg r i j v).floodSeq = s.floodSeq := rfl
@[simp] theorem setReg_netDown (r : RegName) (i j : Nat) (v : Word) : (s.setReg r i j v).netDown = s.netDown := rfl
@[simp] theorem setReg_trailTx (r : RegName) (i j : Nat) (v : Word) : (s.setReg r i j v).trailTx = s.trailTx := rfl
@[simp] theorem setReg_trailRx (r : RegName) (i j : Nat) (v : Word) : (s.setReg r i j v).trailRx = s.trailRx := rfl
@[simp] theorem setReg_trailHeld (r : RegName) (i j : Nat) (v : Word) : (s.setReg r i j v).trailHeld = s.trailHeld := rfl
@[simp] theorem setReg_loops (r : RegName) (i j : Nat) (v : Word) : (s.setReg r i j v).loops = s.loops := rfl
@[simp] theorem setReg_scu (r : RegName) (i j : Nat) (v : Word) : (s.setReg r i j v).scu = s.scu := rfl
@[simp] theorem setReg_bases (r : RegName) (i j : Nat) (v : Word) : (s.setReg r i j v).bases = s.bases := rfl
@[simp] theorem setReg_clk (r : RegName) (i j : Nat) (v : Word) : (s.setReg r i j v).clk = s.clk := rfl
@[simp] theorem setReg_tickFrac (r : RegName) (i j : Nat) (v : Word) : (s.setReg r i j v).tickFrac = s.tickFrac := rfl
@[simp] theorem setReg_slew (r : RegName) (i j : Nat) (v : Word) : (s.setReg r i j v).slew = s.slew := rfl
@[simp] theorem setReg_joined (r : RegName) (i j : Nat) (v : Word) : (s.setReg r i j v).joined = s.joined := rfl
@[simp] theorem setReg_bkCount (r : RegName) (i j : Nat) (v : Word) : (s.setReg r i j v).bkCount = s.bkCount := rfl
@[simp] theorem setReg_bkFrac (r : RegName) (i j : Nat) (v : Word) : (s.setReg r i j v).bkFrac = s.bkFrac := rfl
@[simp] theorem setReg_host (r : RegName) (i j : Nat) (v : Word) : (s.setReg r i j v).host = s.host := rfl
@[simp] theorem setReg_hbm (r : RegName) (i j : Nat) (v : Word) : (s.setReg r i j v).hbm = s.hbm := rfl
@[simp] theorem setReg_poison (r : RegName) (i j : Nat) (v : Word) : (s.setReg r i j v).poison = s.poison := rfl
@[simp] theorem setReg_cleared (r : RegName) (i j : Nat) (v : Word) : (s.setReg r i j v).cleared = s.cleared := rfl
@[simp] theorem setReg_hbmErr (r : RegName) (i j : Nat) (v : Word) : (s.setReg r i j v).hbmErr = s.hbmErr := rfl
@[simp] theorem setReg_frames (r : RegName) (i j : Nat) (v : Word) : (s.setReg r i j v).frames = s.frames := rfl
@[simp] theorem setReg_refs (r : RegName) (i j : Nat) (v : Word) : (s.setReg r i j v).refs = s.refs := rfl
@[simp] theorem setReg_retired (r : RegName) (i j : Nat) (v : Word) : (s.setReg r i j v).retired = s.retired := rfl
@[simp] theorem setReg_retireDue (r : RegName) (i j : Nat) (v : Word) : (s.setReg r i j v).retireDue = s.retireDue := rfl
@[simp] theorem setReg_ptPages (r : RegName) (i j : Nat) (v : Word) : (s.setReg r i j v).ptPages = s.ptPages := rfl
@[simp] theorem setReg_locked (r : RegName) (i j : Nat) (v : Word) : (s.setReg r i j v).locked = s.locked := rfl
@[simp] theorem setReg_faults (r : RegName) (i j : Nat) (v : Word) : (s.setReg r i j v).faults = s.faults := rfl
@[simp] theorem setReg_faultSeq (r : RegName) (i j : Nat) (v : Word) : (s.setReg r i j v).faultSeq = s.faultSeq := rfl
@[simp] theorem setReg_busMaster (r : RegName) (i j : Nat) (v : Word) : (s.setReg r i j v).busMaster = s.busMaster := rfl
@[simp] theorem setReg_portUp (r : RegName) (i j : Nat) (v : Word) : (s.setReg r i j v).portUp = s.portUp := rfl
@[simp] theorem setReg_inReset (r : RegName) (i j : Nat) (v : Word) : (s.setReg r i j v).inReset = s.inReset := rfl
@[simp] theorem setReg_mute (r : RegName) (i j : Nat) (v : Word) : (s.setReg r i j v).mute = s.mute := rfl
@[simp] theorem setReg_zeroLeft (r : RegName) (i j : Nat) (v : Word) : (s.setReg r i j v).zeroLeft = s.zeroLeft := rfl
@[simp] theorem setReg_msix (r : RegName) (i j : Nat) (v : Word) : (s.setReg r i j v).msix = s.msix := rfl
@[simp] theorem setReg_msixOut (r : RegName) (i j : Nat) (v : Word) : (s.setReg r i j v).msixOut = s.msixOut := rfl
@[simp] theorem setReg_descs (r : RegName) (i j : Nat) (v : Word) : (s.setReg r i j v).descs = s.descs := rfl
@[simp] theorem setReg_nextDesc (r : RegName) (i j : Nat) (v : Word) : (s.setReg r i j v).nextDesc = s.nextDesc := rfl
@[simp] theorem setReg_nextEnd (r : RegName) (i j : Nat) (v : Word) : (s.setReg r i j v).nextEnd = s.nextEnd := rfl
@[simp] theorem setReg_fetches (r : RegName) (i j : Nat) (v : Word) : (s.setReg r i j v).fetches = s.fetches := rfl
@[simp] theorem setReg_cancels (r : RegName) (i j : Nat) (v : Word) : (s.setReg r i j v).cancels = s.cancels := rfl
@[simp] theorem setReg_ringPtr (r : RegName) (i j : Nat) (v : Word) : (s.setReg r i j v).ringPtr = s.ringPtr := rfl
@[simp] theorem setReg_copyPtr (r : RegName) (i j : Nat) (v : Word) : (s.setReg r i j v).copyPtr = s.copyPtr := rfl
@[simp] theorem setReg_evPol (r : RegName) (i j : Nat) (v : Word) : (s.setReg r i j v).evPol = s.evPol := rfl
@[simp] theorem setReg_evTgt (r : RegName) (i j : Nat) (v : Word) : (s.setReg r i j v).evTgt = s.evTgt := rfl
@[simp] theorem setReg_sync (r : RegName) (i j : Nat) (v : Word) : (s.setReg r i j v).sync = s.sync := rfl
@[simp] theorem setReg_adds (r : RegName) (i j : Nat) (v : Word) : (s.setReg r i j v).adds = s.adds := rfl
@[simp] theorem setReg_remotes (r : RegName) (i j : Nat) (v : Word) : (s.setReg r i j v).remotes = s.remotes := rfl
@[simp] theorem setReg_served (r : RegName) (i j : Nat) (v : Word) : (s.setReg r i j v).served = s.served := rfl
@[simp] theorem setReg_nextAdd (r : RegName) (i j : Nat) (v : Word) : (s.setReg r i j v).nextAdd = s.nextAdd := rfl
@[simp] theorem setReg_watchMet (r : RegName) (i j : Nat) (v : Word) : (s.setReg r i j v).watchMet = s.watchMet := rfl
@[simp] theorem setReg_srcs (r : RegName) (i j : Nat) (v : Word) : (s.setReg r i j v).srcs = s.srcs := rfl
@[simp] theorem setReg_tgts (r : RegName) (i j : Nat) (v : Word) : (s.setReg r i j v).tgts = s.tgts := rfl
@[simp] theorem setReg_doms (r : RegName) (i j : Nat) (v : Word) : (s.setReg r i j v).doms = s.doms := rfl
@[simp] theorem setReg_rails (r : RegName) (i j : Nat) (v : Word) : (s.setReg r i j v).rails = s.rails := rfl
@[simp] theorem setReg_overT (r : RegName) (i j : Nat) (v : Word) : (s.setReg r i j v).overT = s.overT := rfl
@[simp] theorem setReg_overWhy (r : RegName) (i j : Nat) (v : Word) : (s.setReg r i j v).overWhy = s.overWhy := rfl
@[simp] theorem setReg_tj (r : RegName) (i j : Nat) (v : Word) : (s.setReg r i j v).tj = s.tj := rfl
@[simp] theorem setReg_startMs (r : RegName) (i j : Nat) (v : Word) : (s.setReg r i j v).startMs = s.startMs := rfl
@[simp] theorem setReg_calFile (r : RegName) (i j : Nat) (v : Word) : (s.setReg r i j v).calFile = s.calFile := rfl
@[simp] theorem setReg_calFull (r : RegName) (i j : Nat) (v : Word) : (s.setReg r i j v).calFull = s.calFull := rfl
@[simp] theorem setReg_cal (r : RegName) (i j : Nat) (v : Word) : (s.setReg r i j v).cal = s.cal := rfl
@[simp] theorem setReg_settings (r : RegName) (i j : Nat) (v : Word) : (s.setReg r i j v).settings = s.settings := rfl
@[simp] theorem setReg_flash (r : RegName) (i j : Nat) (v : Word) : (s.setReg r i j v).flash = s.flash := rfl
@[simp] theorem setReg_laserWent (r : RegName) (i j : Nat) (v : Word) : (s.setReg r i j v).laserWent = s.laserWent := rfl
@[simp] theorem setReg_discSince (r : RegName) (i j : Nat) (v : Word) : (s.setReg r i j v).discSince = s.discSince := rfl
@[simp] theorem setReg_ctrs (r : RegName) (i j : Nat) (v : Word) : (s.setReg r i j v).ctrs = s.ctrs := rfl
@[simp] theorem setReg_wrapped (r : RegName) (i j : Nat) (v : Word) : (s.setReg r i j v).wrapped = s.wrapped := rfl
@[simp] theorem setReg_tmuxStep (r : RegName) (i j : Nat) (v : Word) : (s.setReg r i j v).tmuxStep = s.tmuxStep := rfl
@[simp] theorem setReg_pins (r : RegName) (i j : Nat) (v : Word) : (s.setReg r i j v).pins = s.pins := rfl
@[simp] theorem setReg_warden (r : RegName) (i j : Nat) (v : Word) : (s.setReg r i j v).warden = s.warden := rfl
@[simp] theorem setReg_heldWrites (r : RegName) (i j : Nat) (v : Word) : (s.setReg r i j v).heldWrites = s.heldWrites := rfl
@[simp] theorem setReg_mainPower (r : RegName) (i j : Nat) (v : Word) : (s.setReg r i j v).mainPower = s.mainPower := rfl
@[simp] theorem setReg_vbat (r : RegName) (i j : Nat) (v : Word) : (s.setReg r i j v).vbat = s.vbat := rfl
@[simp] theorem setReg_bkKept (r : RegName) (i j : Nat) (v : Word) : (s.setReg r i j v).bkKept = s.bkKept := rfl
@[simp] theorem tile_setReg (r : RegName) (i j : Nat) (v : Word) (n' : Nat) : (s.setReg r i j v).tile n' = s.tile n' := rfl
@[simp] theorem hzEng_setReg (r : RegName) (i j : Nat) (v : Word) (n' : Nat) : (s.setReg r i j v).hzEng n' = s.hzEng n' := rfl
@[simp] theorem engine_setReg (r : RegName) (i j : Nat) (v : Word) (n' : Nat) : (s.setReg r i j v).engine n' = s.engine n' := rfl
@[simp] theorem link_setReg (r : RegName) (i j : Nat) (v : Word) (n' : Nat) : (s.setReg r i j v).link n' = s.link n' := rfl
@[simp] theorem loop_setReg (r : RegName) (i j : Nat) (v : Word) (n' : Nat) : (s.setReg r i j v).loop n' = s.loop n' := rfl
@[simp] theorem base_setReg (r : RegName) (i j : Nat) (v : Word) (n' : Nat) : (s.setReg r i j v).base n' = s.base n' := rfl
@[simp] theorem src_setReg (r : RegName) (i j : Nat) (v : Word) (n' : Nat) : (s.setReg r i j v).src n' = s.src n' := rfl
@[simp] theorem dom_setReg (r : RegName) (i j : Nat) (v : Word) (n' : Nat) : (s.setReg r i j v).dom n' = s.dom n' := rfl
@[simp] theorem ctr_setReg (r : RegName) (i j : Nat) (v : Word) (n' : Nat) : (s.setReg r i j v).ctr n' = s.ctr n' := rfl
@[simp] theorem calUnit_setReg (r : RegName) (i j : Nat) (v : Word) (n' : Nat) : (s.setReg r i j v).calUnit n' = s.calUnit n' := rfl

/-! put. -/

@[simp] theorem put_pending (f : Fld) (v i j : Nat) : (s.put f v i j).pending = s.pending := rfl
@[simp] theorem put_part (f : Fld) (v i j : Nat) : (s.put f v i j).part = s.part := rfl
@[simp] theorem put_serial (f : Fld) (v i j : Nat) : (s.put f v i j).serial = s.serial := rfl
@[simp] theorem put_readData (f : Fld) (v i j : Nat) : (s.put f v i j).readData = s.readData := rfl
@[simp] theorem put_readBytes (f : Fld) (v i j : Nat) : (s.put f v i j).readBytes = s.readBytes := rfl
@[simp] theorem put_readPoison (f : Fld) (v i j : Nat) : (s.put f v i j).readPoison = s.readPoison := rfl
@[simp] theorem put_free (f : Fld) (v i j : Nat) : (s.put f v i j).free = s.free := rfl
@[simp] theorem put_tiles (f : Fld) (v i j : Nat) : (s.put f v i j).tiles = s.tiles := rfl
@[simp] theorem put_tstore (f : Fld) (v i j : Nat) : (s.put f v i j).tstore = s.tstore := rfl
@[simp] theorem put_tsErr (f : Fld) (v i j : Nat) : (s.put f v i j).tsErr = s.tsErr := rfl
@[simp] theorem put_istore (f : Fld) (v i j : Nat) : (s.put f v i j).istore = s.istore := rfl
@[simp] theorem put_isErr (f : Fld) (v i j : Nat) : (s.put f v i j).isErr = s.isErr := rfl
@[simp] theorem put_scrubbed (f : Fld) (v i j : Nat) : (s.put f v i j).scrubbed = s.scrubbed := rfl
@[simp] theorem put_portPtr (f : Fld) (v i j : Nat) : (s.put f v i j).portPtr = s.portPtr := rfl
@[simp] theorem put_fbdMinStep (f : Fld) (v i j : Nat) : (s.put f v i j).fbdMinStep = s.fbdMinStep := rfl
@[simp] theorem put_fbdLastStep (f : Fld) (v i j : Nat) : (s.put f v i j).fbdLastStep = s.fbdLastStep := rfl
@[simp] theorem put_quotaB (f : Fld) (v i j : Nat) : (s.put f v i j).quotaB = s.quotaB := rfl
@[simp] theorem put_hz (f : Fld) (v i j : Nat) : (s.put f v i j).hz = s.hz := rfl
@[simp] theorem put_sched (f : Fld) (v i j : Nat) : (s.put f v i j).sched = s.sched := rfl
@[simp] theorem put_engines (f : Fld) (v i j : Nat) : (s.put f v i j).engines = s.engines := rfl
@[simp] theorem put_streams (f : Fld) (v i j : Nat) : (s.put f v i j).streams = s.streams := rfl
@[simp] theorem put_cache (f : Fld) (v i j : Nat) : (s.put f v i j).cache = s.cache := rfl
@[simp] theorem put_cacheMiss (f : Fld) (v i j : Nat) : (s.put f v i j).cacheMiss = s.cacheMiss := rfl
@[simp] theorem put_links (f : Fld) (v i j : Nat) : (s.put f v i j).links = s.links := rfl
@[simp] theorem put_laneTries (f : Fld) (v i j : Nat) : (s.put f v i j).laneTries = s.laneTries := rfl
@[simp] theorem put_laneQueue (f : Fld) (v i j : Nat) : (s.put f v i j).laneQueue = s.laneQueue := rfl
@[simp] theorem put_plan (f : Fld) (v i j : Nat) : (s.put f v i j).plan = s.plan := rfl
@[simp] theorem put_recable (f : Fld) (v i j : Nat) : (s.put f v i j).recable = s.recable := rfl
@[simp] theorem put_chanRx (f : Fld) (v i j : Nat) : (s.put f v i j).chanRx = s.chanRx := rfl
@[simp] theorem put_aprExits (f : Fld) (v i j : Nat) : (s.put f v i j).aprExits = s.aprExits := rfl
@[simp] theorem put_seen (f : Fld) (v i j : Nat) : (s.put f v i j).seen = s.seen := rfl
@[simp] theorem put_floodSeq (f : Fld) (v i j : Nat) : (s.put f v i j).floodSeq = s.floodSeq := rfl
@[simp] theorem put_netDown (f : Fld) (v i j : Nat) : (s.put f v i j).netDown = s.netDown := rfl
@[simp] theorem put_trailTx (f : Fld) (v i j : Nat) : (s.put f v i j).trailTx = s.trailTx := rfl
@[simp] theorem put_trailRx (f : Fld) (v i j : Nat) : (s.put f v i j).trailRx = s.trailRx := rfl
@[simp] theorem put_trailHeld (f : Fld) (v i j : Nat) : (s.put f v i j).trailHeld = s.trailHeld := rfl
@[simp] theorem put_loops (f : Fld) (v i j : Nat) : (s.put f v i j).loops = s.loops := rfl
@[simp] theorem put_scu (f : Fld) (v i j : Nat) : (s.put f v i j).scu = s.scu := rfl
@[simp] theorem put_bases (f : Fld) (v i j : Nat) : (s.put f v i j).bases = s.bases := rfl
@[simp] theorem put_clk (f : Fld) (v i j : Nat) : (s.put f v i j).clk = s.clk := rfl
@[simp] theorem put_tickFrac (f : Fld) (v i j : Nat) : (s.put f v i j).tickFrac = s.tickFrac := rfl
@[simp] theorem put_slew (f : Fld) (v i j : Nat) : (s.put f v i j).slew = s.slew := rfl
@[simp] theorem put_joined (f : Fld) (v i j : Nat) : (s.put f v i j).joined = s.joined := rfl
@[simp] theorem put_bkCount (f : Fld) (v i j : Nat) : (s.put f v i j).bkCount = s.bkCount := rfl
@[simp] theorem put_bkFrac (f : Fld) (v i j : Nat) : (s.put f v i j).bkFrac = s.bkFrac := rfl
@[simp] theorem put_host (f : Fld) (v i j : Nat) : (s.put f v i j).host = s.host := rfl
@[simp] theorem put_hbm (f : Fld) (v i j : Nat) : (s.put f v i j).hbm = s.hbm := rfl
@[simp] theorem put_poison (f : Fld) (v i j : Nat) : (s.put f v i j).poison = s.poison := rfl
@[simp] theorem put_cleared (f : Fld) (v i j : Nat) : (s.put f v i j).cleared = s.cleared := rfl
@[simp] theorem put_hbmErr (f : Fld) (v i j : Nat) : (s.put f v i j).hbmErr = s.hbmErr := rfl
@[simp] theorem put_frames (f : Fld) (v i j : Nat) : (s.put f v i j).frames = s.frames := rfl
@[simp] theorem put_refs (f : Fld) (v i j : Nat) : (s.put f v i j).refs = s.refs := rfl
@[simp] theorem put_retired (f : Fld) (v i j : Nat) : (s.put f v i j).retired = s.retired := rfl
@[simp] theorem put_retireDue (f : Fld) (v i j : Nat) : (s.put f v i j).retireDue = s.retireDue := rfl
@[simp] theorem put_ptPages (f : Fld) (v i j : Nat) : (s.put f v i j).ptPages = s.ptPages := rfl
@[simp] theorem put_locked (f : Fld) (v i j : Nat) : (s.put f v i j).locked = s.locked := rfl
@[simp] theorem put_faults (f : Fld) (v i j : Nat) : (s.put f v i j).faults = s.faults := rfl
@[simp] theorem put_faultSeq (f : Fld) (v i j : Nat) : (s.put f v i j).faultSeq = s.faultSeq := rfl
@[simp] theorem put_busMaster (f : Fld) (v i j : Nat) : (s.put f v i j).busMaster = s.busMaster := rfl
@[simp] theorem put_portUp (f : Fld) (v i j : Nat) : (s.put f v i j).portUp = s.portUp := rfl
@[simp] theorem put_inReset (f : Fld) (v i j : Nat) : (s.put f v i j).inReset = s.inReset := rfl
@[simp] theorem put_mute (f : Fld) (v i j : Nat) : (s.put f v i j).mute = s.mute := rfl
@[simp] theorem put_zeroLeft (f : Fld) (v i j : Nat) : (s.put f v i j).zeroLeft = s.zeroLeft := rfl
@[simp] theorem put_msix (f : Fld) (v i j : Nat) : (s.put f v i j).msix = s.msix := rfl
@[simp] theorem put_msixOut (f : Fld) (v i j : Nat) : (s.put f v i j).msixOut = s.msixOut := rfl
@[simp] theorem put_descs (f : Fld) (v i j : Nat) : (s.put f v i j).descs = s.descs := rfl
@[simp] theorem put_nextDesc (f : Fld) (v i j : Nat) : (s.put f v i j).nextDesc = s.nextDesc := rfl
@[simp] theorem put_nextEnd (f : Fld) (v i j : Nat) : (s.put f v i j).nextEnd = s.nextEnd := rfl
@[simp] theorem put_fetches (f : Fld) (v i j : Nat) : (s.put f v i j).fetches = s.fetches := rfl
@[simp] theorem put_cancels (f : Fld) (v i j : Nat) : (s.put f v i j).cancels = s.cancels := rfl
@[simp] theorem put_ringPtr (f : Fld) (v i j : Nat) : (s.put f v i j).ringPtr = s.ringPtr := rfl
@[simp] theorem put_copyPtr (f : Fld) (v i j : Nat) : (s.put f v i j).copyPtr = s.copyPtr := rfl
@[simp] theorem put_evPol (f : Fld) (v i j : Nat) : (s.put f v i j).evPol = s.evPol := rfl
@[simp] theorem put_evTgt (f : Fld) (v i j : Nat) : (s.put f v i j).evTgt = s.evTgt := rfl
@[simp] theorem put_sync (f : Fld) (v i j : Nat) : (s.put f v i j).sync = s.sync := rfl
@[simp] theorem put_adds (f : Fld) (v i j : Nat) : (s.put f v i j).adds = s.adds := rfl
@[simp] theorem put_remotes (f : Fld) (v i j : Nat) : (s.put f v i j).remotes = s.remotes := rfl
@[simp] theorem put_served (f : Fld) (v i j : Nat) : (s.put f v i j).served = s.served := rfl
@[simp] theorem put_nextAdd (f : Fld) (v i j : Nat) : (s.put f v i j).nextAdd = s.nextAdd := rfl
@[simp] theorem put_watchMet (f : Fld) (v i j : Nat) : (s.put f v i j).watchMet = s.watchMet := rfl
@[simp] theorem put_srcs (f : Fld) (v i j : Nat) : (s.put f v i j).srcs = s.srcs := rfl
@[simp] theorem put_tgts (f : Fld) (v i j : Nat) : (s.put f v i j).tgts = s.tgts := rfl
@[simp] theorem put_doms (f : Fld) (v i j : Nat) : (s.put f v i j).doms = s.doms := rfl
@[simp] theorem put_rails (f : Fld) (v i j : Nat) : (s.put f v i j).rails = s.rails := rfl
@[simp] theorem put_overT (f : Fld) (v i j : Nat) : (s.put f v i j).overT = s.overT := rfl
@[simp] theorem put_overWhy (f : Fld) (v i j : Nat) : (s.put f v i j).overWhy = s.overWhy := rfl
@[simp] theorem put_tj (f : Fld) (v i j : Nat) : (s.put f v i j).tj = s.tj := rfl
@[simp] theorem put_startMs (f : Fld) (v i j : Nat) : (s.put f v i j).startMs = s.startMs := rfl
@[simp] theorem put_calFile (f : Fld) (v i j : Nat) : (s.put f v i j).calFile = s.calFile := rfl
@[simp] theorem put_calFull (f : Fld) (v i j : Nat) : (s.put f v i j).calFull = s.calFull := rfl
@[simp] theorem put_cal (f : Fld) (v i j : Nat) : (s.put f v i j).cal = s.cal := rfl
@[simp] theorem put_settings (f : Fld) (v i j : Nat) : (s.put f v i j).settings = s.settings := rfl
@[simp] theorem put_flash (f : Fld) (v i j : Nat) : (s.put f v i j).flash = s.flash := rfl
@[simp] theorem put_laserWent (f : Fld) (v i j : Nat) : (s.put f v i j).laserWent = s.laserWent := rfl
@[simp] theorem put_discSince (f : Fld) (v i j : Nat) : (s.put f v i j).discSince = s.discSince := rfl
@[simp] theorem put_ctrs (f : Fld) (v i j : Nat) : (s.put f v i j).ctrs = s.ctrs := rfl
@[simp] theorem put_wrapped (f : Fld) (v i j : Nat) : (s.put f v i j).wrapped = s.wrapped := rfl
@[simp] theorem put_tmuxStep (f : Fld) (v i j : Nat) : (s.put f v i j).tmuxStep = s.tmuxStep := rfl
@[simp] theorem put_pins (f : Fld) (v i j : Nat) : (s.put f v i j).pins = s.pins := rfl
@[simp] theorem put_warden (f : Fld) (v i j : Nat) : (s.put f v i j).warden = s.warden := rfl
@[simp] theorem put_heldWrites (f : Fld) (v i j : Nat) : (s.put f v i j).heldWrites = s.heldWrites := rfl
@[simp] theorem put_mainPower (f : Fld) (v i j : Nat) : (s.put f v i j).mainPower = s.mainPower := rfl
@[simp] theorem put_vbat (f : Fld) (v i j : Nat) : (s.put f v i j).vbat = s.vbat := rfl
@[simp] theorem put_bkKept (f : Fld) (v i j : Nat) : (s.put f v i j).bkKept = s.bkKept := rfl
@[simp] theorem tile_put (f : Fld) (v i j : Nat) (n' : Nat) : (s.put f v i j).tile n' = s.tile n' := rfl
@[simp] theorem hzEng_put (f : Fld) (v i j : Nat) (n' : Nat) : (s.put f v i j).hzEng n' = s.hzEng n' := rfl
@[simp] theorem engine_put (f : Fld) (v i j : Nat) (n' : Nat) : (s.put f v i j).engine n' = s.engine n' := rfl
@[simp] theorem link_put (f : Fld) (v i j : Nat) (n' : Nat) : (s.put f v i j).link n' = s.link n' := rfl
@[simp] theorem loop_put (f : Fld) (v i j : Nat) (n' : Nat) : (s.put f v i j).loop n' = s.loop n' := rfl
@[simp] theorem base_put (f : Fld) (v i j : Nat) (n' : Nat) : (s.put f v i j).base n' = s.base n' := rfl
@[simp] theorem src_put (f : Fld) (v i j : Nat) (n' : Nat) : (s.put f v i j).src n' = s.src n' := rfl
@[simp] theorem dom_put (f : Fld) (v i j : Nat) (n' : Nat) : (s.put f v i j).dom n' = s.dom n' := rfl
@[simp] theorem ctr_put (f : Fld) (v i j : Nat) (n' : Nat) : (s.put f v i j).ctr n' = s.ctr n' := rfl
@[simp] theorem calUnit_put (f : Fld) (v i j : Nat) (n' : Nat) : (s.put f v i j).calUnit n' = s.calUnit n' := rfl

/-! bump. -/

@[simp] theorem bump_pending (f : Fld) (i j n : Nat) : (s.bump f i j n).pending = s.pending := rfl
@[simp] theorem bump_part (f : Fld) (i j n : Nat) : (s.bump f i j n).part = s.part := rfl
@[simp] theorem bump_serial (f : Fld) (i j n : Nat) : (s.bump f i j n).serial = s.serial := rfl
@[simp] theorem bump_readData (f : Fld) (i j n : Nat) : (s.bump f i j n).readData = s.readData := rfl
@[simp] theorem bump_readBytes (f : Fld) (i j n : Nat) : (s.bump f i j n).readBytes = s.readBytes := rfl
@[simp] theorem bump_readPoison (f : Fld) (i j n : Nat) : (s.bump f i j n).readPoison = s.readPoison := rfl
@[simp] theorem bump_free (f : Fld) (i j n : Nat) : (s.bump f i j n).free = s.free := rfl
@[simp] theorem bump_tiles (f : Fld) (i j n : Nat) : (s.bump f i j n).tiles = s.tiles := rfl
@[simp] theorem bump_tstore (f : Fld) (i j n : Nat) : (s.bump f i j n).tstore = s.tstore := rfl
@[simp] theorem bump_tsErr (f : Fld) (i j n : Nat) : (s.bump f i j n).tsErr = s.tsErr := rfl
@[simp] theorem bump_istore (f : Fld) (i j n : Nat) : (s.bump f i j n).istore = s.istore := rfl
@[simp] theorem bump_isErr (f : Fld) (i j n : Nat) : (s.bump f i j n).isErr = s.isErr := rfl
@[simp] theorem bump_scrubbed (f : Fld) (i j n : Nat) : (s.bump f i j n).scrubbed = s.scrubbed := rfl
@[simp] theorem bump_portPtr (f : Fld) (i j n : Nat) : (s.bump f i j n).portPtr = s.portPtr := rfl
@[simp] theorem bump_fbdMinStep (f : Fld) (i j n : Nat) : (s.bump f i j n).fbdMinStep = s.fbdMinStep := rfl
@[simp] theorem bump_fbdLastStep (f : Fld) (i j n : Nat) : (s.bump f i j n).fbdLastStep = s.fbdLastStep := rfl
@[simp] theorem bump_quotaB (f : Fld) (i j n : Nat) : (s.bump f i j n).quotaB = s.quotaB := rfl
@[simp] theorem bump_hz (f : Fld) (i j n : Nat) : (s.bump f i j n).hz = s.hz := rfl
@[simp] theorem bump_sched (f : Fld) (i j n : Nat) : (s.bump f i j n).sched = s.sched := rfl
@[simp] theorem bump_engines (f : Fld) (i j n : Nat) : (s.bump f i j n).engines = s.engines := rfl
@[simp] theorem bump_streams (f : Fld) (i j n : Nat) : (s.bump f i j n).streams = s.streams := rfl
@[simp] theorem bump_cache (f : Fld) (i j n : Nat) : (s.bump f i j n).cache = s.cache := rfl
@[simp] theorem bump_cacheMiss (f : Fld) (i j n : Nat) : (s.bump f i j n).cacheMiss = s.cacheMiss := rfl
@[simp] theorem bump_links (f : Fld) (i j n : Nat) : (s.bump f i j n).links = s.links := rfl
@[simp] theorem bump_laneTries (f : Fld) (i j n : Nat) : (s.bump f i j n).laneTries = s.laneTries := rfl
@[simp] theorem bump_laneQueue (f : Fld) (i j n : Nat) : (s.bump f i j n).laneQueue = s.laneQueue := rfl
@[simp] theorem bump_plan (f : Fld) (i j n : Nat) : (s.bump f i j n).plan = s.plan := rfl
@[simp] theorem bump_recable (f : Fld) (i j n : Nat) : (s.bump f i j n).recable = s.recable := rfl
@[simp] theorem bump_chanRx (f : Fld) (i j n : Nat) : (s.bump f i j n).chanRx = s.chanRx := rfl
@[simp] theorem bump_aprExits (f : Fld) (i j n : Nat) : (s.bump f i j n).aprExits = s.aprExits := rfl
@[simp] theorem bump_seen (f : Fld) (i j n : Nat) : (s.bump f i j n).seen = s.seen := rfl
@[simp] theorem bump_floodSeq (f : Fld) (i j n : Nat) : (s.bump f i j n).floodSeq = s.floodSeq := rfl
@[simp] theorem bump_netDown (f : Fld) (i j n : Nat) : (s.bump f i j n).netDown = s.netDown := rfl
@[simp] theorem bump_trailTx (f : Fld) (i j n : Nat) : (s.bump f i j n).trailTx = s.trailTx := rfl
@[simp] theorem bump_trailRx (f : Fld) (i j n : Nat) : (s.bump f i j n).trailRx = s.trailRx := rfl
@[simp] theorem bump_trailHeld (f : Fld) (i j n : Nat) : (s.bump f i j n).trailHeld = s.trailHeld := rfl
@[simp] theorem bump_loops (f : Fld) (i j n : Nat) : (s.bump f i j n).loops = s.loops := rfl
@[simp] theorem bump_scu (f : Fld) (i j n : Nat) : (s.bump f i j n).scu = s.scu := rfl
@[simp] theorem bump_bases (f : Fld) (i j n : Nat) : (s.bump f i j n).bases = s.bases := rfl
@[simp] theorem bump_clk (f : Fld) (i j n : Nat) : (s.bump f i j n).clk = s.clk := rfl
@[simp] theorem bump_tickFrac (f : Fld) (i j n : Nat) : (s.bump f i j n).tickFrac = s.tickFrac := rfl
@[simp] theorem bump_slew (f : Fld) (i j n : Nat) : (s.bump f i j n).slew = s.slew := rfl
@[simp] theorem bump_joined (f : Fld) (i j n : Nat) : (s.bump f i j n).joined = s.joined := rfl
@[simp] theorem bump_bkCount (f : Fld) (i j n : Nat) : (s.bump f i j n).bkCount = s.bkCount := rfl
@[simp] theorem bump_bkFrac (f : Fld) (i j n : Nat) : (s.bump f i j n).bkFrac = s.bkFrac := rfl
@[simp] theorem bump_host (f : Fld) (i j n : Nat) : (s.bump f i j n).host = s.host := rfl
@[simp] theorem bump_hbm (f : Fld) (i j n : Nat) : (s.bump f i j n).hbm = s.hbm := rfl
@[simp] theorem bump_poison (f : Fld) (i j n : Nat) : (s.bump f i j n).poison = s.poison := rfl
@[simp] theorem bump_cleared (f : Fld) (i j n : Nat) : (s.bump f i j n).cleared = s.cleared := rfl
@[simp] theorem bump_hbmErr (f : Fld) (i j n : Nat) : (s.bump f i j n).hbmErr = s.hbmErr := rfl
@[simp] theorem bump_frames (f : Fld) (i j n : Nat) : (s.bump f i j n).frames = s.frames := rfl
@[simp] theorem bump_refs (f : Fld) (i j n : Nat) : (s.bump f i j n).refs = s.refs := rfl
@[simp] theorem bump_retired (f : Fld) (i j n : Nat) : (s.bump f i j n).retired = s.retired := rfl
@[simp] theorem bump_retireDue (f : Fld) (i j n : Nat) : (s.bump f i j n).retireDue = s.retireDue := rfl
@[simp] theorem bump_ptPages (f : Fld) (i j n : Nat) : (s.bump f i j n).ptPages = s.ptPages := rfl
@[simp] theorem bump_locked (f : Fld) (i j n : Nat) : (s.bump f i j n).locked = s.locked := rfl
@[simp] theorem bump_faults (f : Fld) (i j n : Nat) : (s.bump f i j n).faults = s.faults := rfl
@[simp] theorem bump_faultSeq (f : Fld) (i j n : Nat) : (s.bump f i j n).faultSeq = s.faultSeq := rfl
@[simp] theorem bump_busMaster (f : Fld) (i j n : Nat) : (s.bump f i j n).busMaster = s.busMaster := rfl
@[simp] theorem bump_portUp (f : Fld) (i j n : Nat) : (s.bump f i j n).portUp = s.portUp := rfl
@[simp] theorem bump_inReset (f : Fld) (i j n : Nat) : (s.bump f i j n).inReset = s.inReset := rfl
@[simp] theorem bump_mute (f : Fld) (i j n : Nat) : (s.bump f i j n).mute = s.mute := rfl
@[simp] theorem bump_zeroLeft (f : Fld) (i j n : Nat) : (s.bump f i j n).zeroLeft = s.zeroLeft := rfl
@[simp] theorem bump_msix (f : Fld) (i j n : Nat) : (s.bump f i j n).msix = s.msix := rfl
@[simp] theorem bump_msixOut (f : Fld) (i j n : Nat) : (s.bump f i j n).msixOut = s.msixOut := rfl
@[simp] theorem bump_descs (f : Fld) (i j n : Nat) : (s.bump f i j n).descs = s.descs := rfl
@[simp] theorem bump_nextDesc (f : Fld) (i j n : Nat) : (s.bump f i j n).nextDesc = s.nextDesc := rfl
@[simp] theorem bump_nextEnd (f : Fld) (i j n : Nat) : (s.bump f i j n).nextEnd = s.nextEnd := rfl
@[simp] theorem bump_fetches (f : Fld) (i j n : Nat) : (s.bump f i j n).fetches = s.fetches := rfl
@[simp] theorem bump_cancels (f : Fld) (i j n : Nat) : (s.bump f i j n).cancels = s.cancels := rfl
@[simp] theorem bump_ringPtr (f : Fld) (i j n : Nat) : (s.bump f i j n).ringPtr = s.ringPtr := rfl
@[simp] theorem bump_copyPtr (f : Fld) (i j n : Nat) : (s.bump f i j n).copyPtr = s.copyPtr := rfl
@[simp] theorem bump_evPol (f : Fld) (i j n : Nat) : (s.bump f i j n).evPol = s.evPol := rfl
@[simp] theorem bump_evTgt (f : Fld) (i j n : Nat) : (s.bump f i j n).evTgt = s.evTgt := rfl
@[simp] theorem bump_sync (f : Fld) (i j n : Nat) : (s.bump f i j n).sync = s.sync := rfl
@[simp] theorem bump_adds (f : Fld) (i j n : Nat) : (s.bump f i j n).adds = s.adds := rfl
@[simp] theorem bump_remotes (f : Fld) (i j n : Nat) : (s.bump f i j n).remotes = s.remotes := rfl
@[simp] theorem bump_served (f : Fld) (i j n : Nat) : (s.bump f i j n).served = s.served := rfl
@[simp] theorem bump_nextAdd (f : Fld) (i j n : Nat) : (s.bump f i j n).nextAdd = s.nextAdd := rfl
@[simp] theorem bump_watchMet (f : Fld) (i j n : Nat) : (s.bump f i j n).watchMet = s.watchMet := rfl
@[simp] theorem bump_srcs (f : Fld) (i j n : Nat) : (s.bump f i j n).srcs = s.srcs := rfl
@[simp] theorem bump_tgts (f : Fld) (i j n : Nat) : (s.bump f i j n).tgts = s.tgts := rfl
@[simp] theorem bump_doms (f : Fld) (i j n : Nat) : (s.bump f i j n).doms = s.doms := rfl
@[simp] theorem bump_rails (f : Fld) (i j n : Nat) : (s.bump f i j n).rails = s.rails := rfl
@[simp] theorem bump_overT (f : Fld) (i j n : Nat) : (s.bump f i j n).overT = s.overT := rfl
@[simp] theorem bump_overWhy (f : Fld) (i j n : Nat) : (s.bump f i j n).overWhy = s.overWhy := rfl
@[simp] theorem bump_tj (f : Fld) (i j n : Nat) : (s.bump f i j n).tj = s.tj := rfl
@[simp] theorem bump_startMs (f : Fld) (i j n : Nat) : (s.bump f i j n).startMs = s.startMs := rfl
@[simp] theorem bump_calFile (f : Fld) (i j n : Nat) : (s.bump f i j n).calFile = s.calFile := rfl
@[simp] theorem bump_calFull (f : Fld) (i j n : Nat) : (s.bump f i j n).calFull = s.calFull := rfl
@[simp] theorem bump_cal (f : Fld) (i j n : Nat) : (s.bump f i j n).cal = s.cal := rfl
@[simp] theorem bump_settings (f : Fld) (i j n : Nat) : (s.bump f i j n).settings = s.settings := rfl
@[simp] theorem bump_flash (f : Fld) (i j n : Nat) : (s.bump f i j n).flash = s.flash := rfl
@[simp] theorem bump_laserWent (f : Fld) (i j n : Nat) : (s.bump f i j n).laserWent = s.laserWent := rfl
@[simp] theorem bump_discSince (f : Fld) (i j n : Nat) : (s.bump f i j n).discSince = s.discSince := rfl
@[simp] theorem bump_ctrs (f : Fld) (i j n : Nat) : (s.bump f i j n).ctrs = s.ctrs := rfl
@[simp] theorem bump_wrapped (f : Fld) (i j n : Nat) : (s.bump f i j n).wrapped = s.wrapped := rfl
@[simp] theorem bump_tmuxStep (f : Fld) (i j n : Nat) : (s.bump f i j n).tmuxStep = s.tmuxStep := rfl
@[simp] theorem bump_pins (f : Fld) (i j n : Nat) : (s.bump f i j n).pins = s.pins := rfl
@[simp] theorem bump_warden (f : Fld) (i j n : Nat) : (s.bump f i j n).warden = s.warden := rfl
@[simp] theorem bump_heldWrites (f : Fld) (i j n : Nat) : (s.bump f i j n).heldWrites = s.heldWrites := rfl
@[simp] theorem bump_mainPower (f : Fld) (i j n : Nat) : (s.bump f i j n).mainPower = s.mainPower := rfl
@[simp] theorem bump_vbat (f : Fld) (i j n : Nat) : (s.bump f i j n).vbat = s.vbat := rfl
@[simp] theorem bump_bkKept (f : Fld) (i j n : Nat) : (s.bump f i j n).bkKept = s.bkKept := rfl
@[simp] theorem tile_bump (f : Fld) (i j n : Nat) (n' : Nat) : (s.bump f i j n).tile n' = s.tile n' := rfl
@[simp] theorem hzEng_bump (f : Fld) (i j n : Nat) (n' : Nat) : (s.bump f i j n).hzEng n' = s.hzEng n' := rfl
@[simp] theorem engine_bump (f : Fld) (i j n : Nat) (n' : Nat) : (s.bump f i j n).engine n' = s.engine n' := rfl
@[simp] theorem link_bump (f : Fld) (i j n : Nat) (n' : Nat) : (s.bump f i j n).link n' = s.link n' := rfl
@[simp] theorem loop_bump (f : Fld) (i j n : Nat) (n' : Nat) : (s.bump f i j n).loop n' = s.loop n' := rfl
@[simp] theorem base_bump (f : Fld) (i j n : Nat) (n' : Nat) : (s.bump f i j n).base n' = s.base n' := rfl
@[simp] theorem src_bump (f : Fld) (i j n : Nat) (n' : Nat) : (s.bump f i j n).src n' = s.src n' := rfl
@[simp] theorem dom_bump (f : Fld) (i j n : Nat) (n' : Nat) : (s.bump f i j n).dom n' = s.dom n' := rfl
@[simp] theorem ctr_bump (f : Fld) (i j n : Nat) (n' : Nat) : (s.bump f i j n).ctr n' = s.ctr n' := rfl
@[simp] theorem calUnit_bump (f : Fld) (i j n : Nat) (n' : Nat) : (s.bump f i j n).calUnit n' = s.calUnit n' := rfl

/-! setTile. -/

@[simp] theorem setTile_pending (t : Nat) (x : Tile) : (s.setTile t x).pending = s.pending := rfl
@[simp] theorem setTile_part (t : Nat) (x : Tile) : (s.setTile t x).part = s.part := rfl
@[simp] theorem setTile_serial (t : Nat) (x : Tile) : (s.setTile t x).serial = s.serial := rfl
@[simp] theorem setTile_regs (t : Nat) (x : Tile) : (s.setTile t x).regs = s.regs := rfl
@[simp] theorem setTile_readData (t : Nat) (x : Tile) : (s.setTile t x).readData = s.readData := rfl
@[simp] theorem setTile_readBytes (t : Nat) (x : Tile) : (s.setTile t x).readBytes = s.readBytes := rfl
@[simp] theorem setTile_readPoison (t : Nat) (x : Tile) : (s.setTile t x).readPoison = s.readPoison := rfl
@[simp] theorem setTile_free (t : Nat) (x : Tile) : (s.setTile t x).free = s.free := rfl
@[simp] theorem setTile_tstore (t : Nat) (x : Tile) : (s.setTile t x).tstore = s.tstore := rfl
@[simp] theorem setTile_tsErr (t : Nat) (x : Tile) : (s.setTile t x).tsErr = s.tsErr := rfl
@[simp] theorem setTile_istore (t : Nat) (x : Tile) : (s.setTile t x).istore = s.istore := rfl
@[simp] theorem setTile_isErr (t : Nat) (x : Tile) : (s.setTile t x).isErr = s.isErr := rfl
@[simp] theorem setTile_scrubbed (t : Nat) (x : Tile) : (s.setTile t x).scrubbed = s.scrubbed := rfl
@[simp] theorem setTile_portPtr (t : Nat) (x : Tile) : (s.setTile t x).portPtr = s.portPtr := rfl
@[simp] theorem setTile_fbdMinStep (t : Nat) (x : Tile) : (s.setTile t x).fbdMinStep = s.fbdMinStep := rfl
@[simp] theorem setTile_fbdLastStep (t : Nat) (x : Tile) : (s.setTile t x).fbdLastStep = s.fbdLastStep := rfl
@[simp] theorem setTile_quotaB (t : Nat) (x : Tile) : (s.setTile t x).quotaB = s.quotaB := rfl
@[simp] theorem setTile_hz (t : Nat) (x : Tile) : (s.setTile t x).hz = s.hz := rfl
@[simp] theorem setTile_sched (t : Nat) (x : Tile) : (s.setTile t x).sched = s.sched := rfl
@[simp] theorem setTile_engines (t : Nat) (x : Tile) : (s.setTile t x).engines = s.engines := rfl
@[simp] theorem setTile_streams (t : Nat) (x : Tile) : (s.setTile t x).streams = s.streams := rfl
@[simp] theorem setTile_cache (t : Nat) (x : Tile) : (s.setTile t x).cache = s.cache := rfl
@[simp] theorem setTile_cacheMiss (t : Nat) (x : Tile) : (s.setTile t x).cacheMiss = s.cacheMiss := rfl
@[simp] theorem setTile_links (t : Nat) (x : Tile) : (s.setTile t x).links = s.links := rfl
@[simp] theorem setTile_laneTries (t : Nat) (x : Tile) : (s.setTile t x).laneTries = s.laneTries := rfl
@[simp] theorem setTile_laneQueue (t : Nat) (x : Tile) : (s.setTile t x).laneQueue = s.laneQueue := rfl
@[simp] theorem setTile_plan (t : Nat) (x : Tile) : (s.setTile t x).plan = s.plan := rfl
@[simp] theorem setTile_recable (t : Nat) (x : Tile) : (s.setTile t x).recable = s.recable := rfl
@[simp] theorem setTile_chanRx (t : Nat) (x : Tile) : (s.setTile t x).chanRx = s.chanRx := rfl
@[simp] theorem setTile_aprExits (t : Nat) (x : Tile) : (s.setTile t x).aprExits = s.aprExits := rfl
@[simp] theorem setTile_seen (t : Nat) (x : Tile) : (s.setTile t x).seen = s.seen := rfl
@[simp] theorem setTile_floodSeq (t : Nat) (x : Tile) : (s.setTile t x).floodSeq = s.floodSeq := rfl
@[simp] theorem setTile_netDown (t : Nat) (x : Tile) : (s.setTile t x).netDown = s.netDown := rfl
@[simp] theorem setTile_trailTx (t : Nat) (x : Tile) : (s.setTile t x).trailTx = s.trailTx := rfl
@[simp] theorem setTile_trailRx (t : Nat) (x : Tile) : (s.setTile t x).trailRx = s.trailRx := rfl
@[simp] theorem setTile_trailHeld (t : Nat) (x : Tile) : (s.setTile t x).trailHeld = s.trailHeld := rfl
@[simp] theorem setTile_loops (t : Nat) (x : Tile) : (s.setTile t x).loops = s.loops := rfl
@[simp] theorem setTile_scu (t : Nat) (x : Tile) : (s.setTile t x).scu = s.scu := rfl
@[simp] theorem setTile_bases (t : Nat) (x : Tile) : (s.setTile t x).bases = s.bases := rfl
@[simp] theorem setTile_clk (t : Nat) (x : Tile) : (s.setTile t x).clk = s.clk := rfl
@[simp] theorem setTile_tickFrac (t : Nat) (x : Tile) : (s.setTile t x).tickFrac = s.tickFrac := rfl
@[simp] theorem setTile_slew (t : Nat) (x : Tile) : (s.setTile t x).slew = s.slew := rfl
@[simp] theorem setTile_joined (t : Nat) (x : Tile) : (s.setTile t x).joined = s.joined := rfl
@[simp] theorem setTile_bkCount (t : Nat) (x : Tile) : (s.setTile t x).bkCount = s.bkCount := rfl
@[simp] theorem setTile_bkFrac (t : Nat) (x : Tile) : (s.setTile t x).bkFrac = s.bkFrac := rfl
@[simp] theorem setTile_host (t : Nat) (x : Tile) : (s.setTile t x).host = s.host := rfl
@[simp] theorem setTile_hbm (t : Nat) (x : Tile) : (s.setTile t x).hbm = s.hbm := rfl
@[simp] theorem setTile_poison (t : Nat) (x : Tile) : (s.setTile t x).poison = s.poison := rfl
@[simp] theorem setTile_cleared (t : Nat) (x : Tile) : (s.setTile t x).cleared = s.cleared := rfl
@[simp] theorem setTile_hbmErr (t : Nat) (x : Tile) : (s.setTile t x).hbmErr = s.hbmErr := rfl
@[simp] theorem setTile_frames (t : Nat) (x : Tile) : (s.setTile t x).frames = s.frames := rfl
@[simp] theorem setTile_refs (t : Nat) (x : Tile) : (s.setTile t x).refs = s.refs := rfl
@[simp] theorem setTile_retired (t : Nat) (x : Tile) : (s.setTile t x).retired = s.retired := rfl
@[simp] theorem setTile_retireDue (t : Nat) (x : Tile) : (s.setTile t x).retireDue = s.retireDue := rfl
@[simp] theorem setTile_ptPages (t : Nat) (x : Tile) : (s.setTile t x).ptPages = s.ptPages := rfl
@[simp] theorem setTile_locked (t : Nat) (x : Tile) : (s.setTile t x).locked = s.locked := rfl
@[simp] theorem setTile_faults (t : Nat) (x : Tile) : (s.setTile t x).faults = s.faults := rfl
@[simp] theorem setTile_faultSeq (t : Nat) (x : Tile) : (s.setTile t x).faultSeq = s.faultSeq := rfl
@[simp] theorem setTile_busMaster (t : Nat) (x : Tile) : (s.setTile t x).busMaster = s.busMaster := rfl
@[simp] theorem setTile_portUp (t : Nat) (x : Tile) : (s.setTile t x).portUp = s.portUp := rfl
@[simp] theorem setTile_inReset (t : Nat) (x : Tile) : (s.setTile t x).inReset = s.inReset := rfl
@[simp] theorem setTile_mute (t : Nat) (x : Tile) : (s.setTile t x).mute = s.mute := rfl
@[simp] theorem setTile_zeroLeft (t : Nat) (x : Tile) : (s.setTile t x).zeroLeft = s.zeroLeft := rfl
@[simp] theorem setTile_msix (t : Nat) (x : Tile) : (s.setTile t x).msix = s.msix := rfl
@[simp] theorem setTile_msixOut (t : Nat) (x : Tile) : (s.setTile t x).msixOut = s.msixOut := rfl
@[simp] theorem setTile_descs (t : Nat) (x : Tile) : (s.setTile t x).descs = s.descs := rfl
@[simp] theorem setTile_nextDesc (t : Nat) (x : Tile) : (s.setTile t x).nextDesc = s.nextDesc := rfl
@[simp] theorem setTile_nextEnd (t : Nat) (x : Tile) : (s.setTile t x).nextEnd = s.nextEnd := rfl
@[simp] theorem setTile_fetches (t : Nat) (x : Tile) : (s.setTile t x).fetches = s.fetches := rfl
@[simp] theorem setTile_cancels (t : Nat) (x : Tile) : (s.setTile t x).cancels = s.cancels := rfl
@[simp] theorem setTile_ringPtr (t : Nat) (x : Tile) : (s.setTile t x).ringPtr = s.ringPtr := rfl
@[simp] theorem setTile_copyPtr (t : Nat) (x : Tile) : (s.setTile t x).copyPtr = s.copyPtr := rfl
@[simp] theorem setTile_evPol (t : Nat) (x : Tile) : (s.setTile t x).evPol = s.evPol := rfl
@[simp] theorem setTile_evTgt (t : Nat) (x : Tile) : (s.setTile t x).evTgt = s.evTgt := rfl
@[simp] theorem setTile_sync (t : Nat) (x : Tile) : (s.setTile t x).sync = s.sync := rfl
@[simp] theorem setTile_adds (t : Nat) (x : Tile) : (s.setTile t x).adds = s.adds := rfl
@[simp] theorem setTile_remotes (t : Nat) (x : Tile) : (s.setTile t x).remotes = s.remotes := rfl
@[simp] theorem setTile_served (t : Nat) (x : Tile) : (s.setTile t x).served = s.served := rfl
@[simp] theorem setTile_nextAdd (t : Nat) (x : Tile) : (s.setTile t x).nextAdd = s.nextAdd := rfl
@[simp] theorem setTile_watchMet (t : Nat) (x : Tile) : (s.setTile t x).watchMet = s.watchMet := rfl
@[simp] theorem setTile_srcs (t : Nat) (x : Tile) : (s.setTile t x).srcs = s.srcs := rfl
@[simp] theorem setTile_tgts (t : Nat) (x : Tile) : (s.setTile t x).tgts = s.tgts := rfl
@[simp] theorem setTile_doms (t : Nat) (x : Tile) : (s.setTile t x).doms = s.doms := rfl
@[simp] theorem setTile_rails (t : Nat) (x : Tile) : (s.setTile t x).rails = s.rails := rfl
@[simp] theorem setTile_overT (t : Nat) (x : Tile) : (s.setTile t x).overT = s.overT := rfl
@[simp] theorem setTile_overWhy (t : Nat) (x : Tile) : (s.setTile t x).overWhy = s.overWhy := rfl
@[simp] theorem setTile_tj (t : Nat) (x : Tile) : (s.setTile t x).tj = s.tj := rfl
@[simp] theorem setTile_startMs (t : Nat) (x : Tile) : (s.setTile t x).startMs = s.startMs := rfl
@[simp] theorem setTile_calFile (t : Nat) (x : Tile) : (s.setTile t x).calFile = s.calFile := rfl
@[simp] theorem setTile_calFull (t : Nat) (x : Tile) : (s.setTile t x).calFull = s.calFull := rfl
@[simp] theorem setTile_cal (t : Nat) (x : Tile) : (s.setTile t x).cal = s.cal := rfl
@[simp] theorem setTile_settings (t : Nat) (x : Tile) : (s.setTile t x).settings = s.settings := rfl
@[simp] theorem setTile_flash (t : Nat) (x : Tile) : (s.setTile t x).flash = s.flash := rfl
@[simp] theorem setTile_laserWent (t : Nat) (x : Tile) : (s.setTile t x).laserWent = s.laserWent := rfl
@[simp] theorem setTile_discSince (t : Nat) (x : Tile) : (s.setTile t x).discSince = s.discSince := rfl
@[simp] theorem setTile_ctrs (t : Nat) (x : Tile) : (s.setTile t x).ctrs = s.ctrs := rfl
@[simp] theorem setTile_wrapped (t : Nat) (x : Tile) : (s.setTile t x).wrapped = s.wrapped := rfl
@[simp] theorem setTile_tmuxStep (t : Nat) (x : Tile) : (s.setTile t x).tmuxStep = s.tmuxStep := rfl
@[simp] theorem setTile_pins (t : Nat) (x : Tile) : (s.setTile t x).pins = s.pins := rfl
@[simp] theorem setTile_warden (t : Nat) (x : Tile) : (s.setTile t x).warden = s.warden := rfl
@[simp] theorem setTile_heldWrites (t : Nat) (x : Tile) : (s.setTile t x).heldWrites = s.heldWrites := rfl
@[simp] theorem setTile_mainPower (t : Nat) (x : Tile) : (s.setTile t x).mainPower = s.mainPower := rfl
@[simp] theorem setTile_vbat (t : Nat) (x : Tile) : (s.setTile t x).vbat = s.vbat := rfl
@[simp] theorem setTile_bkKept (t : Nat) (x : Tile) : (s.setTile t x).bkKept = s.bkKept := rfl
@[simp] theorem reg_setTile (t : Nat) (x : Tile) (r' : RegName) (i' j' : Nat) : (s.setTile t x).reg r' i' j' = s.reg r' i' j' := rfl
@[simp] theorem get_setTile (t : Nat) (x : Tile) (f' : Fld) (i' j' : Nat) : (s.setTile t x).get f' i' j' = s.get f' i' j' := rfl
@[simp] theorem bit_setTile (t : Nat) (x : Tile) (f' : Fld) (i' j' : Nat) : (s.setTile t x).bit f' i' j' = s.bit f' i' j' := rfl
@[simp] theorem hzEng_setTile (t : Nat) (x : Tile) (n' : Nat) : (s.setTile t x).hzEng n' = s.hzEng n' := rfl
@[simp] theorem engine_setTile (t : Nat) (x : Tile) (n' : Nat) : (s.setTile t x).engine n' = s.engine n' := rfl
@[simp] theorem link_setTile (t : Nat) (x : Tile) (n' : Nat) : (s.setTile t x).link n' = s.link n' := rfl
@[simp] theorem loop_setTile (t : Nat) (x : Tile) (n' : Nat) : (s.setTile t x).loop n' = s.loop n' := rfl
@[simp] theorem base_setTile (t : Nat) (x : Tile) (n' : Nat) : (s.setTile t x).base n' = s.base n' := rfl
@[simp] theorem src_setTile (t : Nat) (x : Tile) (n' : Nat) : (s.setTile t x).src n' = s.src n' := rfl
@[simp] theorem dom_setTile (t : Nat) (x : Tile) (n' : Nat) : (s.setTile t x).dom n' = s.dom n' := rfl
@[simp] theorem ctr_setTile (t : Nat) (x : Tile) (n' : Nat) : (s.setTile t x).ctr n' = s.ctr n' := rfl
@[simp] theorem calUnit_setTile (t : Nat) (x : Tile) (n' : Nat) : (s.setTile t x).calUnit n' = s.calUnit n' := rfl
@[simp] theorem tile_setTile_self (t : Nat) (x : Tile) : (s.setTile t x).tile t = x := by simp [tile, setTile]
theorem tile_setTile_ne (t : Nat) (x : Tile) (k' : Nat) (h : k' ≠ t) : (s.setTile t x).tile k' = s.tile k' := by simp [tile, setTile, SMap.get_set, h]
theorem tile_setTile (t : Nat) (x : Tile) (k' : Nat) : (s.setTile t x).tile k' = if k' = t then x else s.tile k' := by simp [tile, setTile, SMap.get_set]

/-! setHz. -/

@[simp] theorem setHz_pending (e : Nat) (x : HzEng) : (s.setHz e x).pending = s.pending := rfl
@[simp] theorem setHz_part (e : Nat) (x : HzEng) : (s.setHz e x).part = s.part := rfl
@[simp] theorem setHz_serial (e : Nat) (x : HzEng) : (s.setHz e x).serial = s.serial := rfl
@[simp] theorem setHz_regs (e : Nat) (x : HzEng) : (s.setHz e x).regs = s.regs := rfl
@[simp] theorem setHz_readData (e : Nat) (x : HzEng) : (s.setHz e x).readData = s.readData := rfl
@[simp] theorem setHz_readBytes (e : Nat) (x : HzEng) : (s.setHz e x).readBytes = s.readBytes := rfl
@[simp] theorem setHz_readPoison (e : Nat) (x : HzEng) : (s.setHz e x).readPoison = s.readPoison := rfl
@[simp] theorem setHz_free (e : Nat) (x : HzEng) : (s.setHz e x).free = s.free := rfl
@[simp] theorem setHz_tiles (e : Nat) (x : HzEng) : (s.setHz e x).tiles = s.tiles := rfl
@[simp] theorem setHz_tstore (e : Nat) (x : HzEng) : (s.setHz e x).tstore = s.tstore := rfl
@[simp] theorem setHz_tsErr (e : Nat) (x : HzEng) : (s.setHz e x).tsErr = s.tsErr := rfl
@[simp] theorem setHz_istore (e : Nat) (x : HzEng) : (s.setHz e x).istore = s.istore := rfl
@[simp] theorem setHz_isErr (e : Nat) (x : HzEng) : (s.setHz e x).isErr = s.isErr := rfl
@[simp] theorem setHz_scrubbed (e : Nat) (x : HzEng) : (s.setHz e x).scrubbed = s.scrubbed := rfl
@[simp] theorem setHz_portPtr (e : Nat) (x : HzEng) : (s.setHz e x).portPtr = s.portPtr := rfl
@[simp] theorem setHz_fbdMinStep (e : Nat) (x : HzEng) : (s.setHz e x).fbdMinStep = s.fbdMinStep := rfl
@[simp] theorem setHz_fbdLastStep (e : Nat) (x : HzEng) : (s.setHz e x).fbdLastStep = s.fbdLastStep := rfl
@[simp] theorem setHz_quotaB (e : Nat) (x : HzEng) : (s.setHz e x).quotaB = s.quotaB := rfl
@[simp] theorem setHz_sched (e : Nat) (x : HzEng) : (s.setHz e x).sched = s.sched := rfl
@[simp] theorem setHz_engines (e : Nat) (x : HzEng) : (s.setHz e x).engines = s.engines := rfl
@[simp] theorem setHz_streams (e : Nat) (x : HzEng) : (s.setHz e x).streams = s.streams := rfl
@[simp] theorem setHz_cache (e : Nat) (x : HzEng) : (s.setHz e x).cache = s.cache := rfl
@[simp] theorem setHz_cacheMiss (e : Nat) (x : HzEng) : (s.setHz e x).cacheMiss = s.cacheMiss := rfl
@[simp] theorem setHz_links (e : Nat) (x : HzEng) : (s.setHz e x).links = s.links := rfl
@[simp] theorem setHz_laneTries (e : Nat) (x : HzEng) : (s.setHz e x).laneTries = s.laneTries := rfl
@[simp] theorem setHz_laneQueue (e : Nat) (x : HzEng) : (s.setHz e x).laneQueue = s.laneQueue := rfl
@[simp] theorem setHz_plan (e : Nat) (x : HzEng) : (s.setHz e x).plan = s.plan := rfl
@[simp] theorem setHz_recable (e : Nat) (x : HzEng) : (s.setHz e x).recable = s.recable := rfl
@[simp] theorem setHz_chanRx (e : Nat) (x : HzEng) : (s.setHz e x).chanRx = s.chanRx := rfl
@[simp] theorem setHz_aprExits (e : Nat) (x : HzEng) : (s.setHz e x).aprExits = s.aprExits := rfl
@[simp] theorem setHz_seen (e : Nat) (x : HzEng) : (s.setHz e x).seen = s.seen := rfl
@[simp] theorem setHz_floodSeq (e : Nat) (x : HzEng) : (s.setHz e x).floodSeq = s.floodSeq := rfl
@[simp] theorem setHz_netDown (e : Nat) (x : HzEng) : (s.setHz e x).netDown = s.netDown := rfl
@[simp] theorem setHz_trailTx (e : Nat) (x : HzEng) : (s.setHz e x).trailTx = s.trailTx := rfl
@[simp] theorem setHz_trailRx (e : Nat) (x : HzEng) : (s.setHz e x).trailRx = s.trailRx := rfl
@[simp] theorem setHz_trailHeld (e : Nat) (x : HzEng) : (s.setHz e x).trailHeld = s.trailHeld := rfl
@[simp] theorem setHz_loops (e : Nat) (x : HzEng) : (s.setHz e x).loops = s.loops := rfl
@[simp] theorem setHz_scu (e : Nat) (x : HzEng) : (s.setHz e x).scu = s.scu := rfl
@[simp] theorem setHz_bases (e : Nat) (x : HzEng) : (s.setHz e x).bases = s.bases := rfl
@[simp] theorem setHz_clk (e : Nat) (x : HzEng) : (s.setHz e x).clk = s.clk := rfl
@[simp] theorem setHz_tickFrac (e : Nat) (x : HzEng) : (s.setHz e x).tickFrac = s.tickFrac := rfl
@[simp] theorem setHz_slew (e : Nat) (x : HzEng) : (s.setHz e x).slew = s.slew := rfl
@[simp] theorem setHz_joined (e : Nat) (x : HzEng) : (s.setHz e x).joined = s.joined := rfl
@[simp] theorem setHz_bkCount (e : Nat) (x : HzEng) : (s.setHz e x).bkCount = s.bkCount := rfl
@[simp] theorem setHz_bkFrac (e : Nat) (x : HzEng) : (s.setHz e x).bkFrac = s.bkFrac := rfl
@[simp] theorem setHz_host (e : Nat) (x : HzEng) : (s.setHz e x).host = s.host := rfl
@[simp] theorem setHz_hbm (e : Nat) (x : HzEng) : (s.setHz e x).hbm = s.hbm := rfl
@[simp] theorem setHz_poison (e : Nat) (x : HzEng) : (s.setHz e x).poison = s.poison := rfl
@[simp] theorem setHz_cleared (e : Nat) (x : HzEng) : (s.setHz e x).cleared = s.cleared := rfl
@[simp] theorem setHz_hbmErr (e : Nat) (x : HzEng) : (s.setHz e x).hbmErr = s.hbmErr := rfl
@[simp] theorem setHz_frames (e : Nat) (x : HzEng) : (s.setHz e x).frames = s.frames := rfl
@[simp] theorem setHz_refs (e : Nat) (x : HzEng) : (s.setHz e x).refs = s.refs := rfl
@[simp] theorem setHz_retired (e : Nat) (x : HzEng) : (s.setHz e x).retired = s.retired := rfl
@[simp] theorem setHz_retireDue (e : Nat) (x : HzEng) : (s.setHz e x).retireDue = s.retireDue := rfl
@[simp] theorem setHz_ptPages (e : Nat) (x : HzEng) : (s.setHz e x).ptPages = s.ptPages := rfl
@[simp] theorem setHz_locked (e : Nat) (x : HzEng) : (s.setHz e x).locked = s.locked := rfl
@[simp] theorem setHz_faults (e : Nat) (x : HzEng) : (s.setHz e x).faults = s.faults := rfl
@[simp] theorem setHz_faultSeq (e : Nat) (x : HzEng) : (s.setHz e x).faultSeq = s.faultSeq := rfl
@[simp] theorem setHz_busMaster (e : Nat) (x : HzEng) : (s.setHz e x).busMaster = s.busMaster := rfl
@[simp] theorem setHz_portUp (e : Nat) (x : HzEng) : (s.setHz e x).portUp = s.portUp := rfl
@[simp] theorem setHz_inReset (e : Nat) (x : HzEng) : (s.setHz e x).inReset = s.inReset := rfl
@[simp] theorem setHz_mute (e : Nat) (x : HzEng) : (s.setHz e x).mute = s.mute := rfl
@[simp] theorem setHz_zeroLeft (e : Nat) (x : HzEng) : (s.setHz e x).zeroLeft = s.zeroLeft := rfl
@[simp] theorem setHz_msix (e : Nat) (x : HzEng) : (s.setHz e x).msix = s.msix := rfl
@[simp] theorem setHz_msixOut (e : Nat) (x : HzEng) : (s.setHz e x).msixOut = s.msixOut := rfl
@[simp] theorem setHz_descs (e : Nat) (x : HzEng) : (s.setHz e x).descs = s.descs := rfl
@[simp] theorem setHz_nextDesc (e : Nat) (x : HzEng) : (s.setHz e x).nextDesc = s.nextDesc := rfl
@[simp] theorem setHz_nextEnd (e : Nat) (x : HzEng) : (s.setHz e x).nextEnd = s.nextEnd := rfl
@[simp] theorem setHz_fetches (e : Nat) (x : HzEng) : (s.setHz e x).fetches = s.fetches := rfl
@[simp] theorem setHz_cancels (e : Nat) (x : HzEng) : (s.setHz e x).cancels = s.cancels := rfl
@[simp] theorem setHz_ringPtr (e : Nat) (x : HzEng) : (s.setHz e x).ringPtr = s.ringPtr := rfl
@[simp] theorem setHz_copyPtr (e : Nat) (x : HzEng) : (s.setHz e x).copyPtr = s.copyPtr := rfl
@[simp] theorem setHz_evPol (e : Nat) (x : HzEng) : (s.setHz e x).evPol = s.evPol := rfl
@[simp] theorem setHz_evTgt (e : Nat) (x : HzEng) : (s.setHz e x).evTgt = s.evTgt := rfl
@[simp] theorem setHz_sync (e : Nat) (x : HzEng) : (s.setHz e x).sync = s.sync := rfl
@[simp] theorem setHz_adds (e : Nat) (x : HzEng) : (s.setHz e x).adds = s.adds := rfl
@[simp] theorem setHz_remotes (e : Nat) (x : HzEng) : (s.setHz e x).remotes = s.remotes := rfl
@[simp] theorem setHz_served (e : Nat) (x : HzEng) : (s.setHz e x).served = s.served := rfl
@[simp] theorem setHz_nextAdd (e : Nat) (x : HzEng) : (s.setHz e x).nextAdd = s.nextAdd := rfl
@[simp] theorem setHz_watchMet (e : Nat) (x : HzEng) : (s.setHz e x).watchMet = s.watchMet := rfl
@[simp] theorem setHz_srcs (e : Nat) (x : HzEng) : (s.setHz e x).srcs = s.srcs := rfl
@[simp] theorem setHz_tgts (e : Nat) (x : HzEng) : (s.setHz e x).tgts = s.tgts := rfl
@[simp] theorem setHz_doms (e : Nat) (x : HzEng) : (s.setHz e x).doms = s.doms := rfl
@[simp] theorem setHz_rails (e : Nat) (x : HzEng) : (s.setHz e x).rails = s.rails := rfl
@[simp] theorem setHz_overT (e : Nat) (x : HzEng) : (s.setHz e x).overT = s.overT := rfl
@[simp] theorem setHz_overWhy (e : Nat) (x : HzEng) : (s.setHz e x).overWhy = s.overWhy := rfl
@[simp] theorem setHz_tj (e : Nat) (x : HzEng) : (s.setHz e x).tj = s.tj := rfl
@[simp] theorem setHz_startMs (e : Nat) (x : HzEng) : (s.setHz e x).startMs = s.startMs := rfl
@[simp] theorem setHz_calFile (e : Nat) (x : HzEng) : (s.setHz e x).calFile = s.calFile := rfl
@[simp] theorem setHz_calFull (e : Nat) (x : HzEng) : (s.setHz e x).calFull = s.calFull := rfl
@[simp] theorem setHz_cal (e : Nat) (x : HzEng) : (s.setHz e x).cal = s.cal := rfl
@[simp] theorem setHz_settings (e : Nat) (x : HzEng) : (s.setHz e x).settings = s.settings := rfl
@[simp] theorem setHz_flash (e : Nat) (x : HzEng) : (s.setHz e x).flash = s.flash := rfl
@[simp] theorem setHz_laserWent (e : Nat) (x : HzEng) : (s.setHz e x).laserWent = s.laserWent := rfl
@[simp] theorem setHz_discSince (e : Nat) (x : HzEng) : (s.setHz e x).discSince = s.discSince := rfl
@[simp] theorem setHz_ctrs (e : Nat) (x : HzEng) : (s.setHz e x).ctrs = s.ctrs := rfl
@[simp] theorem setHz_wrapped (e : Nat) (x : HzEng) : (s.setHz e x).wrapped = s.wrapped := rfl
@[simp] theorem setHz_tmuxStep (e : Nat) (x : HzEng) : (s.setHz e x).tmuxStep = s.tmuxStep := rfl
@[simp] theorem setHz_pins (e : Nat) (x : HzEng) : (s.setHz e x).pins = s.pins := rfl
@[simp] theorem setHz_warden (e : Nat) (x : HzEng) : (s.setHz e x).warden = s.warden := rfl
@[simp] theorem setHz_heldWrites (e : Nat) (x : HzEng) : (s.setHz e x).heldWrites = s.heldWrites := rfl
@[simp] theorem setHz_mainPower (e : Nat) (x : HzEng) : (s.setHz e x).mainPower = s.mainPower := rfl
@[simp] theorem setHz_vbat (e : Nat) (x : HzEng) : (s.setHz e x).vbat = s.vbat := rfl
@[simp] theorem setHz_bkKept (e : Nat) (x : HzEng) : (s.setHz e x).bkKept = s.bkKept := rfl
@[simp] theorem reg_setHz (e : Nat) (x : HzEng) (r' : RegName) (i' j' : Nat) : (s.setHz e x).reg r' i' j' = s.reg r' i' j' := rfl
@[simp] theorem get_setHz (e : Nat) (x : HzEng) (f' : Fld) (i' j' : Nat) : (s.setHz e x).get f' i' j' = s.get f' i' j' := rfl
@[simp] theorem bit_setHz (e : Nat) (x : HzEng) (f' : Fld) (i' j' : Nat) : (s.setHz e x).bit f' i' j' = s.bit f' i' j' := rfl
@[simp] theorem tile_setHz (e : Nat) (x : HzEng) (n' : Nat) : (s.setHz e x).tile n' = s.tile n' := rfl
@[simp] theorem engine_setHz (e : Nat) (x : HzEng) (n' : Nat) : (s.setHz e x).engine n' = s.engine n' := rfl
@[simp] theorem link_setHz (e : Nat) (x : HzEng) (n' : Nat) : (s.setHz e x).link n' = s.link n' := rfl
@[simp] theorem loop_setHz (e : Nat) (x : HzEng) (n' : Nat) : (s.setHz e x).loop n' = s.loop n' := rfl
@[simp] theorem base_setHz (e : Nat) (x : HzEng) (n' : Nat) : (s.setHz e x).base n' = s.base n' := rfl
@[simp] theorem src_setHz (e : Nat) (x : HzEng) (n' : Nat) : (s.setHz e x).src n' = s.src n' := rfl
@[simp] theorem dom_setHz (e : Nat) (x : HzEng) (n' : Nat) : (s.setHz e x).dom n' = s.dom n' := rfl
@[simp] theorem ctr_setHz (e : Nat) (x : HzEng) (n' : Nat) : (s.setHz e x).ctr n' = s.ctr n' := rfl
@[simp] theorem calUnit_setHz (e : Nat) (x : HzEng) (n' : Nat) : (s.setHz e x).calUnit n' = s.calUnit n' := rfl
@[simp] theorem hzEng_setHz_self (e : Nat) (x : HzEng) : (s.setHz e x).hzEng e = x := by simp [hzEng, setHz]
theorem hzEng_setHz_ne (e : Nat) (x : HzEng) (k' : Nat) (h : k' ≠ e) : (s.setHz e x).hzEng k' = s.hzEng k' := by simp [hzEng, setHz, SMap.get_set, h]
theorem hzEng_setHz (e : Nat) (x : HzEng) (k' : Nat) : (s.setHz e x).hzEng k' = if k' = e then x else s.hzEng k' := by simp [hzEng, setHz, SMap.get_set]

/-! setEngine. -/

@[simp] theorem setEngine_pending (n : Nat) (x : Engine) : (s.setEngine n x).pending = s.pending := rfl
@[simp] theorem setEngine_part (n : Nat) (x : Engine) : (s.setEngine n x).part = s.part := rfl
@[simp] theorem setEngine_serial (n : Nat) (x : Engine) : (s.setEngine n x).serial = s.serial := rfl
@[simp] theorem setEngine_regs (n : Nat) (x : Engine) : (s.setEngine n x).regs = s.regs := rfl
@[simp] theorem setEngine_readData (n : Nat) (x : Engine) : (s.setEngine n x).readData = s.readData := rfl
@[simp] theorem setEngine_readBytes (n : Nat) (x : Engine) : (s.setEngine n x).readBytes = s.readBytes := rfl
@[simp] theorem setEngine_readPoison (n : Nat) (x : Engine) : (s.setEngine n x).readPoison = s.readPoison := rfl
@[simp] theorem setEngine_free (n : Nat) (x : Engine) : (s.setEngine n x).free = s.free := rfl
@[simp] theorem setEngine_tiles (n : Nat) (x : Engine) : (s.setEngine n x).tiles = s.tiles := rfl
@[simp] theorem setEngine_tstore (n : Nat) (x : Engine) : (s.setEngine n x).tstore = s.tstore := rfl
@[simp] theorem setEngine_tsErr (n : Nat) (x : Engine) : (s.setEngine n x).tsErr = s.tsErr := rfl
@[simp] theorem setEngine_istore (n : Nat) (x : Engine) : (s.setEngine n x).istore = s.istore := rfl
@[simp] theorem setEngine_isErr (n : Nat) (x : Engine) : (s.setEngine n x).isErr = s.isErr := rfl
@[simp] theorem setEngine_scrubbed (n : Nat) (x : Engine) : (s.setEngine n x).scrubbed = s.scrubbed := rfl
@[simp] theorem setEngine_portPtr (n : Nat) (x : Engine) : (s.setEngine n x).portPtr = s.portPtr := rfl
@[simp] theorem setEngine_fbdMinStep (n : Nat) (x : Engine) : (s.setEngine n x).fbdMinStep = s.fbdMinStep := rfl
@[simp] theorem setEngine_fbdLastStep (n : Nat) (x : Engine) : (s.setEngine n x).fbdLastStep = s.fbdLastStep := rfl
@[simp] theorem setEngine_quotaB (n : Nat) (x : Engine) : (s.setEngine n x).quotaB = s.quotaB := rfl
@[simp] theorem setEngine_hz (n : Nat) (x : Engine) : (s.setEngine n x).hz = s.hz := rfl
@[simp] theorem setEngine_sched (n : Nat) (x : Engine) : (s.setEngine n x).sched = s.sched := rfl
@[simp] theorem setEngine_streams (n : Nat) (x : Engine) : (s.setEngine n x).streams = s.streams := rfl
@[simp] theorem setEngine_cache (n : Nat) (x : Engine) : (s.setEngine n x).cache = s.cache := rfl
@[simp] theorem setEngine_cacheMiss (n : Nat) (x : Engine) : (s.setEngine n x).cacheMiss = s.cacheMiss := rfl
@[simp] theorem setEngine_links (n : Nat) (x : Engine) : (s.setEngine n x).links = s.links := rfl
@[simp] theorem setEngine_laneTries (n : Nat) (x : Engine) : (s.setEngine n x).laneTries = s.laneTries := rfl
@[simp] theorem setEngine_laneQueue (n : Nat) (x : Engine) : (s.setEngine n x).laneQueue = s.laneQueue := rfl
@[simp] theorem setEngine_plan (n : Nat) (x : Engine) : (s.setEngine n x).plan = s.plan := rfl
@[simp] theorem setEngine_recable (n : Nat) (x : Engine) : (s.setEngine n x).recable = s.recable := rfl
@[simp] theorem setEngine_chanRx (n : Nat) (x : Engine) : (s.setEngine n x).chanRx = s.chanRx := rfl
@[simp] theorem setEngine_aprExits (n : Nat) (x : Engine) : (s.setEngine n x).aprExits = s.aprExits := rfl
@[simp] theorem setEngine_seen (n : Nat) (x : Engine) : (s.setEngine n x).seen = s.seen := rfl
@[simp] theorem setEngine_floodSeq (n : Nat) (x : Engine) : (s.setEngine n x).floodSeq = s.floodSeq := rfl
@[simp] theorem setEngine_netDown (n : Nat) (x : Engine) : (s.setEngine n x).netDown = s.netDown := rfl
@[simp] theorem setEngine_trailTx (n : Nat) (x : Engine) : (s.setEngine n x).trailTx = s.trailTx := rfl
@[simp] theorem setEngine_trailRx (n : Nat) (x : Engine) : (s.setEngine n x).trailRx = s.trailRx := rfl
@[simp] theorem setEngine_trailHeld (n : Nat) (x : Engine) : (s.setEngine n x).trailHeld = s.trailHeld := rfl
@[simp] theorem setEngine_loops (n : Nat) (x : Engine) : (s.setEngine n x).loops = s.loops := rfl
@[simp] theorem setEngine_scu (n : Nat) (x : Engine) : (s.setEngine n x).scu = s.scu := rfl
@[simp] theorem setEngine_bases (n : Nat) (x : Engine) : (s.setEngine n x).bases = s.bases := rfl
@[simp] theorem setEngine_clk (n : Nat) (x : Engine) : (s.setEngine n x).clk = s.clk := rfl
@[simp] theorem setEngine_tickFrac (n : Nat) (x : Engine) : (s.setEngine n x).tickFrac = s.tickFrac := rfl
@[simp] theorem setEngine_slew (n : Nat) (x : Engine) : (s.setEngine n x).slew = s.slew := rfl
@[simp] theorem setEngine_joined (n : Nat) (x : Engine) : (s.setEngine n x).joined = s.joined := rfl
@[simp] theorem setEngine_bkCount (n : Nat) (x : Engine) : (s.setEngine n x).bkCount = s.bkCount := rfl
@[simp] theorem setEngine_bkFrac (n : Nat) (x : Engine) : (s.setEngine n x).bkFrac = s.bkFrac := rfl
@[simp] theorem setEngine_host (n : Nat) (x : Engine) : (s.setEngine n x).host = s.host := rfl
@[simp] theorem setEngine_hbm (n : Nat) (x : Engine) : (s.setEngine n x).hbm = s.hbm := rfl
@[simp] theorem setEngine_poison (n : Nat) (x : Engine) : (s.setEngine n x).poison = s.poison := rfl
@[simp] theorem setEngine_cleared (n : Nat) (x : Engine) : (s.setEngine n x).cleared = s.cleared := rfl
@[simp] theorem setEngine_hbmErr (n : Nat) (x : Engine) : (s.setEngine n x).hbmErr = s.hbmErr := rfl
@[simp] theorem setEngine_frames (n : Nat) (x : Engine) : (s.setEngine n x).frames = s.frames := rfl
@[simp] theorem setEngine_refs (n : Nat) (x : Engine) : (s.setEngine n x).refs = s.refs := rfl
@[simp] theorem setEngine_retired (n : Nat) (x : Engine) : (s.setEngine n x).retired = s.retired := rfl
@[simp] theorem setEngine_retireDue (n : Nat) (x : Engine) : (s.setEngine n x).retireDue = s.retireDue := rfl
@[simp] theorem setEngine_ptPages (n : Nat) (x : Engine) : (s.setEngine n x).ptPages = s.ptPages := rfl
@[simp] theorem setEngine_locked (n : Nat) (x : Engine) : (s.setEngine n x).locked = s.locked := rfl
@[simp] theorem setEngine_faults (n : Nat) (x : Engine) : (s.setEngine n x).faults = s.faults := rfl
@[simp] theorem setEngine_faultSeq (n : Nat) (x : Engine) : (s.setEngine n x).faultSeq = s.faultSeq := rfl
@[simp] theorem setEngine_busMaster (n : Nat) (x : Engine) : (s.setEngine n x).busMaster = s.busMaster := rfl
@[simp] theorem setEngine_portUp (n : Nat) (x : Engine) : (s.setEngine n x).portUp = s.portUp := rfl
@[simp] theorem setEngine_inReset (n : Nat) (x : Engine) : (s.setEngine n x).inReset = s.inReset := rfl
@[simp] theorem setEngine_mute (n : Nat) (x : Engine) : (s.setEngine n x).mute = s.mute := rfl
@[simp] theorem setEngine_zeroLeft (n : Nat) (x : Engine) : (s.setEngine n x).zeroLeft = s.zeroLeft := rfl
@[simp] theorem setEngine_msix (n : Nat) (x : Engine) : (s.setEngine n x).msix = s.msix := rfl
@[simp] theorem setEngine_msixOut (n : Nat) (x : Engine) : (s.setEngine n x).msixOut = s.msixOut := rfl
@[simp] theorem setEngine_descs (n : Nat) (x : Engine) : (s.setEngine n x).descs = s.descs := rfl
@[simp] theorem setEngine_nextDesc (n : Nat) (x : Engine) : (s.setEngine n x).nextDesc = s.nextDesc := rfl
@[simp] theorem setEngine_nextEnd (n : Nat) (x : Engine) : (s.setEngine n x).nextEnd = s.nextEnd := rfl
@[simp] theorem setEngine_fetches (n : Nat) (x : Engine) : (s.setEngine n x).fetches = s.fetches := rfl
@[simp] theorem setEngine_cancels (n : Nat) (x : Engine) : (s.setEngine n x).cancels = s.cancels := rfl
@[simp] theorem setEngine_ringPtr (n : Nat) (x : Engine) : (s.setEngine n x).ringPtr = s.ringPtr := rfl
@[simp] theorem setEngine_copyPtr (n : Nat) (x : Engine) : (s.setEngine n x).copyPtr = s.copyPtr := rfl
@[simp] theorem setEngine_evPol (n : Nat) (x : Engine) : (s.setEngine n x).evPol = s.evPol := rfl
@[simp] theorem setEngine_evTgt (n : Nat) (x : Engine) : (s.setEngine n x).evTgt = s.evTgt := rfl
@[simp] theorem setEngine_sync (n : Nat) (x : Engine) : (s.setEngine n x).sync = s.sync := rfl
@[simp] theorem setEngine_adds (n : Nat) (x : Engine) : (s.setEngine n x).adds = s.adds := rfl
@[simp] theorem setEngine_remotes (n : Nat) (x : Engine) : (s.setEngine n x).remotes = s.remotes := rfl
@[simp] theorem setEngine_served (n : Nat) (x : Engine) : (s.setEngine n x).served = s.served := rfl
@[simp] theorem setEngine_nextAdd (n : Nat) (x : Engine) : (s.setEngine n x).nextAdd = s.nextAdd := rfl
@[simp] theorem setEngine_watchMet (n : Nat) (x : Engine) : (s.setEngine n x).watchMet = s.watchMet := rfl
@[simp] theorem setEngine_srcs (n : Nat) (x : Engine) : (s.setEngine n x).srcs = s.srcs := rfl
@[simp] theorem setEngine_tgts (n : Nat) (x : Engine) : (s.setEngine n x).tgts = s.tgts := rfl
@[simp] theorem setEngine_doms (n : Nat) (x : Engine) : (s.setEngine n x).doms = s.doms := rfl
@[simp] theorem setEngine_rails (n : Nat) (x : Engine) : (s.setEngine n x).rails = s.rails := rfl
@[simp] theorem setEngine_overT (n : Nat) (x : Engine) : (s.setEngine n x).overT = s.overT := rfl
@[simp] theorem setEngine_overWhy (n : Nat) (x : Engine) : (s.setEngine n x).overWhy = s.overWhy := rfl
@[simp] theorem setEngine_tj (n : Nat) (x : Engine) : (s.setEngine n x).tj = s.tj := rfl
@[simp] theorem setEngine_startMs (n : Nat) (x : Engine) : (s.setEngine n x).startMs = s.startMs := rfl
@[simp] theorem setEngine_calFile (n : Nat) (x : Engine) : (s.setEngine n x).calFile = s.calFile := rfl
@[simp] theorem setEngine_calFull (n : Nat) (x : Engine) : (s.setEngine n x).calFull = s.calFull := rfl
@[simp] theorem setEngine_cal (n : Nat) (x : Engine) : (s.setEngine n x).cal = s.cal := rfl
@[simp] theorem setEngine_settings (n : Nat) (x : Engine) : (s.setEngine n x).settings = s.settings := rfl
@[simp] theorem setEngine_flash (n : Nat) (x : Engine) : (s.setEngine n x).flash = s.flash := rfl
@[simp] theorem setEngine_laserWent (n : Nat) (x : Engine) : (s.setEngine n x).laserWent = s.laserWent := rfl
@[simp] theorem setEngine_discSince (n : Nat) (x : Engine) : (s.setEngine n x).discSince = s.discSince := rfl
@[simp] theorem setEngine_ctrs (n : Nat) (x : Engine) : (s.setEngine n x).ctrs = s.ctrs := rfl
@[simp] theorem setEngine_wrapped (n : Nat) (x : Engine) : (s.setEngine n x).wrapped = s.wrapped := rfl
@[simp] theorem setEngine_tmuxStep (n : Nat) (x : Engine) : (s.setEngine n x).tmuxStep = s.tmuxStep := rfl
@[simp] theorem setEngine_pins (n : Nat) (x : Engine) : (s.setEngine n x).pins = s.pins := rfl
@[simp] theorem setEngine_warden (n : Nat) (x : Engine) : (s.setEngine n x).warden = s.warden := rfl
@[simp] theorem setEngine_heldWrites (n : Nat) (x : Engine) : (s.setEngine n x).heldWrites = s.heldWrites := rfl
@[simp] theorem setEngine_mainPower (n : Nat) (x : Engine) : (s.setEngine n x).mainPower = s.mainPower := rfl
@[simp] theorem setEngine_vbat (n : Nat) (x : Engine) : (s.setEngine n x).vbat = s.vbat := rfl
@[simp] theorem setEngine_bkKept (n : Nat) (x : Engine) : (s.setEngine n x).bkKept = s.bkKept := rfl
@[simp] theorem reg_setEngine (n : Nat) (x : Engine) (r' : RegName) (i' j' : Nat) : (s.setEngine n x).reg r' i' j' = s.reg r' i' j' := rfl
@[simp] theorem get_setEngine (n : Nat) (x : Engine) (f' : Fld) (i' j' : Nat) : (s.setEngine n x).get f' i' j' = s.get f' i' j' := rfl
@[simp] theorem bit_setEngine (n : Nat) (x : Engine) (f' : Fld) (i' j' : Nat) : (s.setEngine n x).bit f' i' j' = s.bit f' i' j' := rfl
@[simp] theorem tile_setEngine (n : Nat) (x : Engine) (n' : Nat) : (s.setEngine n x).tile n' = s.tile n' := rfl
@[simp] theorem hzEng_setEngine (n : Nat) (x : Engine) (n' : Nat) : (s.setEngine n x).hzEng n' = s.hzEng n' := rfl
@[simp] theorem link_setEngine (n : Nat) (x : Engine) (n' : Nat) : (s.setEngine n x).link n' = s.link n' := rfl
@[simp] theorem loop_setEngine (n : Nat) (x : Engine) (n' : Nat) : (s.setEngine n x).loop n' = s.loop n' := rfl
@[simp] theorem base_setEngine (n : Nat) (x : Engine) (n' : Nat) : (s.setEngine n x).base n' = s.base n' := rfl
@[simp] theorem src_setEngine (n : Nat) (x : Engine) (n' : Nat) : (s.setEngine n x).src n' = s.src n' := rfl
@[simp] theorem dom_setEngine (n : Nat) (x : Engine) (n' : Nat) : (s.setEngine n x).dom n' = s.dom n' := rfl
@[simp] theorem ctr_setEngine (n : Nat) (x : Engine) (n' : Nat) : (s.setEngine n x).ctr n' = s.ctr n' := rfl
@[simp] theorem calUnit_setEngine (n : Nat) (x : Engine) (n' : Nat) : (s.setEngine n x).calUnit n' = s.calUnit n' := rfl
@[simp] theorem engine_setEngine_self (n : Nat) (x : Engine) : (s.setEngine n x).engine n = x := by simp [engine, setEngine]
theorem engine_setEngine_ne (n : Nat) (x : Engine) (k' : Nat) (h : k' ≠ n) : (s.setEngine n x).engine k' = s.engine k' := by simp [engine, setEngine, SMap.get_set, h]
theorem engine_setEngine (n : Nat) (x : Engine) (k' : Nat) : (s.setEngine n x).engine k' = if k' = n then x else s.engine k' := by simp [engine, setEngine, SMap.get_set]

/-! setLink. -/

@[simp] theorem setLink_pending (k : Nat) (x : Link) : (s.setLink k x).pending = s.pending := rfl
@[simp] theorem setLink_part (k : Nat) (x : Link) : (s.setLink k x).part = s.part := rfl
@[simp] theorem setLink_serial (k : Nat) (x : Link) : (s.setLink k x).serial = s.serial := rfl
@[simp] theorem setLink_regs (k : Nat) (x : Link) : (s.setLink k x).regs = s.regs := rfl
@[simp] theorem setLink_readData (k : Nat) (x : Link) : (s.setLink k x).readData = s.readData := rfl
@[simp] theorem setLink_readBytes (k : Nat) (x : Link) : (s.setLink k x).readBytes = s.readBytes := rfl
@[simp] theorem setLink_readPoison (k : Nat) (x : Link) : (s.setLink k x).readPoison = s.readPoison := rfl
@[simp] theorem setLink_free (k : Nat) (x : Link) : (s.setLink k x).free = s.free := rfl
@[simp] theorem setLink_tiles (k : Nat) (x : Link) : (s.setLink k x).tiles = s.tiles := rfl
@[simp] theorem setLink_tstore (k : Nat) (x : Link) : (s.setLink k x).tstore = s.tstore := rfl
@[simp] theorem setLink_tsErr (k : Nat) (x : Link) : (s.setLink k x).tsErr = s.tsErr := rfl
@[simp] theorem setLink_istore (k : Nat) (x : Link) : (s.setLink k x).istore = s.istore := rfl
@[simp] theorem setLink_isErr (k : Nat) (x : Link) : (s.setLink k x).isErr = s.isErr := rfl
@[simp] theorem setLink_scrubbed (k : Nat) (x : Link) : (s.setLink k x).scrubbed = s.scrubbed := rfl
@[simp] theorem setLink_portPtr (k : Nat) (x : Link) : (s.setLink k x).portPtr = s.portPtr := rfl
@[simp] theorem setLink_fbdMinStep (k : Nat) (x : Link) : (s.setLink k x).fbdMinStep = s.fbdMinStep := rfl
@[simp] theorem setLink_fbdLastStep (k : Nat) (x : Link) : (s.setLink k x).fbdLastStep = s.fbdLastStep := rfl
@[simp] theorem setLink_quotaB (k : Nat) (x : Link) : (s.setLink k x).quotaB = s.quotaB := rfl
@[simp] theorem setLink_hz (k : Nat) (x : Link) : (s.setLink k x).hz = s.hz := rfl
@[simp] theorem setLink_sched (k : Nat) (x : Link) : (s.setLink k x).sched = s.sched := rfl
@[simp] theorem setLink_engines (k : Nat) (x : Link) : (s.setLink k x).engines = s.engines := rfl
@[simp] theorem setLink_streams (k : Nat) (x : Link) : (s.setLink k x).streams = s.streams := rfl
@[simp] theorem setLink_cache (k : Nat) (x : Link) : (s.setLink k x).cache = s.cache := rfl
@[simp] theorem setLink_cacheMiss (k : Nat) (x : Link) : (s.setLink k x).cacheMiss = s.cacheMiss := rfl
@[simp] theorem setLink_laneTries (k : Nat) (x : Link) : (s.setLink k x).laneTries = s.laneTries := rfl
@[simp] theorem setLink_laneQueue (k : Nat) (x : Link) : (s.setLink k x).laneQueue = s.laneQueue := rfl
@[simp] theorem setLink_plan (k : Nat) (x : Link) : (s.setLink k x).plan = s.plan := rfl
@[simp] theorem setLink_recable (k : Nat) (x : Link) : (s.setLink k x).recable = s.recable := rfl
@[simp] theorem setLink_chanRx (k : Nat) (x : Link) : (s.setLink k x).chanRx = s.chanRx := rfl
@[simp] theorem setLink_aprExits (k : Nat) (x : Link) : (s.setLink k x).aprExits = s.aprExits := rfl
@[simp] theorem setLink_seen (k : Nat) (x : Link) : (s.setLink k x).seen = s.seen := rfl
@[simp] theorem setLink_floodSeq (k : Nat) (x : Link) : (s.setLink k x).floodSeq = s.floodSeq := rfl
@[simp] theorem setLink_netDown (k : Nat) (x : Link) : (s.setLink k x).netDown = s.netDown := rfl
@[simp] theorem setLink_trailTx (k : Nat) (x : Link) : (s.setLink k x).trailTx = s.trailTx := rfl
@[simp] theorem setLink_trailRx (k : Nat) (x : Link) : (s.setLink k x).trailRx = s.trailRx := rfl
@[simp] theorem setLink_trailHeld (k : Nat) (x : Link) : (s.setLink k x).trailHeld = s.trailHeld := rfl
@[simp] theorem setLink_loops (k : Nat) (x : Link) : (s.setLink k x).loops = s.loops := rfl
@[simp] theorem setLink_scu (k : Nat) (x : Link) : (s.setLink k x).scu = s.scu := rfl
@[simp] theorem setLink_bases (k : Nat) (x : Link) : (s.setLink k x).bases = s.bases := rfl
@[simp] theorem setLink_clk (k : Nat) (x : Link) : (s.setLink k x).clk = s.clk := rfl
@[simp] theorem setLink_tickFrac (k : Nat) (x : Link) : (s.setLink k x).tickFrac = s.tickFrac := rfl
@[simp] theorem setLink_slew (k : Nat) (x : Link) : (s.setLink k x).slew = s.slew := rfl
@[simp] theorem setLink_joined (k : Nat) (x : Link) : (s.setLink k x).joined = s.joined := rfl
@[simp] theorem setLink_bkCount (k : Nat) (x : Link) : (s.setLink k x).bkCount = s.bkCount := rfl
@[simp] theorem setLink_bkFrac (k : Nat) (x : Link) : (s.setLink k x).bkFrac = s.bkFrac := rfl
@[simp] theorem setLink_host (k : Nat) (x : Link) : (s.setLink k x).host = s.host := rfl
@[simp] theorem setLink_hbm (k : Nat) (x : Link) : (s.setLink k x).hbm = s.hbm := rfl
@[simp] theorem setLink_poison (k : Nat) (x : Link) : (s.setLink k x).poison = s.poison := rfl
@[simp] theorem setLink_cleared (k : Nat) (x : Link) : (s.setLink k x).cleared = s.cleared := rfl
@[simp] theorem setLink_hbmErr (k : Nat) (x : Link) : (s.setLink k x).hbmErr = s.hbmErr := rfl
@[simp] theorem setLink_frames (k : Nat) (x : Link) : (s.setLink k x).frames = s.frames := rfl
@[simp] theorem setLink_refs (k : Nat) (x : Link) : (s.setLink k x).refs = s.refs := rfl
@[simp] theorem setLink_retired (k : Nat) (x : Link) : (s.setLink k x).retired = s.retired := rfl
@[simp] theorem setLink_retireDue (k : Nat) (x : Link) : (s.setLink k x).retireDue = s.retireDue := rfl
@[simp] theorem setLink_ptPages (k : Nat) (x : Link) : (s.setLink k x).ptPages = s.ptPages := rfl
@[simp] theorem setLink_locked (k : Nat) (x : Link) : (s.setLink k x).locked = s.locked := rfl
@[simp] theorem setLink_faults (k : Nat) (x : Link) : (s.setLink k x).faults = s.faults := rfl
@[simp] theorem setLink_faultSeq (k : Nat) (x : Link) : (s.setLink k x).faultSeq = s.faultSeq := rfl
@[simp] theorem setLink_busMaster (k : Nat) (x : Link) : (s.setLink k x).busMaster = s.busMaster := rfl
@[simp] theorem setLink_portUp (k : Nat) (x : Link) : (s.setLink k x).portUp = s.portUp := rfl
@[simp] theorem setLink_inReset (k : Nat) (x : Link) : (s.setLink k x).inReset = s.inReset := rfl
@[simp] theorem setLink_mute (k : Nat) (x : Link) : (s.setLink k x).mute = s.mute := rfl
@[simp] theorem setLink_zeroLeft (k : Nat) (x : Link) : (s.setLink k x).zeroLeft = s.zeroLeft := rfl
@[simp] theorem setLink_msix (k : Nat) (x : Link) : (s.setLink k x).msix = s.msix := rfl
@[simp] theorem setLink_msixOut (k : Nat) (x : Link) : (s.setLink k x).msixOut = s.msixOut := rfl
@[simp] theorem setLink_descs (k : Nat) (x : Link) : (s.setLink k x).descs = s.descs := rfl
@[simp] theorem setLink_nextDesc (k : Nat) (x : Link) : (s.setLink k x).nextDesc = s.nextDesc := rfl
@[simp] theorem setLink_nextEnd (k : Nat) (x : Link) : (s.setLink k x).nextEnd = s.nextEnd := rfl
@[simp] theorem setLink_fetches (k : Nat) (x : Link) : (s.setLink k x).fetches = s.fetches := rfl
@[simp] theorem setLink_cancels (k : Nat) (x : Link) : (s.setLink k x).cancels = s.cancels := rfl
@[simp] theorem setLink_ringPtr (k : Nat) (x : Link) : (s.setLink k x).ringPtr = s.ringPtr := rfl
@[simp] theorem setLink_copyPtr (k : Nat) (x : Link) : (s.setLink k x).copyPtr = s.copyPtr := rfl
@[simp] theorem setLink_evPol (k : Nat) (x : Link) : (s.setLink k x).evPol = s.evPol := rfl
@[simp] theorem setLink_evTgt (k : Nat) (x : Link) : (s.setLink k x).evTgt = s.evTgt := rfl
@[simp] theorem setLink_sync (k : Nat) (x : Link) : (s.setLink k x).sync = s.sync := rfl
@[simp] theorem setLink_adds (k : Nat) (x : Link) : (s.setLink k x).adds = s.adds := rfl
@[simp] theorem setLink_remotes (k : Nat) (x : Link) : (s.setLink k x).remotes = s.remotes := rfl
@[simp] theorem setLink_served (k : Nat) (x : Link) : (s.setLink k x).served = s.served := rfl
@[simp] theorem setLink_nextAdd (k : Nat) (x : Link) : (s.setLink k x).nextAdd = s.nextAdd := rfl
@[simp] theorem setLink_watchMet (k : Nat) (x : Link) : (s.setLink k x).watchMet = s.watchMet := rfl
@[simp] theorem setLink_srcs (k : Nat) (x : Link) : (s.setLink k x).srcs = s.srcs := rfl
@[simp] theorem setLink_tgts (k : Nat) (x : Link) : (s.setLink k x).tgts = s.tgts := rfl
@[simp] theorem setLink_doms (k : Nat) (x : Link) : (s.setLink k x).doms = s.doms := rfl
@[simp] theorem setLink_rails (k : Nat) (x : Link) : (s.setLink k x).rails = s.rails := rfl
@[simp] theorem setLink_overT (k : Nat) (x : Link) : (s.setLink k x).overT = s.overT := rfl
@[simp] theorem setLink_overWhy (k : Nat) (x : Link) : (s.setLink k x).overWhy = s.overWhy := rfl
@[simp] theorem setLink_tj (k : Nat) (x : Link) : (s.setLink k x).tj = s.tj := rfl
@[simp] theorem setLink_startMs (k : Nat) (x : Link) : (s.setLink k x).startMs = s.startMs := rfl
@[simp] theorem setLink_calFile (k : Nat) (x : Link) : (s.setLink k x).calFile = s.calFile := rfl
@[simp] theorem setLink_calFull (k : Nat) (x : Link) : (s.setLink k x).calFull = s.calFull := rfl
@[simp] theorem setLink_cal (k : Nat) (x : Link) : (s.setLink k x).cal = s.cal := rfl
@[simp] theorem setLink_settings (k : Nat) (x : Link) : (s.setLink k x).settings = s.settings := rfl
@[simp] theorem setLink_flash (k : Nat) (x : Link) : (s.setLink k x).flash = s.flash := rfl
@[simp] theorem setLink_laserWent (k : Nat) (x : Link) : (s.setLink k x).laserWent = s.laserWent := rfl
@[simp] theorem setLink_discSince (k : Nat) (x : Link) : (s.setLink k x).discSince = s.discSince := rfl
@[simp] theorem setLink_ctrs (k : Nat) (x : Link) : (s.setLink k x).ctrs = s.ctrs := rfl
@[simp] theorem setLink_wrapped (k : Nat) (x : Link) : (s.setLink k x).wrapped = s.wrapped := rfl
@[simp] theorem setLink_tmuxStep (k : Nat) (x : Link) : (s.setLink k x).tmuxStep = s.tmuxStep := rfl
@[simp] theorem setLink_pins (k : Nat) (x : Link) : (s.setLink k x).pins = s.pins := rfl
@[simp] theorem setLink_warden (k : Nat) (x : Link) : (s.setLink k x).warden = s.warden := rfl
@[simp] theorem setLink_heldWrites (k : Nat) (x : Link) : (s.setLink k x).heldWrites = s.heldWrites := rfl
@[simp] theorem setLink_mainPower (k : Nat) (x : Link) : (s.setLink k x).mainPower = s.mainPower := rfl
@[simp] theorem setLink_vbat (k : Nat) (x : Link) : (s.setLink k x).vbat = s.vbat := rfl
@[simp] theorem setLink_bkKept (k : Nat) (x : Link) : (s.setLink k x).bkKept = s.bkKept := rfl
@[simp] theorem reg_setLink (k : Nat) (x : Link) (r' : RegName) (i' j' : Nat) : (s.setLink k x).reg r' i' j' = s.reg r' i' j' := rfl
@[simp] theorem get_setLink (k : Nat) (x : Link) (f' : Fld) (i' j' : Nat) : (s.setLink k x).get f' i' j' = s.get f' i' j' := rfl
@[simp] theorem bit_setLink (k : Nat) (x : Link) (f' : Fld) (i' j' : Nat) : (s.setLink k x).bit f' i' j' = s.bit f' i' j' := rfl
@[simp] theorem tile_setLink (k : Nat) (x : Link) (n' : Nat) : (s.setLink k x).tile n' = s.tile n' := rfl
@[simp] theorem hzEng_setLink (k : Nat) (x : Link) (n' : Nat) : (s.setLink k x).hzEng n' = s.hzEng n' := rfl
@[simp] theorem engine_setLink (k : Nat) (x : Link) (n' : Nat) : (s.setLink k x).engine n' = s.engine n' := rfl
@[simp] theorem loop_setLink (k : Nat) (x : Link) (n' : Nat) : (s.setLink k x).loop n' = s.loop n' := rfl
@[simp] theorem base_setLink (k : Nat) (x : Link) (n' : Nat) : (s.setLink k x).base n' = s.base n' := rfl
@[simp] theorem src_setLink (k : Nat) (x : Link) (n' : Nat) : (s.setLink k x).src n' = s.src n' := rfl
@[simp] theorem dom_setLink (k : Nat) (x : Link) (n' : Nat) : (s.setLink k x).dom n' = s.dom n' := rfl
@[simp] theorem ctr_setLink (k : Nat) (x : Link) (n' : Nat) : (s.setLink k x).ctr n' = s.ctr n' := rfl
@[simp] theorem calUnit_setLink (k : Nat) (x : Link) (n' : Nat) : (s.setLink k x).calUnit n' = s.calUnit n' := rfl
@[simp] theorem link_setLink_self (k : Nat) (x : Link) : (s.setLink k x).link k = x := by simp [link, setLink]
theorem link_setLink_ne (k : Nat) (x : Link) (k' : Nat) (h : k' ≠ k) : (s.setLink k x).link k' = s.link k' := by simp [link, setLink, SMap.get_set, h]
theorem link_setLink (k : Nat) (x : Link) (k' : Nat) : (s.setLink k x).link k' = if k' = k then x else s.link k' := by simp [link, setLink, SMap.get_set]

/-! setLoop. -/

@[simp] theorem setLoop_pending (i : Nat) (x : Loop) : (s.setLoop i x).pending = s.pending := rfl
@[simp] theorem setLoop_part (i : Nat) (x : Loop) : (s.setLoop i x).part = s.part := rfl
@[simp] theorem setLoop_serial (i : Nat) (x : Loop) : (s.setLoop i x).serial = s.serial := rfl
@[simp] theorem setLoop_regs (i : Nat) (x : Loop) : (s.setLoop i x).regs = s.regs := rfl
@[simp] theorem setLoop_readData (i : Nat) (x : Loop) : (s.setLoop i x).readData = s.readData := rfl
@[simp] theorem setLoop_readBytes (i : Nat) (x : Loop) : (s.setLoop i x).readBytes = s.readBytes := rfl
@[simp] theorem setLoop_readPoison (i : Nat) (x : Loop) : (s.setLoop i x).readPoison = s.readPoison := rfl
@[simp] theorem setLoop_free (i : Nat) (x : Loop) : (s.setLoop i x).free = s.free := rfl
@[simp] theorem setLoop_tiles (i : Nat) (x : Loop) : (s.setLoop i x).tiles = s.tiles := rfl
@[simp] theorem setLoop_tstore (i : Nat) (x : Loop) : (s.setLoop i x).tstore = s.tstore := rfl
@[simp] theorem setLoop_tsErr (i : Nat) (x : Loop) : (s.setLoop i x).tsErr = s.tsErr := rfl
@[simp] theorem setLoop_istore (i : Nat) (x : Loop) : (s.setLoop i x).istore = s.istore := rfl
@[simp] theorem setLoop_isErr (i : Nat) (x : Loop) : (s.setLoop i x).isErr = s.isErr := rfl
@[simp] theorem setLoop_scrubbed (i : Nat) (x : Loop) : (s.setLoop i x).scrubbed = s.scrubbed := rfl
@[simp] theorem setLoop_portPtr (i : Nat) (x : Loop) : (s.setLoop i x).portPtr = s.portPtr := rfl
@[simp] theorem setLoop_fbdMinStep (i : Nat) (x : Loop) : (s.setLoop i x).fbdMinStep = s.fbdMinStep := rfl
@[simp] theorem setLoop_fbdLastStep (i : Nat) (x : Loop) : (s.setLoop i x).fbdLastStep = s.fbdLastStep := rfl
@[simp] theorem setLoop_quotaB (i : Nat) (x : Loop) : (s.setLoop i x).quotaB = s.quotaB := rfl
@[simp] theorem setLoop_hz (i : Nat) (x : Loop) : (s.setLoop i x).hz = s.hz := rfl
@[simp] theorem setLoop_sched (i : Nat) (x : Loop) : (s.setLoop i x).sched = s.sched := rfl
@[simp] theorem setLoop_engines (i : Nat) (x : Loop) : (s.setLoop i x).engines = s.engines := rfl
@[simp] theorem setLoop_streams (i : Nat) (x : Loop) : (s.setLoop i x).streams = s.streams := rfl
@[simp] theorem setLoop_cache (i : Nat) (x : Loop) : (s.setLoop i x).cache = s.cache := rfl
@[simp] theorem setLoop_cacheMiss (i : Nat) (x : Loop) : (s.setLoop i x).cacheMiss = s.cacheMiss := rfl
@[simp] theorem setLoop_links (i : Nat) (x : Loop) : (s.setLoop i x).links = s.links := rfl
@[simp] theorem setLoop_laneTries (i : Nat) (x : Loop) : (s.setLoop i x).laneTries = s.laneTries := rfl
@[simp] theorem setLoop_laneQueue (i : Nat) (x : Loop) : (s.setLoop i x).laneQueue = s.laneQueue := rfl
@[simp] theorem setLoop_plan (i : Nat) (x : Loop) : (s.setLoop i x).plan = s.plan := rfl
@[simp] theorem setLoop_recable (i : Nat) (x : Loop) : (s.setLoop i x).recable = s.recable := rfl
@[simp] theorem setLoop_chanRx (i : Nat) (x : Loop) : (s.setLoop i x).chanRx = s.chanRx := rfl
@[simp] theorem setLoop_aprExits (i : Nat) (x : Loop) : (s.setLoop i x).aprExits = s.aprExits := rfl
@[simp] theorem setLoop_seen (i : Nat) (x : Loop) : (s.setLoop i x).seen = s.seen := rfl
@[simp] theorem setLoop_floodSeq (i : Nat) (x : Loop) : (s.setLoop i x).floodSeq = s.floodSeq := rfl
@[simp] theorem setLoop_netDown (i : Nat) (x : Loop) : (s.setLoop i x).netDown = s.netDown := rfl
@[simp] theorem setLoop_trailTx (i : Nat) (x : Loop) : (s.setLoop i x).trailTx = s.trailTx := rfl
@[simp] theorem setLoop_trailRx (i : Nat) (x : Loop) : (s.setLoop i x).trailRx = s.trailRx := rfl
@[simp] theorem setLoop_trailHeld (i : Nat) (x : Loop) : (s.setLoop i x).trailHeld = s.trailHeld := rfl
@[simp] theorem setLoop_scu (i : Nat) (x : Loop) : (s.setLoop i x).scu = s.scu := rfl
@[simp] theorem setLoop_bases (i : Nat) (x : Loop) : (s.setLoop i x).bases = s.bases := rfl
@[simp] theorem setLoop_clk (i : Nat) (x : Loop) : (s.setLoop i x).clk = s.clk := rfl
@[simp] theorem setLoop_tickFrac (i : Nat) (x : Loop) : (s.setLoop i x).tickFrac = s.tickFrac := rfl
@[simp] theorem setLoop_slew (i : Nat) (x : Loop) : (s.setLoop i x).slew = s.slew := rfl
@[simp] theorem setLoop_joined (i : Nat) (x : Loop) : (s.setLoop i x).joined = s.joined := rfl
@[simp] theorem setLoop_bkCount (i : Nat) (x : Loop) : (s.setLoop i x).bkCount = s.bkCount := rfl
@[simp] theorem setLoop_bkFrac (i : Nat) (x : Loop) : (s.setLoop i x).bkFrac = s.bkFrac := rfl
@[simp] theorem setLoop_host (i : Nat) (x : Loop) : (s.setLoop i x).host = s.host := rfl
@[simp] theorem setLoop_hbm (i : Nat) (x : Loop) : (s.setLoop i x).hbm = s.hbm := rfl
@[simp] theorem setLoop_poison (i : Nat) (x : Loop) : (s.setLoop i x).poison = s.poison := rfl
@[simp] theorem setLoop_cleared (i : Nat) (x : Loop) : (s.setLoop i x).cleared = s.cleared := rfl
@[simp] theorem setLoop_hbmErr (i : Nat) (x : Loop) : (s.setLoop i x).hbmErr = s.hbmErr := rfl
@[simp] theorem setLoop_frames (i : Nat) (x : Loop) : (s.setLoop i x).frames = s.frames := rfl
@[simp] theorem setLoop_refs (i : Nat) (x : Loop) : (s.setLoop i x).refs = s.refs := rfl
@[simp] theorem setLoop_retired (i : Nat) (x : Loop) : (s.setLoop i x).retired = s.retired := rfl
@[simp] theorem setLoop_retireDue (i : Nat) (x : Loop) : (s.setLoop i x).retireDue = s.retireDue := rfl
@[simp] theorem setLoop_ptPages (i : Nat) (x : Loop) : (s.setLoop i x).ptPages = s.ptPages := rfl
@[simp] theorem setLoop_locked (i : Nat) (x : Loop) : (s.setLoop i x).locked = s.locked := rfl
@[simp] theorem setLoop_faults (i : Nat) (x : Loop) : (s.setLoop i x).faults = s.faults := rfl
@[simp] theorem setLoop_faultSeq (i : Nat) (x : Loop) : (s.setLoop i x).faultSeq = s.faultSeq := rfl
@[simp] theorem setLoop_busMaster (i : Nat) (x : Loop) : (s.setLoop i x).busMaster = s.busMaster := rfl
@[simp] theorem setLoop_portUp (i : Nat) (x : Loop) : (s.setLoop i x).portUp = s.portUp := rfl
@[simp] theorem setLoop_inReset (i : Nat) (x : Loop) : (s.setLoop i x).inReset = s.inReset := rfl
@[simp] theorem setLoop_mute (i : Nat) (x : Loop) : (s.setLoop i x).mute = s.mute := rfl
@[simp] theorem setLoop_zeroLeft (i : Nat) (x : Loop) : (s.setLoop i x).zeroLeft = s.zeroLeft := rfl
@[simp] theorem setLoop_msix (i : Nat) (x : Loop) : (s.setLoop i x).msix = s.msix := rfl
@[simp] theorem setLoop_msixOut (i : Nat) (x : Loop) : (s.setLoop i x).msixOut = s.msixOut := rfl
@[simp] theorem setLoop_descs (i : Nat) (x : Loop) : (s.setLoop i x).descs = s.descs := rfl
@[simp] theorem setLoop_nextDesc (i : Nat) (x : Loop) : (s.setLoop i x).nextDesc = s.nextDesc := rfl
@[simp] theorem setLoop_nextEnd (i : Nat) (x : Loop) : (s.setLoop i x).nextEnd = s.nextEnd := rfl
@[simp] theorem setLoop_fetches (i : Nat) (x : Loop) : (s.setLoop i x).fetches = s.fetches := rfl
@[simp] theorem setLoop_cancels (i : Nat) (x : Loop) : (s.setLoop i x).cancels = s.cancels := rfl
@[simp] theorem setLoop_ringPtr (i : Nat) (x : Loop) : (s.setLoop i x).ringPtr = s.ringPtr := rfl
@[simp] theorem setLoop_copyPtr (i : Nat) (x : Loop) : (s.setLoop i x).copyPtr = s.copyPtr := rfl
@[simp] theorem setLoop_evPol (i : Nat) (x : Loop) : (s.setLoop i x).evPol = s.evPol := rfl
@[simp] theorem setLoop_evTgt (i : Nat) (x : Loop) : (s.setLoop i x).evTgt = s.evTgt := rfl
@[simp] theorem setLoop_sync (i : Nat) (x : Loop) : (s.setLoop i x).sync = s.sync := rfl
@[simp] theorem setLoop_adds (i : Nat) (x : Loop) : (s.setLoop i x).adds = s.adds := rfl
@[simp] theorem setLoop_remotes (i : Nat) (x : Loop) : (s.setLoop i x).remotes = s.remotes := rfl
@[simp] theorem setLoop_served (i : Nat) (x : Loop) : (s.setLoop i x).served = s.served := rfl
@[simp] theorem setLoop_nextAdd (i : Nat) (x : Loop) : (s.setLoop i x).nextAdd = s.nextAdd := rfl
@[simp] theorem setLoop_watchMet (i : Nat) (x : Loop) : (s.setLoop i x).watchMet = s.watchMet := rfl
@[simp] theorem setLoop_srcs (i : Nat) (x : Loop) : (s.setLoop i x).srcs = s.srcs := rfl
@[simp] theorem setLoop_tgts (i : Nat) (x : Loop) : (s.setLoop i x).tgts = s.tgts := rfl
@[simp] theorem setLoop_doms (i : Nat) (x : Loop) : (s.setLoop i x).doms = s.doms := rfl
@[simp] theorem setLoop_rails (i : Nat) (x : Loop) : (s.setLoop i x).rails = s.rails := rfl
@[simp] theorem setLoop_overT (i : Nat) (x : Loop) : (s.setLoop i x).overT = s.overT := rfl
@[simp] theorem setLoop_overWhy (i : Nat) (x : Loop) : (s.setLoop i x).overWhy = s.overWhy := rfl
@[simp] theorem setLoop_tj (i : Nat) (x : Loop) : (s.setLoop i x).tj = s.tj := rfl
@[simp] theorem setLoop_startMs (i : Nat) (x : Loop) : (s.setLoop i x).startMs = s.startMs := rfl
@[simp] theorem setLoop_calFile (i : Nat) (x : Loop) : (s.setLoop i x).calFile = s.calFile := rfl
@[simp] theorem setLoop_calFull (i : Nat) (x : Loop) : (s.setLoop i x).calFull = s.calFull := rfl
@[simp] theorem setLoop_cal (i : Nat) (x : Loop) : (s.setLoop i x).cal = s.cal := rfl
@[simp] theorem setLoop_settings (i : Nat) (x : Loop) : (s.setLoop i x).settings = s.settings := rfl
@[simp] theorem setLoop_flash (i : Nat) (x : Loop) : (s.setLoop i x).flash = s.flash := rfl
@[simp] theorem setLoop_laserWent (i : Nat) (x : Loop) : (s.setLoop i x).laserWent = s.laserWent := rfl
@[simp] theorem setLoop_discSince (i : Nat) (x : Loop) : (s.setLoop i x).discSince = s.discSince := rfl
@[simp] theorem setLoop_ctrs (i : Nat) (x : Loop) : (s.setLoop i x).ctrs = s.ctrs := rfl
@[simp] theorem setLoop_wrapped (i : Nat) (x : Loop) : (s.setLoop i x).wrapped = s.wrapped := rfl
@[simp] theorem setLoop_tmuxStep (i : Nat) (x : Loop) : (s.setLoop i x).tmuxStep = s.tmuxStep := rfl
@[simp] theorem setLoop_pins (i : Nat) (x : Loop) : (s.setLoop i x).pins = s.pins := rfl
@[simp] theorem setLoop_warden (i : Nat) (x : Loop) : (s.setLoop i x).warden = s.warden := rfl
@[simp] theorem setLoop_heldWrites (i : Nat) (x : Loop) : (s.setLoop i x).heldWrites = s.heldWrites := rfl
@[simp] theorem setLoop_mainPower (i : Nat) (x : Loop) : (s.setLoop i x).mainPower = s.mainPower := rfl
@[simp] theorem setLoop_vbat (i : Nat) (x : Loop) : (s.setLoop i x).vbat = s.vbat := rfl
@[simp] theorem setLoop_bkKept (i : Nat) (x : Loop) : (s.setLoop i x).bkKept = s.bkKept := rfl
@[simp] theorem reg_setLoop (i : Nat) (x : Loop) (r' : RegName) (i' j' : Nat) : (s.setLoop i x).reg r' i' j' = s.reg r' i' j' := rfl
@[simp] theorem get_setLoop (i : Nat) (x : Loop) (f' : Fld) (i' j' : Nat) : (s.setLoop i x).get f' i' j' = s.get f' i' j' := rfl
@[simp] theorem bit_setLoop (i : Nat) (x : Loop) (f' : Fld) (i' j' : Nat) : (s.setLoop i x).bit f' i' j' = s.bit f' i' j' := rfl
@[simp] theorem tile_setLoop (i : Nat) (x : Loop) (n' : Nat) : (s.setLoop i x).tile n' = s.tile n' := rfl
@[simp] theorem hzEng_setLoop (i : Nat) (x : Loop) (n' : Nat) : (s.setLoop i x).hzEng n' = s.hzEng n' := rfl
@[simp] theorem engine_setLoop (i : Nat) (x : Loop) (n' : Nat) : (s.setLoop i x).engine n' = s.engine n' := rfl
@[simp] theorem link_setLoop (i : Nat) (x : Loop) (n' : Nat) : (s.setLoop i x).link n' = s.link n' := rfl
@[simp] theorem base_setLoop (i : Nat) (x : Loop) (n' : Nat) : (s.setLoop i x).base n' = s.base n' := rfl
@[simp] theorem src_setLoop (i : Nat) (x : Loop) (n' : Nat) : (s.setLoop i x).src n' = s.src n' := rfl
@[simp] theorem dom_setLoop (i : Nat) (x : Loop) (n' : Nat) : (s.setLoop i x).dom n' = s.dom n' := rfl
@[simp] theorem ctr_setLoop (i : Nat) (x : Loop) (n' : Nat) : (s.setLoop i x).ctr n' = s.ctr n' := rfl
@[simp] theorem calUnit_setLoop (i : Nat) (x : Loop) (n' : Nat) : (s.setLoop i x).calUnit n' = s.calUnit n' := rfl
@[simp] theorem loop_setLoop_self (i : Nat) (x : Loop) : (s.setLoop i x).loop i = x := by simp [loop, setLoop]
theorem loop_setLoop_ne (i : Nat) (x : Loop) (k' : Nat) (h : k' ≠ i) : (s.setLoop i x).loop k' = s.loop k' := by simp [loop, setLoop, SMap.get_set, h]
theorem loop_setLoop (i : Nat) (x : Loop) (k' : Nat) : (s.setLoop i x).loop k' = if k' = i then x else s.loop k' := by simp [loop, setLoop, SMap.get_set]

/-! setBase. -/

@[simp] theorem setBase_pending (n : Nat) (x : Base) : (s.setBase n x).pending = s.pending := rfl
@[simp] theorem setBase_part (n : Nat) (x : Base) : (s.setBase n x).part = s.part := rfl
@[simp] theorem setBase_serial (n : Nat) (x : Base) : (s.setBase n x).serial = s.serial := rfl
@[simp] theorem setBase_regs (n : Nat) (x : Base) : (s.setBase n x).regs = s.regs := rfl
@[simp] theorem setBase_readData (n : Nat) (x : Base) : (s.setBase n x).readData = s.readData := rfl
@[simp] theorem setBase_readBytes (n : Nat) (x : Base) : (s.setBase n x).readBytes = s.readBytes := rfl
@[simp] theorem setBase_readPoison (n : Nat) (x : Base) : (s.setBase n x).readPoison = s.readPoison := rfl
@[simp] theorem setBase_free (n : Nat) (x : Base) : (s.setBase n x).free = s.free := rfl
@[simp] theorem setBase_tiles (n : Nat) (x : Base) : (s.setBase n x).tiles = s.tiles := rfl
@[simp] theorem setBase_tstore (n : Nat) (x : Base) : (s.setBase n x).tstore = s.tstore := rfl
@[simp] theorem setBase_tsErr (n : Nat) (x : Base) : (s.setBase n x).tsErr = s.tsErr := rfl
@[simp] theorem setBase_istore (n : Nat) (x : Base) : (s.setBase n x).istore = s.istore := rfl
@[simp] theorem setBase_isErr (n : Nat) (x : Base) : (s.setBase n x).isErr = s.isErr := rfl
@[simp] theorem setBase_scrubbed (n : Nat) (x : Base) : (s.setBase n x).scrubbed = s.scrubbed := rfl
@[simp] theorem setBase_portPtr (n : Nat) (x : Base) : (s.setBase n x).portPtr = s.portPtr := rfl
@[simp] theorem setBase_fbdMinStep (n : Nat) (x : Base) : (s.setBase n x).fbdMinStep = s.fbdMinStep := rfl
@[simp] theorem setBase_fbdLastStep (n : Nat) (x : Base) : (s.setBase n x).fbdLastStep = s.fbdLastStep := rfl
@[simp] theorem setBase_quotaB (n : Nat) (x : Base) : (s.setBase n x).quotaB = s.quotaB := rfl
@[simp] theorem setBase_hz (n : Nat) (x : Base) : (s.setBase n x).hz = s.hz := rfl
@[simp] theorem setBase_sched (n : Nat) (x : Base) : (s.setBase n x).sched = s.sched := rfl
@[simp] theorem setBase_engines (n : Nat) (x : Base) : (s.setBase n x).engines = s.engines := rfl
@[simp] theorem setBase_streams (n : Nat) (x : Base) : (s.setBase n x).streams = s.streams := rfl
@[simp] theorem setBase_cache (n : Nat) (x : Base) : (s.setBase n x).cache = s.cache := rfl
@[simp] theorem setBase_cacheMiss (n : Nat) (x : Base) : (s.setBase n x).cacheMiss = s.cacheMiss := rfl
@[simp] theorem setBase_links (n : Nat) (x : Base) : (s.setBase n x).links = s.links := rfl
@[simp] theorem setBase_laneTries (n : Nat) (x : Base) : (s.setBase n x).laneTries = s.laneTries := rfl
@[simp] theorem setBase_laneQueue (n : Nat) (x : Base) : (s.setBase n x).laneQueue = s.laneQueue := rfl
@[simp] theorem setBase_plan (n : Nat) (x : Base) : (s.setBase n x).plan = s.plan := rfl
@[simp] theorem setBase_recable (n : Nat) (x : Base) : (s.setBase n x).recable = s.recable := rfl
@[simp] theorem setBase_chanRx (n : Nat) (x : Base) : (s.setBase n x).chanRx = s.chanRx := rfl
@[simp] theorem setBase_aprExits (n : Nat) (x : Base) : (s.setBase n x).aprExits = s.aprExits := rfl
@[simp] theorem setBase_seen (n : Nat) (x : Base) : (s.setBase n x).seen = s.seen := rfl
@[simp] theorem setBase_floodSeq (n : Nat) (x : Base) : (s.setBase n x).floodSeq = s.floodSeq := rfl
@[simp] theorem setBase_netDown (n : Nat) (x : Base) : (s.setBase n x).netDown = s.netDown := rfl
@[simp] theorem setBase_trailTx (n : Nat) (x : Base) : (s.setBase n x).trailTx = s.trailTx := rfl
@[simp] theorem setBase_trailRx (n : Nat) (x : Base) : (s.setBase n x).trailRx = s.trailRx := rfl
@[simp] theorem setBase_trailHeld (n : Nat) (x : Base) : (s.setBase n x).trailHeld = s.trailHeld := rfl
@[simp] theorem setBase_loops (n : Nat) (x : Base) : (s.setBase n x).loops = s.loops := rfl
@[simp] theorem setBase_scu (n : Nat) (x : Base) : (s.setBase n x).scu = s.scu := rfl
@[simp] theorem setBase_clk (n : Nat) (x : Base) : (s.setBase n x).clk = s.clk := rfl
@[simp] theorem setBase_tickFrac (n : Nat) (x : Base) : (s.setBase n x).tickFrac = s.tickFrac := rfl
@[simp] theorem setBase_slew (n : Nat) (x : Base) : (s.setBase n x).slew = s.slew := rfl
@[simp] theorem setBase_joined (n : Nat) (x : Base) : (s.setBase n x).joined = s.joined := rfl
@[simp] theorem setBase_bkCount (n : Nat) (x : Base) : (s.setBase n x).bkCount = s.bkCount := rfl
@[simp] theorem setBase_bkFrac (n : Nat) (x : Base) : (s.setBase n x).bkFrac = s.bkFrac := rfl
@[simp] theorem setBase_host (n : Nat) (x : Base) : (s.setBase n x).host = s.host := rfl
@[simp] theorem setBase_hbm (n : Nat) (x : Base) : (s.setBase n x).hbm = s.hbm := rfl
@[simp] theorem setBase_poison (n : Nat) (x : Base) : (s.setBase n x).poison = s.poison := rfl
@[simp] theorem setBase_cleared (n : Nat) (x : Base) : (s.setBase n x).cleared = s.cleared := rfl
@[simp] theorem setBase_hbmErr (n : Nat) (x : Base) : (s.setBase n x).hbmErr = s.hbmErr := rfl
@[simp] theorem setBase_frames (n : Nat) (x : Base) : (s.setBase n x).frames = s.frames := rfl
@[simp] theorem setBase_refs (n : Nat) (x : Base) : (s.setBase n x).refs = s.refs := rfl
@[simp] theorem setBase_retired (n : Nat) (x : Base) : (s.setBase n x).retired = s.retired := rfl
@[simp] theorem setBase_retireDue (n : Nat) (x : Base) : (s.setBase n x).retireDue = s.retireDue := rfl
@[simp] theorem setBase_ptPages (n : Nat) (x : Base) : (s.setBase n x).ptPages = s.ptPages := rfl
@[simp] theorem setBase_locked (n : Nat) (x : Base) : (s.setBase n x).locked = s.locked := rfl
@[simp] theorem setBase_faults (n : Nat) (x : Base) : (s.setBase n x).faults = s.faults := rfl
@[simp] theorem setBase_faultSeq (n : Nat) (x : Base) : (s.setBase n x).faultSeq = s.faultSeq := rfl
@[simp] theorem setBase_busMaster (n : Nat) (x : Base) : (s.setBase n x).busMaster = s.busMaster := rfl
@[simp] theorem setBase_portUp (n : Nat) (x : Base) : (s.setBase n x).portUp = s.portUp := rfl
@[simp] theorem setBase_inReset (n : Nat) (x : Base) : (s.setBase n x).inReset = s.inReset := rfl
@[simp] theorem setBase_mute (n : Nat) (x : Base) : (s.setBase n x).mute = s.mute := rfl
@[simp] theorem setBase_zeroLeft (n : Nat) (x : Base) : (s.setBase n x).zeroLeft = s.zeroLeft := rfl
@[simp] theorem setBase_msix (n : Nat) (x : Base) : (s.setBase n x).msix = s.msix := rfl
@[simp] theorem setBase_msixOut (n : Nat) (x : Base) : (s.setBase n x).msixOut = s.msixOut := rfl
@[simp] theorem setBase_descs (n : Nat) (x : Base) : (s.setBase n x).descs = s.descs := rfl
@[simp] theorem setBase_nextDesc (n : Nat) (x : Base) : (s.setBase n x).nextDesc = s.nextDesc := rfl
@[simp] theorem setBase_nextEnd (n : Nat) (x : Base) : (s.setBase n x).nextEnd = s.nextEnd := rfl
@[simp] theorem setBase_fetches (n : Nat) (x : Base) : (s.setBase n x).fetches = s.fetches := rfl
@[simp] theorem setBase_cancels (n : Nat) (x : Base) : (s.setBase n x).cancels = s.cancels := rfl
@[simp] theorem setBase_ringPtr (n : Nat) (x : Base) : (s.setBase n x).ringPtr = s.ringPtr := rfl
@[simp] theorem setBase_copyPtr (n : Nat) (x : Base) : (s.setBase n x).copyPtr = s.copyPtr := rfl
@[simp] theorem setBase_evPol (n : Nat) (x : Base) : (s.setBase n x).evPol = s.evPol := rfl
@[simp] theorem setBase_evTgt (n : Nat) (x : Base) : (s.setBase n x).evTgt = s.evTgt := rfl
@[simp] theorem setBase_sync (n : Nat) (x : Base) : (s.setBase n x).sync = s.sync := rfl
@[simp] theorem setBase_adds (n : Nat) (x : Base) : (s.setBase n x).adds = s.adds := rfl
@[simp] theorem setBase_remotes (n : Nat) (x : Base) : (s.setBase n x).remotes = s.remotes := rfl
@[simp] theorem setBase_served (n : Nat) (x : Base) : (s.setBase n x).served = s.served := rfl
@[simp] theorem setBase_nextAdd (n : Nat) (x : Base) : (s.setBase n x).nextAdd = s.nextAdd := rfl
@[simp] theorem setBase_watchMet (n : Nat) (x : Base) : (s.setBase n x).watchMet = s.watchMet := rfl
@[simp] theorem setBase_srcs (n : Nat) (x : Base) : (s.setBase n x).srcs = s.srcs := rfl
@[simp] theorem setBase_tgts (n : Nat) (x : Base) : (s.setBase n x).tgts = s.tgts := rfl
@[simp] theorem setBase_doms (n : Nat) (x : Base) : (s.setBase n x).doms = s.doms := rfl
@[simp] theorem setBase_rails (n : Nat) (x : Base) : (s.setBase n x).rails = s.rails := rfl
@[simp] theorem setBase_overT (n : Nat) (x : Base) : (s.setBase n x).overT = s.overT := rfl
@[simp] theorem setBase_overWhy (n : Nat) (x : Base) : (s.setBase n x).overWhy = s.overWhy := rfl
@[simp] theorem setBase_tj (n : Nat) (x : Base) : (s.setBase n x).tj = s.tj := rfl
@[simp] theorem setBase_startMs (n : Nat) (x : Base) : (s.setBase n x).startMs = s.startMs := rfl
@[simp] theorem setBase_calFile (n : Nat) (x : Base) : (s.setBase n x).calFile = s.calFile := rfl
@[simp] theorem setBase_calFull (n : Nat) (x : Base) : (s.setBase n x).calFull = s.calFull := rfl
@[simp] theorem setBase_cal (n : Nat) (x : Base) : (s.setBase n x).cal = s.cal := rfl
@[simp] theorem setBase_settings (n : Nat) (x : Base) : (s.setBase n x).settings = s.settings := rfl
@[simp] theorem setBase_flash (n : Nat) (x : Base) : (s.setBase n x).flash = s.flash := rfl
@[simp] theorem setBase_laserWent (n : Nat) (x : Base) : (s.setBase n x).laserWent = s.laserWent := rfl
@[simp] theorem setBase_discSince (n : Nat) (x : Base) : (s.setBase n x).discSince = s.discSince := rfl
@[simp] theorem setBase_ctrs (n : Nat) (x : Base) : (s.setBase n x).ctrs = s.ctrs := rfl
@[simp] theorem setBase_wrapped (n : Nat) (x : Base) : (s.setBase n x).wrapped = s.wrapped := rfl
@[simp] theorem setBase_tmuxStep (n : Nat) (x : Base) : (s.setBase n x).tmuxStep = s.tmuxStep := rfl
@[simp] theorem setBase_pins (n : Nat) (x : Base) : (s.setBase n x).pins = s.pins := rfl
@[simp] theorem setBase_warden (n : Nat) (x : Base) : (s.setBase n x).warden = s.warden := rfl
@[simp] theorem setBase_heldWrites (n : Nat) (x : Base) : (s.setBase n x).heldWrites = s.heldWrites := rfl
@[simp] theorem setBase_mainPower (n : Nat) (x : Base) : (s.setBase n x).mainPower = s.mainPower := rfl
@[simp] theorem setBase_vbat (n : Nat) (x : Base) : (s.setBase n x).vbat = s.vbat := rfl
@[simp] theorem setBase_bkKept (n : Nat) (x : Base) : (s.setBase n x).bkKept = s.bkKept := rfl
@[simp] theorem reg_setBase (n : Nat) (x : Base) (r' : RegName) (i' j' : Nat) : (s.setBase n x).reg r' i' j' = s.reg r' i' j' := rfl
@[simp] theorem get_setBase (n : Nat) (x : Base) (f' : Fld) (i' j' : Nat) : (s.setBase n x).get f' i' j' = s.get f' i' j' := rfl
@[simp] theorem bit_setBase (n : Nat) (x : Base) (f' : Fld) (i' j' : Nat) : (s.setBase n x).bit f' i' j' = s.bit f' i' j' := rfl
@[simp] theorem tile_setBase (n : Nat) (x : Base) (n' : Nat) : (s.setBase n x).tile n' = s.tile n' := rfl
@[simp] theorem hzEng_setBase (n : Nat) (x : Base) (n' : Nat) : (s.setBase n x).hzEng n' = s.hzEng n' := rfl
@[simp] theorem engine_setBase (n : Nat) (x : Base) (n' : Nat) : (s.setBase n x).engine n' = s.engine n' := rfl
@[simp] theorem link_setBase (n : Nat) (x : Base) (n' : Nat) : (s.setBase n x).link n' = s.link n' := rfl
@[simp] theorem loop_setBase (n : Nat) (x : Base) (n' : Nat) : (s.setBase n x).loop n' = s.loop n' := rfl
@[simp] theorem src_setBase (n : Nat) (x : Base) (n' : Nat) : (s.setBase n x).src n' = s.src n' := rfl
@[simp] theorem dom_setBase (n : Nat) (x : Base) (n' : Nat) : (s.setBase n x).dom n' = s.dom n' := rfl
@[simp] theorem ctr_setBase (n : Nat) (x : Base) (n' : Nat) : (s.setBase n x).ctr n' = s.ctr n' := rfl
@[simp] theorem calUnit_setBase (n : Nat) (x : Base) (n' : Nat) : (s.setBase n x).calUnit n' = s.calUnit n' := rfl
@[simp] theorem base_setBase_self (n : Nat) (x : Base) : (s.setBase n x).base n = x := by simp [base, setBase]
theorem base_setBase_ne (n : Nat) (x : Base) (k' : Nat) (h : k' ≠ n) : (s.setBase n x).base k' = s.base k' := by simp [base, setBase, SMap.get_set, h]
theorem base_setBase (n : Nat) (x : Base) (k' : Nat) : (s.setBase n x).base k' = if k' = n then x else s.base k' := by simp [base, setBase, SMap.get_set]

/-! setSrc. -/

@[simp] theorem setSrc_pending (n : Nat) (x : Src) : (s.setSrc n x).pending = s.pending := rfl
@[simp] theorem setSrc_part (n : Nat) (x : Src) : (s.setSrc n x).part = s.part := rfl
@[simp] theorem setSrc_serial (n : Nat) (x : Src) : (s.setSrc n x).serial = s.serial := rfl
@[simp] theorem setSrc_regs (n : Nat) (x : Src) : (s.setSrc n x).regs = s.regs := rfl
@[simp] theorem setSrc_readData (n : Nat) (x : Src) : (s.setSrc n x).readData = s.readData := rfl
@[simp] theorem setSrc_readBytes (n : Nat) (x : Src) : (s.setSrc n x).readBytes = s.readBytes := rfl
@[simp] theorem setSrc_readPoison (n : Nat) (x : Src) : (s.setSrc n x).readPoison = s.readPoison := rfl
@[simp] theorem setSrc_free (n : Nat) (x : Src) : (s.setSrc n x).free = s.free := rfl
@[simp] theorem setSrc_tiles (n : Nat) (x : Src) : (s.setSrc n x).tiles = s.tiles := rfl
@[simp] theorem setSrc_tstore (n : Nat) (x : Src) : (s.setSrc n x).tstore = s.tstore := rfl
@[simp] theorem setSrc_tsErr (n : Nat) (x : Src) : (s.setSrc n x).tsErr = s.tsErr := rfl
@[simp] theorem setSrc_istore (n : Nat) (x : Src) : (s.setSrc n x).istore = s.istore := rfl
@[simp] theorem setSrc_isErr (n : Nat) (x : Src) : (s.setSrc n x).isErr = s.isErr := rfl
@[simp] theorem setSrc_scrubbed (n : Nat) (x : Src) : (s.setSrc n x).scrubbed = s.scrubbed := rfl
@[simp] theorem setSrc_portPtr (n : Nat) (x : Src) : (s.setSrc n x).portPtr = s.portPtr := rfl
@[simp] theorem setSrc_fbdMinStep (n : Nat) (x : Src) : (s.setSrc n x).fbdMinStep = s.fbdMinStep := rfl
@[simp] theorem setSrc_fbdLastStep (n : Nat) (x : Src) : (s.setSrc n x).fbdLastStep = s.fbdLastStep := rfl
@[simp] theorem setSrc_quotaB (n : Nat) (x : Src) : (s.setSrc n x).quotaB = s.quotaB := rfl
@[simp] theorem setSrc_hz (n : Nat) (x : Src) : (s.setSrc n x).hz = s.hz := rfl
@[simp] theorem setSrc_sched (n : Nat) (x : Src) : (s.setSrc n x).sched = s.sched := rfl
@[simp] theorem setSrc_engines (n : Nat) (x : Src) : (s.setSrc n x).engines = s.engines := rfl
@[simp] theorem setSrc_streams (n : Nat) (x : Src) : (s.setSrc n x).streams = s.streams := rfl
@[simp] theorem setSrc_cache (n : Nat) (x : Src) : (s.setSrc n x).cache = s.cache := rfl
@[simp] theorem setSrc_cacheMiss (n : Nat) (x : Src) : (s.setSrc n x).cacheMiss = s.cacheMiss := rfl
@[simp] theorem setSrc_links (n : Nat) (x : Src) : (s.setSrc n x).links = s.links := rfl
@[simp] theorem setSrc_laneTries (n : Nat) (x : Src) : (s.setSrc n x).laneTries = s.laneTries := rfl
@[simp] theorem setSrc_laneQueue (n : Nat) (x : Src) : (s.setSrc n x).laneQueue = s.laneQueue := rfl
@[simp] theorem setSrc_plan (n : Nat) (x : Src) : (s.setSrc n x).plan = s.plan := rfl
@[simp] theorem setSrc_recable (n : Nat) (x : Src) : (s.setSrc n x).recable = s.recable := rfl
@[simp] theorem setSrc_chanRx (n : Nat) (x : Src) : (s.setSrc n x).chanRx = s.chanRx := rfl
@[simp] theorem setSrc_aprExits (n : Nat) (x : Src) : (s.setSrc n x).aprExits = s.aprExits := rfl
@[simp] theorem setSrc_seen (n : Nat) (x : Src) : (s.setSrc n x).seen = s.seen := rfl
@[simp] theorem setSrc_floodSeq (n : Nat) (x : Src) : (s.setSrc n x).floodSeq = s.floodSeq := rfl
@[simp] theorem setSrc_netDown (n : Nat) (x : Src) : (s.setSrc n x).netDown = s.netDown := rfl
@[simp] theorem setSrc_trailTx (n : Nat) (x : Src) : (s.setSrc n x).trailTx = s.trailTx := rfl
@[simp] theorem setSrc_trailRx (n : Nat) (x : Src) : (s.setSrc n x).trailRx = s.trailRx := rfl
@[simp] theorem setSrc_trailHeld (n : Nat) (x : Src) : (s.setSrc n x).trailHeld = s.trailHeld := rfl
@[simp] theorem setSrc_loops (n : Nat) (x : Src) : (s.setSrc n x).loops = s.loops := rfl
@[simp] theorem setSrc_scu (n : Nat) (x : Src) : (s.setSrc n x).scu = s.scu := rfl
@[simp] theorem setSrc_bases (n : Nat) (x : Src) : (s.setSrc n x).bases = s.bases := rfl
@[simp] theorem setSrc_clk (n : Nat) (x : Src) : (s.setSrc n x).clk = s.clk := rfl
@[simp] theorem setSrc_tickFrac (n : Nat) (x : Src) : (s.setSrc n x).tickFrac = s.tickFrac := rfl
@[simp] theorem setSrc_slew (n : Nat) (x : Src) : (s.setSrc n x).slew = s.slew := rfl
@[simp] theorem setSrc_joined (n : Nat) (x : Src) : (s.setSrc n x).joined = s.joined := rfl
@[simp] theorem setSrc_bkCount (n : Nat) (x : Src) : (s.setSrc n x).bkCount = s.bkCount := rfl
@[simp] theorem setSrc_bkFrac (n : Nat) (x : Src) : (s.setSrc n x).bkFrac = s.bkFrac := rfl
@[simp] theorem setSrc_host (n : Nat) (x : Src) : (s.setSrc n x).host = s.host := rfl
@[simp] theorem setSrc_hbm (n : Nat) (x : Src) : (s.setSrc n x).hbm = s.hbm := rfl
@[simp] theorem setSrc_poison (n : Nat) (x : Src) : (s.setSrc n x).poison = s.poison := rfl
@[simp] theorem setSrc_cleared (n : Nat) (x : Src) : (s.setSrc n x).cleared = s.cleared := rfl
@[simp] theorem setSrc_hbmErr (n : Nat) (x : Src) : (s.setSrc n x).hbmErr = s.hbmErr := rfl
@[simp] theorem setSrc_frames (n : Nat) (x : Src) : (s.setSrc n x).frames = s.frames := rfl
@[simp] theorem setSrc_refs (n : Nat) (x : Src) : (s.setSrc n x).refs = s.refs := rfl
@[simp] theorem setSrc_retired (n : Nat) (x : Src) : (s.setSrc n x).retired = s.retired := rfl
@[simp] theorem setSrc_retireDue (n : Nat) (x : Src) : (s.setSrc n x).retireDue = s.retireDue := rfl
@[simp] theorem setSrc_ptPages (n : Nat) (x : Src) : (s.setSrc n x).ptPages = s.ptPages := rfl
@[simp] theorem setSrc_locked (n : Nat) (x : Src) : (s.setSrc n x).locked = s.locked := rfl
@[simp] theorem setSrc_faults (n : Nat) (x : Src) : (s.setSrc n x).faults = s.faults := rfl
@[simp] theorem setSrc_faultSeq (n : Nat) (x : Src) : (s.setSrc n x).faultSeq = s.faultSeq := rfl
@[simp] theorem setSrc_busMaster (n : Nat) (x : Src) : (s.setSrc n x).busMaster = s.busMaster := rfl
@[simp] theorem setSrc_portUp (n : Nat) (x : Src) : (s.setSrc n x).portUp = s.portUp := rfl
@[simp] theorem setSrc_inReset (n : Nat) (x : Src) : (s.setSrc n x).inReset = s.inReset := rfl
@[simp] theorem setSrc_mute (n : Nat) (x : Src) : (s.setSrc n x).mute = s.mute := rfl
@[simp] theorem setSrc_zeroLeft (n : Nat) (x : Src) : (s.setSrc n x).zeroLeft = s.zeroLeft := rfl
@[simp] theorem setSrc_msix (n : Nat) (x : Src) : (s.setSrc n x).msix = s.msix := rfl
@[simp] theorem setSrc_msixOut (n : Nat) (x : Src) : (s.setSrc n x).msixOut = s.msixOut := rfl
@[simp] theorem setSrc_descs (n : Nat) (x : Src) : (s.setSrc n x).descs = s.descs := rfl
@[simp] theorem setSrc_nextDesc (n : Nat) (x : Src) : (s.setSrc n x).nextDesc = s.nextDesc := rfl
@[simp] theorem setSrc_nextEnd (n : Nat) (x : Src) : (s.setSrc n x).nextEnd = s.nextEnd := rfl
@[simp] theorem setSrc_fetches (n : Nat) (x : Src) : (s.setSrc n x).fetches = s.fetches := rfl
@[simp] theorem setSrc_cancels (n : Nat) (x : Src) : (s.setSrc n x).cancels = s.cancels := rfl
@[simp] theorem setSrc_ringPtr (n : Nat) (x : Src) : (s.setSrc n x).ringPtr = s.ringPtr := rfl
@[simp] theorem setSrc_copyPtr (n : Nat) (x : Src) : (s.setSrc n x).copyPtr = s.copyPtr := rfl
@[simp] theorem setSrc_evPol (n : Nat) (x : Src) : (s.setSrc n x).evPol = s.evPol := rfl
@[simp] theorem setSrc_evTgt (n : Nat) (x : Src) : (s.setSrc n x).evTgt = s.evTgt := rfl
@[simp] theorem setSrc_sync (n : Nat) (x : Src) : (s.setSrc n x).sync = s.sync := rfl
@[simp] theorem setSrc_adds (n : Nat) (x : Src) : (s.setSrc n x).adds = s.adds := rfl
@[simp] theorem setSrc_remotes (n : Nat) (x : Src) : (s.setSrc n x).remotes = s.remotes := rfl
@[simp] theorem setSrc_served (n : Nat) (x : Src) : (s.setSrc n x).served = s.served := rfl
@[simp] theorem setSrc_nextAdd (n : Nat) (x : Src) : (s.setSrc n x).nextAdd = s.nextAdd := rfl
@[simp] theorem setSrc_watchMet (n : Nat) (x : Src) : (s.setSrc n x).watchMet = s.watchMet := rfl
@[simp] theorem setSrc_tgts (n : Nat) (x : Src) : (s.setSrc n x).tgts = s.tgts := rfl
@[simp] theorem setSrc_doms (n : Nat) (x : Src) : (s.setSrc n x).doms = s.doms := rfl
@[simp] theorem setSrc_rails (n : Nat) (x : Src) : (s.setSrc n x).rails = s.rails := rfl
@[simp] theorem setSrc_overT (n : Nat) (x : Src) : (s.setSrc n x).overT = s.overT := rfl
@[simp] theorem setSrc_overWhy (n : Nat) (x : Src) : (s.setSrc n x).overWhy = s.overWhy := rfl
@[simp] theorem setSrc_tj (n : Nat) (x : Src) : (s.setSrc n x).tj = s.tj := rfl
@[simp] theorem setSrc_startMs (n : Nat) (x : Src) : (s.setSrc n x).startMs = s.startMs := rfl
@[simp] theorem setSrc_calFile (n : Nat) (x : Src) : (s.setSrc n x).calFile = s.calFile := rfl
@[simp] theorem setSrc_calFull (n : Nat) (x : Src) : (s.setSrc n x).calFull = s.calFull := rfl
@[simp] theorem setSrc_cal (n : Nat) (x : Src) : (s.setSrc n x).cal = s.cal := rfl
@[simp] theorem setSrc_settings (n : Nat) (x : Src) : (s.setSrc n x).settings = s.settings := rfl
@[simp] theorem setSrc_flash (n : Nat) (x : Src) : (s.setSrc n x).flash = s.flash := rfl
@[simp] theorem setSrc_laserWent (n : Nat) (x : Src) : (s.setSrc n x).laserWent = s.laserWent := rfl
@[simp] theorem setSrc_discSince (n : Nat) (x : Src) : (s.setSrc n x).discSince = s.discSince := rfl
@[simp] theorem setSrc_ctrs (n : Nat) (x : Src) : (s.setSrc n x).ctrs = s.ctrs := rfl
@[simp] theorem setSrc_wrapped (n : Nat) (x : Src) : (s.setSrc n x).wrapped = s.wrapped := rfl
@[simp] theorem setSrc_tmuxStep (n : Nat) (x : Src) : (s.setSrc n x).tmuxStep = s.tmuxStep := rfl
@[simp] theorem setSrc_pins (n : Nat) (x : Src) : (s.setSrc n x).pins = s.pins := rfl
@[simp] theorem setSrc_warden (n : Nat) (x : Src) : (s.setSrc n x).warden = s.warden := rfl
@[simp] theorem setSrc_heldWrites (n : Nat) (x : Src) : (s.setSrc n x).heldWrites = s.heldWrites := rfl
@[simp] theorem setSrc_mainPower (n : Nat) (x : Src) : (s.setSrc n x).mainPower = s.mainPower := rfl
@[simp] theorem setSrc_vbat (n : Nat) (x : Src) : (s.setSrc n x).vbat = s.vbat := rfl
@[simp] theorem setSrc_bkKept (n : Nat) (x : Src) : (s.setSrc n x).bkKept = s.bkKept := rfl
@[simp] theorem reg_setSrc (n : Nat) (x : Src) (r' : RegName) (i' j' : Nat) : (s.setSrc n x).reg r' i' j' = s.reg r' i' j' := rfl
@[simp] theorem get_setSrc (n : Nat) (x : Src) (f' : Fld) (i' j' : Nat) : (s.setSrc n x).get f' i' j' = s.get f' i' j' := rfl
@[simp] theorem bit_setSrc (n : Nat) (x : Src) (f' : Fld) (i' j' : Nat) : (s.setSrc n x).bit f' i' j' = s.bit f' i' j' := rfl
@[simp] theorem tile_setSrc (n : Nat) (x : Src) (n' : Nat) : (s.setSrc n x).tile n' = s.tile n' := rfl
@[simp] theorem hzEng_setSrc (n : Nat) (x : Src) (n' : Nat) : (s.setSrc n x).hzEng n' = s.hzEng n' := rfl
@[simp] theorem engine_setSrc (n : Nat) (x : Src) (n' : Nat) : (s.setSrc n x).engine n' = s.engine n' := rfl
@[simp] theorem link_setSrc (n : Nat) (x : Src) (n' : Nat) : (s.setSrc n x).link n' = s.link n' := rfl
@[simp] theorem loop_setSrc (n : Nat) (x : Src) (n' : Nat) : (s.setSrc n x).loop n' = s.loop n' := rfl
@[simp] theorem base_setSrc (n : Nat) (x : Src) (n' : Nat) : (s.setSrc n x).base n' = s.base n' := rfl
@[simp] theorem dom_setSrc (n : Nat) (x : Src) (n' : Nat) : (s.setSrc n x).dom n' = s.dom n' := rfl
@[simp] theorem ctr_setSrc (n : Nat) (x : Src) (n' : Nat) : (s.setSrc n x).ctr n' = s.ctr n' := rfl
@[simp] theorem calUnit_setSrc (n : Nat) (x : Src) (n' : Nat) : (s.setSrc n x).calUnit n' = s.calUnit n' := rfl
@[simp] theorem src_setSrc_self (n : Nat) (x : Src) : (s.setSrc n x).src n = x := by simp [src, setSrc]
theorem src_setSrc_ne (n : Nat) (x : Src) (k' : Nat) (h : k' ≠ n) : (s.setSrc n x).src k' = s.src k' := by simp [src, setSrc, SMap.get_set, h]
theorem src_setSrc (n : Nat) (x : Src) (k' : Nat) : (s.setSrc n x).src k' = if k' = n then x else s.src k' := by simp [src, setSrc, SMap.get_set]

/-! setTgt. -/

@[simp] theorem setTgt_pending (p j : Nat) (x : Tgt) : (s.setTgt p j x).pending = s.pending := rfl
@[simp] theorem setTgt_part (p j : Nat) (x : Tgt) : (s.setTgt p j x).part = s.part := rfl
@[simp] theorem setTgt_serial (p j : Nat) (x : Tgt) : (s.setTgt p j x).serial = s.serial := rfl
@[simp] theorem setTgt_regs (p j : Nat) (x : Tgt) : (s.setTgt p j x).regs = s.regs := rfl
@[simp] theorem setTgt_readData (p j : Nat) (x : Tgt) : (s.setTgt p j x).readData = s.readData := rfl
@[simp] theorem setTgt_readBytes (p j : Nat) (x : Tgt) : (s.setTgt p j x).readBytes = s.readBytes := rfl
@[simp] theorem setTgt_readPoison (p j : Nat) (x : Tgt) : (s.setTgt p j x).readPoison = s.readPoison := rfl
@[simp] theorem setTgt_free (p j : Nat) (x : Tgt) : (s.setTgt p j x).free = s.free := rfl
@[simp] theorem setTgt_tiles (p j : Nat) (x : Tgt) : (s.setTgt p j x).tiles = s.tiles := rfl
@[simp] theorem setTgt_tstore (p j : Nat) (x : Tgt) : (s.setTgt p j x).tstore = s.tstore := rfl
@[simp] theorem setTgt_tsErr (p j : Nat) (x : Tgt) : (s.setTgt p j x).tsErr = s.tsErr := rfl
@[simp] theorem setTgt_istore (p j : Nat) (x : Tgt) : (s.setTgt p j x).istore = s.istore := rfl
@[simp] theorem setTgt_isErr (p j : Nat) (x : Tgt) : (s.setTgt p j x).isErr = s.isErr := rfl
@[simp] theorem setTgt_scrubbed (p j : Nat) (x : Tgt) : (s.setTgt p j x).scrubbed = s.scrubbed := rfl
@[simp] theorem setTgt_portPtr (p j : Nat) (x : Tgt) : (s.setTgt p j x).portPtr = s.portPtr := rfl
@[simp] theorem setTgt_fbdMinStep (p j : Nat) (x : Tgt) : (s.setTgt p j x).fbdMinStep = s.fbdMinStep := rfl
@[simp] theorem setTgt_fbdLastStep (p j : Nat) (x : Tgt) : (s.setTgt p j x).fbdLastStep = s.fbdLastStep := rfl
@[simp] theorem setTgt_quotaB (p j : Nat) (x : Tgt) : (s.setTgt p j x).quotaB = s.quotaB := rfl
@[simp] theorem setTgt_hz (p j : Nat) (x : Tgt) : (s.setTgt p j x).hz = s.hz := rfl
@[simp] theorem setTgt_sched (p j : Nat) (x : Tgt) : (s.setTgt p j x).sched = s.sched := rfl
@[simp] theorem setTgt_engines (p j : Nat) (x : Tgt) : (s.setTgt p j x).engines = s.engines := rfl
@[simp] theorem setTgt_streams (p j : Nat) (x : Tgt) : (s.setTgt p j x).streams = s.streams := rfl
@[simp] theorem setTgt_cache (p j : Nat) (x : Tgt) : (s.setTgt p j x).cache = s.cache := rfl
@[simp] theorem setTgt_cacheMiss (p j : Nat) (x : Tgt) : (s.setTgt p j x).cacheMiss = s.cacheMiss := rfl
@[simp] theorem setTgt_links (p j : Nat) (x : Tgt) : (s.setTgt p j x).links = s.links := rfl
@[simp] theorem setTgt_laneTries (p j : Nat) (x : Tgt) : (s.setTgt p j x).laneTries = s.laneTries := rfl
@[simp] theorem setTgt_laneQueue (p j : Nat) (x : Tgt) : (s.setTgt p j x).laneQueue = s.laneQueue := rfl
@[simp] theorem setTgt_plan (p j : Nat) (x : Tgt) : (s.setTgt p j x).plan = s.plan := rfl
@[simp] theorem setTgt_recable (p j : Nat) (x : Tgt) : (s.setTgt p j x).recable = s.recable := rfl
@[simp] theorem setTgt_chanRx (p j : Nat) (x : Tgt) : (s.setTgt p j x).chanRx = s.chanRx := rfl
@[simp] theorem setTgt_aprExits (p j : Nat) (x : Tgt) : (s.setTgt p j x).aprExits = s.aprExits := rfl
@[simp] theorem setTgt_seen (p j : Nat) (x : Tgt) : (s.setTgt p j x).seen = s.seen := rfl
@[simp] theorem setTgt_floodSeq (p j : Nat) (x : Tgt) : (s.setTgt p j x).floodSeq = s.floodSeq := rfl
@[simp] theorem setTgt_netDown (p j : Nat) (x : Tgt) : (s.setTgt p j x).netDown = s.netDown := rfl
@[simp] theorem setTgt_trailTx (p j : Nat) (x : Tgt) : (s.setTgt p j x).trailTx = s.trailTx := rfl
@[simp] theorem setTgt_trailRx (p j : Nat) (x : Tgt) : (s.setTgt p j x).trailRx = s.trailRx := rfl
@[simp] theorem setTgt_trailHeld (p j : Nat) (x : Tgt) : (s.setTgt p j x).trailHeld = s.trailHeld := rfl
@[simp] theorem setTgt_loops (p j : Nat) (x : Tgt) : (s.setTgt p j x).loops = s.loops := rfl
@[simp] theorem setTgt_scu (p j : Nat) (x : Tgt) : (s.setTgt p j x).scu = s.scu := rfl
@[simp] theorem setTgt_bases (p j : Nat) (x : Tgt) : (s.setTgt p j x).bases = s.bases := rfl
@[simp] theorem setTgt_clk (p j : Nat) (x : Tgt) : (s.setTgt p j x).clk = s.clk := rfl
@[simp] theorem setTgt_tickFrac (p j : Nat) (x : Tgt) : (s.setTgt p j x).tickFrac = s.tickFrac := rfl
@[simp] theorem setTgt_slew (p j : Nat) (x : Tgt) : (s.setTgt p j x).slew = s.slew := rfl
@[simp] theorem setTgt_joined (p j : Nat) (x : Tgt) : (s.setTgt p j x).joined = s.joined := rfl
@[simp] theorem setTgt_bkCount (p j : Nat) (x : Tgt) : (s.setTgt p j x).bkCount = s.bkCount := rfl
@[simp] theorem setTgt_bkFrac (p j : Nat) (x : Tgt) : (s.setTgt p j x).bkFrac = s.bkFrac := rfl
@[simp] theorem setTgt_host (p j : Nat) (x : Tgt) : (s.setTgt p j x).host = s.host := rfl
@[simp] theorem setTgt_hbm (p j : Nat) (x : Tgt) : (s.setTgt p j x).hbm = s.hbm := rfl
@[simp] theorem setTgt_poison (p j : Nat) (x : Tgt) : (s.setTgt p j x).poison = s.poison := rfl
@[simp] theorem setTgt_cleared (p j : Nat) (x : Tgt) : (s.setTgt p j x).cleared = s.cleared := rfl
@[simp] theorem setTgt_hbmErr (p j : Nat) (x : Tgt) : (s.setTgt p j x).hbmErr = s.hbmErr := rfl
@[simp] theorem setTgt_frames (p j : Nat) (x : Tgt) : (s.setTgt p j x).frames = s.frames := rfl
@[simp] theorem setTgt_refs (p j : Nat) (x : Tgt) : (s.setTgt p j x).refs = s.refs := rfl
@[simp] theorem setTgt_retired (p j : Nat) (x : Tgt) : (s.setTgt p j x).retired = s.retired := rfl
@[simp] theorem setTgt_retireDue (p j : Nat) (x : Tgt) : (s.setTgt p j x).retireDue = s.retireDue := rfl
@[simp] theorem setTgt_ptPages (p j : Nat) (x : Tgt) : (s.setTgt p j x).ptPages = s.ptPages := rfl
@[simp] theorem setTgt_locked (p j : Nat) (x : Tgt) : (s.setTgt p j x).locked = s.locked := rfl
@[simp] theorem setTgt_faults (p j : Nat) (x : Tgt) : (s.setTgt p j x).faults = s.faults := rfl
@[simp] theorem setTgt_faultSeq (p j : Nat) (x : Tgt) : (s.setTgt p j x).faultSeq = s.faultSeq := rfl
@[simp] theorem setTgt_busMaster (p j : Nat) (x : Tgt) : (s.setTgt p j x).busMaster = s.busMaster := rfl
@[simp] theorem setTgt_portUp (p j : Nat) (x : Tgt) : (s.setTgt p j x).portUp = s.portUp := rfl
@[simp] theorem setTgt_inReset (p j : Nat) (x : Tgt) : (s.setTgt p j x).inReset = s.inReset := rfl
@[simp] theorem setTgt_mute (p j : Nat) (x : Tgt) : (s.setTgt p j x).mute = s.mute := rfl
@[simp] theorem setTgt_zeroLeft (p j : Nat) (x : Tgt) : (s.setTgt p j x).zeroLeft = s.zeroLeft := rfl
@[simp] theorem setTgt_msix (p j : Nat) (x : Tgt) : (s.setTgt p j x).msix = s.msix := rfl
@[simp] theorem setTgt_msixOut (p j : Nat) (x : Tgt) : (s.setTgt p j x).msixOut = s.msixOut := rfl
@[simp] theorem setTgt_descs (p j : Nat) (x : Tgt) : (s.setTgt p j x).descs = s.descs := rfl
@[simp] theorem setTgt_nextDesc (p j : Nat) (x : Tgt) : (s.setTgt p j x).nextDesc = s.nextDesc := rfl
@[simp] theorem setTgt_nextEnd (p j : Nat) (x : Tgt) : (s.setTgt p j x).nextEnd = s.nextEnd := rfl
@[simp] theorem setTgt_fetches (p j : Nat) (x : Tgt) : (s.setTgt p j x).fetches = s.fetches := rfl
@[simp] theorem setTgt_cancels (p j : Nat) (x : Tgt) : (s.setTgt p j x).cancels = s.cancels := rfl
@[simp] theorem setTgt_ringPtr (p j : Nat) (x : Tgt) : (s.setTgt p j x).ringPtr = s.ringPtr := rfl
@[simp] theorem setTgt_copyPtr (p j : Nat) (x : Tgt) : (s.setTgt p j x).copyPtr = s.copyPtr := rfl
@[simp] theorem setTgt_evPol (p j : Nat) (x : Tgt) : (s.setTgt p j x).evPol = s.evPol := rfl
@[simp] theorem setTgt_evTgt (p j : Nat) (x : Tgt) : (s.setTgt p j x).evTgt = s.evTgt := rfl
@[simp] theorem setTgt_sync (p j : Nat) (x : Tgt) : (s.setTgt p j x).sync = s.sync := rfl
@[simp] theorem setTgt_adds (p j : Nat) (x : Tgt) : (s.setTgt p j x).adds = s.adds := rfl
@[simp] theorem setTgt_remotes (p j : Nat) (x : Tgt) : (s.setTgt p j x).remotes = s.remotes := rfl
@[simp] theorem setTgt_served (p j : Nat) (x : Tgt) : (s.setTgt p j x).served = s.served := rfl
@[simp] theorem setTgt_nextAdd (p j : Nat) (x : Tgt) : (s.setTgt p j x).nextAdd = s.nextAdd := rfl
@[simp] theorem setTgt_watchMet (p j : Nat) (x : Tgt) : (s.setTgt p j x).watchMet = s.watchMet := rfl
@[simp] theorem setTgt_srcs (p j : Nat) (x : Tgt) : (s.setTgt p j x).srcs = s.srcs := rfl
@[simp] theorem setTgt_doms (p j : Nat) (x : Tgt) : (s.setTgt p j x).doms = s.doms := rfl
@[simp] theorem setTgt_rails (p j : Nat) (x : Tgt) : (s.setTgt p j x).rails = s.rails := rfl
@[simp] theorem setTgt_overT (p j : Nat) (x : Tgt) : (s.setTgt p j x).overT = s.overT := rfl
@[simp] theorem setTgt_overWhy (p j : Nat) (x : Tgt) : (s.setTgt p j x).overWhy = s.overWhy := rfl
@[simp] theorem setTgt_tj (p j : Nat) (x : Tgt) : (s.setTgt p j x).tj = s.tj := rfl
@[simp] theorem setTgt_startMs (p j : Nat) (x : Tgt) : (s.setTgt p j x).startMs = s.startMs := rfl
@[simp] theorem setTgt_calFile (p j : Nat) (x : Tgt) : (s.setTgt p j x).calFile = s.calFile := rfl
@[simp] theorem setTgt_calFull (p j : Nat) (x : Tgt) : (s.setTgt p j x).calFull = s.calFull := rfl
@[simp] theorem setTgt_cal (p j : Nat) (x : Tgt) : (s.setTgt p j x).cal = s.cal := rfl
@[simp] theorem setTgt_settings (p j : Nat) (x : Tgt) : (s.setTgt p j x).settings = s.settings := rfl
@[simp] theorem setTgt_flash (p j : Nat) (x : Tgt) : (s.setTgt p j x).flash = s.flash := rfl
@[simp] theorem setTgt_laserWent (p j : Nat) (x : Tgt) : (s.setTgt p j x).laserWent = s.laserWent := rfl
@[simp] theorem setTgt_discSince (p j : Nat) (x : Tgt) : (s.setTgt p j x).discSince = s.discSince := rfl
@[simp] theorem setTgt_ctrs (p j : Nat) (x : Tgt) : (s.setTgt p j x).ctrs = s.ctrs := rfl
@[simp] theorem setTgt_wrapped (p j : Nat) (x : Tgt) : (s.setTgt p j x).wrapped = s.wrapped := rfl
@[simp] theorem setTgt_tmuxStep (p j : Nat) (x : Tgt) : (s.setTgt p j x).tmuxStep = s.tmuxStep := rfl
@[simp] theorem setTgt_pins (p j : Nat) (x : Tgt) : (s.setTgt p j x).pins = s.pins := rfl
@[simp] theorem setTgt_warden (p j : Nat) (x : Tgt) : (s.setTgt p j x).warden = s.warden := rfl
@[simp] theorem setTgt_heldWrites (p j : Nat) (x : Tgt) : (s.setTgt p j x).heldWrites = s.heldWrites := rfl
@[simp] theorem setTgt_mainPower (p j : Nat) (x : Tgt) : (s.setTgt p j x).mainPower = s.mainPower := rfl
@[simp] theorem setTgt_vbat (p j : Nat) (x : Tgt) : (s.setTgt p j x).vbat = s.vbat := rfl
@[simp] theorem setTgt_bkKept (p j : Nat) (x : Tgt) : (s.setTgt p j x).bkKept = s.bkKept := rfl
@[simp] theorem reg_setTgt (p j : Nat) (x : Tgt) (r' : RegName) (i' j' : Nat) : (s.setTgt p j x).reg r' i' j' = s.reg r' i' j' := rfl
@[simp] theorem get_setTgt (p j : Nat) (x : Tgt) (f' : Fld) (i' j' : Nat) : (s.setTgt p j x).get f' i' j' = s.get f' i' j' := rfl
@[simp] theorem bit_setTgt (p j : Nat) (x : Tgt) (f' : Fld) (i' j' : Nat) : (s.setTgt p j x).bit f' i' j' = s.bit f' i' j' := rfl
@[simp] theorem tile_setTgt (p j : Nat) (x : Tgt) (n' : Nat) : (s.setTgt p j x).tile n' = s.tile n' := rfl
@[simp] theorem hzEng_setTgt (p j : Nat) (x : Tgt) (n' : Nat) : (s.setTgt p j x).hzEng n' = s.hzEng n' := rfl
@[simp] theorem engine_setTgt (p j : Nat) (x : Tgt) (n' : Nat) : (s.setTgt p j x).engine n' = s.engine n' := rfl
@[simp] theorem link_setTgt (p j : Nat) (x : Tgt) (n' : Nat) : (s.setTgt p j x).link n' = s.link n' := rfl
@[simp] theorem loop_setTgt (p j : Nat) (x : Tgt) (n' : Nat) : (s.setTgt p j x).loop n' = s.loop n' := rfl
@[simp] theorem base_setTgt (p j : Nat) (x : Tgt) (n' : Nat) : (s.setTgt p j x).base n' = s.base n' := rfl
@[simp] theorem src_setTgt (p j : Nat) (x : Tgt) (n' : Nat) : (s.setTgt p j x).src n' = s.src n' := rfl
@[simp] theorem dom_setTgt (p j : Nat) (x : Tgt) (n' : Nat) : (s.setTgt p j x).dom n' = s.dom n' := rfl
@[simp] theorem ctr_setTgt (p j : Nat) (x : Tgt) (n' : Nat) : (s.setTgt p j x).ctr n' = s.ctr n' := rfl
@[simp] theorem calUnit_setTgt (p j : Nat) (x : Tgt) (n' : Nat) : (s.setTgt p j x).calUnit n' = s.calUnit n' := rfl

/-! setDom. -/

@[simp] theorem setDom_pending (d : Nat) (x : Dom) : (s.setDom d x).pending = s.pending := rfl
@[simp] theorem setDom_part (d : Nat) (x : Dom) : (s.setDom d x).part = s.part := rfl
@[simp] theorem setDom_serial (d : Nat) (x : Dom) : (s.setDom d x).serial = s.serial := rfl
@[simp] theorem setDom_regs (d : Nat) (x : Dom) : (s.setDom d x).regs = s.regs := rfl
@[simp] theorem setDom_readData (d : Nat) (x : Dom) : (s.setDom d x).readData = s.readData := rfl
@[simp] theorem setDom_readBytes (d : Nat) (x : Dom) : (s.setDom d x).readBytes = s.readBytes := rfl
@[simp] theorem setDom_readPoison (d : Nat) (x : Dom) : (s.setDom d x).readPoison = s.readPoison := rfl
@[simp] theorem setDom_free (d : Nat) (x : Dom) : (s.setDom d x).free = s.free := rfl
@[simp] theorem setDom_tiles (d : Nat) (x : Dom) : (s.setDom d x).tiles = s.tiles := rfl
@[simp] theorem setDom_tstore (d : Nat) (x : Dom) : (s.setDom d x).tstore = s.tstore := rfl
@[simp] theorem setDom_tsErr (d : Nat) (x : Dom) : (s.setDom d x).tsErr = s.tsErr := rfl
@[simp] theorem setDom_istore (d : Nat) (x : Dom) : (s.setDom d x).istore = s.istore := rfl
@[simp] theorem setDom_isErr (d : Nat) (x : Dom) : (s.setDom d x).isErr = s.isErr := rfl
@[simp] theorem setDom_scrubbed (d : Nat) (x : Dom) : (s.setDom d x).scrubbed = s.scrubbed := rfl
@[simp] theorem setDom_portPtr (d : Nat) (x : Dom) : (s.setDom d x).portPtr = s.portPtr := rfl
@[simp] theorem setDom_fbdMinStep (d : Nat) (x : Dom) : (s.setDom d x).fbdMinStep = s.fbdMinStep := rfl
@[simp] theorem setDom_fbdLastStep (d : Nat) (x : Dom) : (s.setDom d x).fbdLastStep = s.fbdLastStep := rfl
@[simp] theorem setDom_quotaB (d : Nat) (x : Dom) : (s.setDom d x).quotaB = s.quotaB := rfl
@[simp] theorem setDom_hz (d : Nat) (x : Dom) : (s.setDom d x).hz = s.hz := rfl
@[simp] theorem setDom_sched (d : Nat) (x : Dom) : (s.setDom d x).sched = s.sched := rfl
@[simp] theorem setDom_engines (d : Nat) (x : Dom) : (s.setDom d x).engines = s.engines := rfl
@[simp] theorem setDom_streams (d : Nat) (x : Dom) : (s.setDom d x).streams = s.streams := rfl
@[simp] theorem setDom_cache (d : Nat) (x : Dom) : (s.setDom d x).cache = s.cache := rfl
@[simp] theorem setDom_cacheMiss (d : Nat) (x : Dom) : (s.setDom d x).cacheMiss = s.cacheMiss := rfl
@[simp] theorem setDom_links (d : Nat) (x : Dom) : (s.setDom d x).links = s.links := rfl
@[simp] theorem setDom_laneTries (d : Nat) (x : Dom) : (s.setDom d x).laneTries = s.laneTries := rfl
@[simp] theorem setDom_laneQueue (d : Nat) (x : Dom) : (s.setDom d x).laneQueue = s.laneQueue := rfl
@[simp] theorem setDom_plan (d : Nat) (x : Dom) : (s.setDom d x).plan = s.plan := rfl
@[simp] theorem setDom_recable (d : Nat) (x : Dom) : (s.setDom d x).recable = s.recable := rfl
@[simp] theorem setDom_chanRx (d : Nat) (x : Dom) : (s.setDom d x).chanRx = s.chanRx := rfl
@[simp] theorem setDom_aprExits (d : Nat) (x : Dom) : (s.setDom d x).aprExits = s.aprExits := rfl
@[simp] theorem setDom_seen (d : Nat) (x : Dom) : (s.setDom d x).seen = s.seen := rfl
@[simp] theorem setDom_floodSeq (d : Nat) (x : Dom) : (s.setDom d x).floodSeq = s.floodSeq := rfl
@[simp] theorem setDom_netDown (d : Nat) (x : Dom) : (s.setDom d x).netDown = s.netDown := rfl
@[simp] theorem setDom_trailTx (d : Nat) (x : Dom) : (s.setDom d x).trailTx = s.trailTx := rfl
@[simp] theorem setDom_trailRx (d : Nat) (x : Dom) : (s.setDom d x).trailRx = s.trailRx := rfl
@[simp] theorem setDom_trailHeld (d : Nat) (x : Dom) : (s.setDom d x).trailHeld = s.trailHeld := rfl
@[simp] theorem setDom_loops (d : Nat) (x : Dom) : (s.setDom d x).loops = s.loops := rfl
@[simp] theorem setDom_scu (d : Nat) (x : Dom) : (s.setDom d x).scu = s.scu := rfl
@[simp] theorem setDom_bases (d : Nat) (x : Dom) : (s.setDom d x).bases = s.bases := rfl
@[simp] theorem setDom_clk (d : Nat) (x : Dom) : (s.setDom d x).clk = s.clk := rfl
@[simp] theorem setDom_tickFrac (d : Nat) (x : Dom) : (s.setDom d x).tickFrac = s.tickFrac := rfl
@[simp] theorem setDom_slew (d : Nat) (x : Dom) : (s.setDom d x).slew = s.slew := rfl
@[simp] theorem setDom_joined (d : Nat) (x : Dom) : (s.setDom d x).joined = s.joined := rfl
@[simp] theorem setDom_bkCount (d : Nat) (x : Dom) : (s.setDom d x).bkCount = s.bkCount := rfl
@[simp] theorem setDom_bkFrac (d : Nat) (x : Dom) : (s.setDom d x).bkFrac = s.bkFrac := rfl
@[simp] theorem setDom_host (d : Nat) (x : Dom) : (s.setDom d x).host = s.host := rfl
@[simp] theorem setDom_hbm (d : Nat) (x : Dom) : (s.setDom d x).hbm = s.hbm := rfl
@[simp] theorem setDom_poison (d : Nat) (x : Dom) : (s.setDom d x).poison = s.poison := rfl
@[simp] theorem setDom_cleared (d : Nat) (x : Dom) : (s.setDom d x).cleared = s.cleared := rfl
@[simp] theorem setDom_hbmErr (d : Nat) (x : Dom) : (s.setDom d x).hbmErr = s.hbmErr := rfl
@[simp] theorem setDom_frames (d : Nat) (x : Dom) : (s.setDom d x).frames = s.frames := rfl
@[simp] theorem setDom_refs (d : Nat) (x : Dom) : (s.setDom d x).refs = s.refs := rfl
@[simp] theorem setDom_retired (d : Nat) (x : Dom) : (s.setDom d x).retired = s.retired := rfl
@[simp] theorem setDom_retireDue (d : Nat) (x : Dom) : (s.setDom d x).retireDue = s.retireDue := rfl
@[simp] theorem setDom_ptPages (d : Nat) (x : Dom) : (s.setDom d x).ptPages = s.ptPages := rfl
@[simp] theorem setDom_locked (d : Nat) (x : Dom) : (s.setDom d x).locked = s.locked := rfl
@[simp] theorem setDom_faults (d : Nat) (x : Dom) : (s.setDom d x).faults = s.faults := rfl
@[simp] theorem setDom_faultSeq (d : Nat) (x : Dom) : (s.setDom d x).faultSeq = s.faultSeq := rfl
@[simp] theorem setDom_busMaster (d : Nat) (x : Dom) : (s.setDom d x).busMaster = s.busMaster := rfl
@[simp] theorem setDom_portUp (d : Nat) (x : Dom) : (s.setDom d x).portUp = s.portUp := rfl
@[simp] theorem setDom_inReset (d : Nat) (x : Dom) : (s.setDom d x).inReset = s.inReset := rfl
@[simp] theorem setDom_mute (d : Nat) (x : Dom) : (s.setDom d x).mute = s.mute := rfl
@[simp] theorem setDom_zeroLeft (d : Nat) (x : Dom) : (s.setDom d x).zeroLeft = s.zeroLeft := rfl
@[simp] theorem setDom_msix (d : Nat) (x : Dom) : (s.setDom d x).msix = s.msix := rfl
@[simp] theorem setDom_msixOut (d : Nat) (x : Dom) : (s.setDom d x).msixOut = s.msixOut := rfl
@[simp] theorem setDom_descs (d : Nat) (x : Dom) : (s.setDom d x).descs = s.descs := rfl
@[simp] theorem setDom_nextDesc (d : Nat) (x : Dom) : (s.setDom d x).nextDesc = s.nextDesc := rfl
@[simp] theorem setDom_nextEnd (d : Nat) (x : Dom) : (s.setDom d x).nextEnd = s.nextEnd := rfl
@[simp] theorem setDom_fetches (d : Nat) (x : Dom) : (s.setDom d x).fetches = s.fetches := rfl
@[simp] theorem setDom_cancels (d : Nat) (x : Dom) : (s.setDom d x).cancels = s.cancels := rfl
@[simp] theorem setDom_ringPtr (d : Nat) (x : Dom) : (s.setDom d x).ringPtr = s.ringPtr := rfl
@[simp] theorem setDom_copyPtr (d : Nat) (x : Dom) : (s.setDom d x).copyPtr = s.copyPtr := rfl
@[simp] theorem setDom_evPol (d : Nat) (x : Dom) : (s.setDom d x).evPol = s.evPol := rfl
@[simp] theorem setDom_evTgt (d : Nat) (x : Dom) : (s.setDom d x).evTgt = s.evTgt := rfl
@[simp] theorem setDom_sync (d : Nat) (x : Dom) : (s.setDom d x).sync = s.sync := rfl
@[simp] theorem setDom_adds (d : Nat) (x : Dom) : (s.setDom d x).adds = s.adds := rfl
@[simp] theorem setDom_remotes (d : Nat) (x : Dom) : (s.setDom d x).remotes = s.remotes := rfl
@[simp] theorem setDom_served (d : Nat) (x : Dom) : (s.setDom d x).served = s.served := rfl
@[simp] theorem setDom_nextAdd (d : Nat) (x : Dom) : (s.setDom d x).nextAdd = s.nextAdd := rfl
@[simp] theorem setDom_watchMet (d : Nat) (x : Dom) : (s.setDom d x).watchMet = s.watchMet := rfl
@[simp] theorem setDom_srcs (d : Nat) (x : Dom) : (s.setDom d x).srcs = s.srcs := rfl
@[simp] theorem setDom_tgts (d : Nat) (x : Dom) : (s.setDom d x).tgts = s.tgts := rfl
@[simp] theorem setDom_rails (d : Nat) (x : Dom) : (s.setDom d x).rails = s.rails := rfl
@[simp] theorem setDom_overT (d : Nat) (x : Dom) : (s.setDom d x).overT = s.overT := rfl
@[simp] theorem setDom_overWhy (d : Nat) (x : Dom) : (s.setDom d x).overWhy = s.overWhy := rfl
@[simp] theorem setDom_tj (d : Nat) (x : Dom) : (s.setDom d x).tj = s.tj := rfl
@[simp] theorem setDom_startMs (d : Nat) (x : Dom) : (s.setDom d x).startMs = s.startMs := rfl
@[simp] theorem setDom_calFile (d : Nat) (x : Dom) : (s.setDom d x).calFile = s.calFile := rfl
@[simp] theorem setDom_calFull (d : Nat) (x : Dom) : (s.setDom d x).calFull = s.calFull := rfl
@[simp] theorem setDom_cal (d : Nat) (x : Dom) : (s.setDom d x).cal = s.cal := rfl
@[simp] theorem setDom_settings (d : Nat) (x : Dom) : (s.setDom d x).settings = s.settings := rfl
@[simp] theorem setDom_flash (d : Nat) (x : Dom) : (s.setDom d x).flash = s.flash := rfl
@[simp] theorem setDom_laserWent (d : Nat) (x : Dom) : (s.setDom d x).laserWent = s.laserWent := rfl
@[simp] theorem setDom_discSince (d : Nat) (x : Dom) : (s.setDom d x).discSince = s.discSince := rfl
@[simp] theorem setDom_ctrs (d : Nat) (x : Dom) : (s.setDom d x).ctrs = s.ctrs := rfl
@[simp] theorem setDom_wrapped (d : Nat) (x : Dom) : (s.setDom d x).wrapped = s.wrapped := rfl
@[simp] theorem setDom_tmuxStep (d : Nat) (x : Dom) : (s.setDom d x).tmuxStep = s.tmuxStep := rfl
@[simp] theorem setDom_pins (d : Nat) (x : Dom) : (s.setDom d x).pins = s.pins := rfl
@[simp] theorem setDom_warden (d : Nat) (x : Dom) : (s.setDom d x).warden = s.warden := rfl
@[simp] theorem setDom_heldWrites (d : Nat) (x : Dom) : (s.setDom d x).heldWrites = s.heldWrites := rfl
@[simp] theorem setDom_mainPower (d : Nat) (x : Dom) : (s.setDom d x).mainPower = s.mainPower := rfl
@[simp] theorem setDom_vbat (d : Nat) (x : Dom) : (s.setDom d x).vbat = s.vbat := rfl
@[simp] theorem setDom_bkKept (d : Nat) (x : Dom) : (s.setDom d x).bkKept = s.bkKept := rfl
@[simp] theorem reg_setDom (d : Nat) (x : Dom) (r' : RegName) (i' j' : Nat) : (s.setDom d x).reg r' i' j' = s.reg r' i' j' := rfl
@[simp] theorem get_setDom (d : Nat) (x : Dom) (f' : Fld) (i' j' : Nat) : (s.setDom d x).get f' i' j' = s.get f' i' j' := rfl
@[simp] theorem bit_setDom (d : Nat) (x : Dom) (f' : Fld) (i' j' : Nat) : (s.setDom d x).bit f' i' j' = s.bit f' i' j' := rfl
@[simp] theorem tile_setDom (d : Nat) (x : Dom) (n' : Nat) : (s.setDom d x).tile n' = s.tile n' := rfl
@[simp] theorem hzEng_setDom (d : Nat) (x : Dom) (n' : Nat) : (s.setDom d x).hzEng n' = s.hzEng n' := rfl
@[simp] theorem engine_setDom (d : Nat) (x : Dom) (n' : Nat) : (s.setDom d x).engine n' = s.engine n' := rfl
@[simp] theorem link_setDom (d : Nat) (x : Dom) (n' : Nat) : (s.setDom d x).link n' = s.link n' := rfl
@[simp] theorem loop_setDom (d : Nat) (x : Dom) (n' : Nat) : (s.setDom d x).loop n' = s.loop n' := rfl
@[simp] theorem base_setDom (d : Nat) (x : Dom) (n' : Nat) : (s.setDom d x).base n' = s.base n' := rfl
@[simp] theorem src_setDom (d : Nat) (x : Dom) (n' : Nat) : (s.setDom d x).src n' = s.src n' := rfl
@[simp] theorem ctr_setDom (d : Nat) (x : Dom) (n' : Nat) : (s.setDom d x).ctr n' = s.ctr n' := rfl
@[simp] theorem calUnit_setDom (d : Nat) (x : Dom) (n' : Nat) : (s.setDom d x).calUnit n' = s.calUnit n' := rfl
@[simp] theorem dom_setDom_self (d : Nat) (x : Dom) : (s.setDom d x).dom d = x := by simp [dom, setDom]
theorem dom_setDom_ne (d : Nat) (x : Dom) (k' : Nat) (h : k' ≠ d) : (s.setDom d x).dom k' = s.dom k' := by simp [dom, setDom, SMap.get_set, h]
theorem dom_setDom (d : Nat) (x : Dom) (k' : Nat) : (s.setDom d x).dom k' = if k' = d then x else s.dom k' := by simp [dom, setDom, SMap.get_set]

/-! setCtr. -/

@[simp] theorem setCtr_pending (c : Nat) (x : Ctr) : (s.setCtr c x).pending = s.pending := rfl
@[simp] theorem setCtr_part (c : Nat) (x : Ctr) : (s.setCtr c x).part = s.part := rfl
@[simp] theorem setCtr_serial (c : Nat) (x : Ctr) : (s.setCtr c x).serial = s.serial := rfl
@[simp] theorem setCtr_regs (c : Nat) (x : Ctr) : (s.setCtr c x).regs = s.regs := rfl
@[simp] theorem setCtr_readData (c : Nat) (x : Ctr) : (s.setCtr c x).readData = s.readData := rfl
@[simp] theorem setCtr_readBytes (c : Nat) (x : Ctr) : (s.setCtr c x).readBytes = s.readBytes := rfl
@[simp] theorem setCtr_readPoison (c : Nat) (x : Ctr) : (s.setCtr c x).readPoison = s.readPoison := rfl
@[simp] theorem setCtr_free (c : Nat) (x : Ctr) : (s.setCtr c x).free = s.free := rfl
@[simp] theorem setCtr_tiles (c : Nat) (x : Ctr) : (s.setCtr c x).tiles = s.tiles := rfl
@[simp] theorem setCtr_tstore (c : Nat) (x : Ctr) : (s.setCtr c x).tstore = s.tstore := rfl
@[simp] theorem setCtr_tsErr (c : Nat) (x : Ctr) : (s.setCtr c x).tsErr = s.tsErr := rfl
@[simp] theorem setCtr_istore (c : Nat) (x : Ctr) : (s.setCtr c x).istore = s.istore := rfl
@[simp] theorem setCtr_isErr (c : Nat) (x : Ctr) : (s.setCtr c x).isErr = s.isErr := rfl
@[simp] theorem setCtr_scrubbed (c : Nat) (x : Ctr) : (s.setCtr c x).scrubbed = s.scrubbed := rfl
@[simp] theorem setCtr_portPtr (c : Nat) (x : Ctr) : (s.setCtr c x).portPtr = s.portPtr := rfl
@[simp] theorem setCtr_fbdMinStep (c : Nat) (x : Ctr) : (s.setCtr c x).fbdMinStep = s.fbdMinStep := rfl
@[simp] theorem setCtr_fbdLastStep (c : Nat) (x : Ctr) : (s.setCtr c x).fbdLastStep = s.fbdLastStep := rfl
@[simp] theorem setCtr_quotaB (c : Nat) (x : Ctr) : (s.setCtr c x).quotaB = s.quotaB := rfl
@[simp] theorem setCtr_hz (c : Nat) (x : Ctr) : (s.setCtr c x).hz = s.hz := rfl
@[simp] theorem setCtr_sched (c : Nat) (x : Ctr) : (s.setCtr c x).sched = s.sched := rfl
@[simp] theorem setCtr_engines (c : Nat) (x : Ctr) : (s.setCtr c x).engines = s.engines := rfl
@[simp] theorem setCtr_streams (c : Nat) (x : Ctr) : (s.setCtr c x).streams = s.streams := rfl
@[simp] theorem setCtr_cache (c : Nat) (x : Ctr) : (s.setCtr c x).cache = s.cache := rfl
@[simp] theorem setCtr_cacheMiss (c : Nat) (x : Ctr) : (s.setCtr c x).cacheMiss = s.cacheMiss := rfl
@[simp] theorem setCtr_links (c : Nat) (x : Ctr) : (s.setCtr c x).links = s.links := rfl
@[simp] theorem setCtr_laneTries (c : Nat) (x : Ctr) : (s.setCtr c x).laneTries = s.laneTries := rfl
@[simp] theorem setCtr_laneQueue (c : Nat) (x : Ctr) : (s.setCtr c x).laneQueue = s.laneQueue := rfl
@[simp] theorem setCtr_plan (c : Nat) (x : Ctr) : (s.setCtr c x).plan = s.plan := rfl
@[simp] theorem setCtr_recable (c : Nat) (x : Ctr) : (s.setCtr c x).recable = s.recable := rfl
@[simp] theorem setCtr_chanRx (c : Nat) (x : Ctr) : (s.setCtr c x).chanRx = s.chanRx := rfl
@[simp] theorem setCtr_aprExits (c : Nat) (x : Ctr) : (s.setCtr c x).aprExits = s.aprExits := rfl
@[simp] theorem setCtr_seen (c : Nat) (x : Ctr) : (s.setCtr c x).seen = s.seen := rfl
@[simp] theorem setCtr_floodSeq (c : Nat) (x : Ctr) : (s.setCtr c x).floodSeq = s.floodSeq := rfl
@[simp] theorem setCtr_netDown (c : Nat) (x : Ctr) : (s.setCtr c x).netDown = s.netDown := rfl
@[simp] theorem setCtr_trailTx (c : Nat) (x : Ctr) : (s.setCtr c x).trailTx = s.trailTx := rfl
@[simp] theorem setCtr_trailRx (c : Nat) (x : Ctr) : (s.setCtr c x).trailRx = s.trailRx := rfl
@[simp] theorem setCtr_trailHeld (c : Nat) (x : Ctr) : (s.setCtr c x).trailHeld = s.trailHeld := rfl
@[simp] theorem setCtr_loops (c : Nat) (x : Ctr) : (s.setCtr c x).loops = s.loops := rfl
@[simp] theorem setCtr_scu (c : Nat) (x : Ctr) : (s.setCtr c x).scu = s.scu := rfl
@[simp] theorem setCtr_bases (c : Nat) (x : Ctr) : (s.setCtr c x).bases = s.bases := rfl
@[simp] theorem setCtr_clk (c : Nat) (x : Ctr) : (s.setCtr c x).clk = s.clk := rfl
@[simp] theorem setCtr_tickFrac (c : Nat) (x : Ctr) : (s.setCtr c x).tickFrac = s.tickFrac := rfl
@[simp] theorem setCtr_slew (c : Nat) (x : Ctr) : (s.setCtr c x).slew = s.slew := rfl
@[simp] theorem setCtr_joined (c : Nat) (x : Ctr) : (s.setCtr c x).joined = s.joined := rfl
@[simp] theorem setCtr_bkCount (c : Nat) (x : Ctr) : (s.setCtr c x).bkCount = s.bkCount := rfl
@[simp] theorem setCtr_bkFrac (c : Nat) (x : Ctr) : (s.setCtr c x).bkFrac = s.bkFrac := rfl
@[simp] theorem setCtr_host (c : Nat) (x : Ctr) : (s.setCtr c x).host = s.host := rfl
@[simp] theorem setCtr_hbm (c : Nat) (x : Ctr) : (s.setCtr c x).hbm = s.hbm := rfl
@[simp] theorem setCtr_poison (c : Nat) (x : Ctr) : (s.setCtr c x).poison = s.poison := rfl
@[simp] theorem setCtr_cleared (c : Nat) (x : Ctr) : (s.setCtr c x).cleared = s.cleared := rfl
@[simp] theorem setCtr_hbmErr (c : Nat) (x : Ctr) : (s.setCtr c x).hbmErr = s.hbmErr := rfl
@[simp] theorem setCtr_frames (c : Nat) (x : Ctr) : (s.setCtr c x).frames = s.frames := rfl
@[simp] theorem setCtr_refs (c : Nat) (x : Ctr) : (s.setCtr c x).refs = s.refs := rfl
@[simp] theorem setCtr_retired (c : Nat) (x : Ctr) : (s.setCtr c x).retired = s.retired := rfl
@[simp] theorem setCtr_retireDue (c : Nat) (x : Ctr) : (s.setCtr c x).retireDue = s.retireDue := rfl
@[simp] theorem setCtr_ptPages (c : Nat) (x : Ctr) : (s.setCtr c x).ptPages = s.ptPages := rfl
@[simp] theorem setCtr_locked (c : Nat) (x : Ctr) : (s.setCtr c x).locked = s.locked := rfl
@[simp] theorem setCtr_faults (c : Nat) (x : Ctr) : (s.setCtr c x).faults = s.faults := rfl
@[simp] theorem setCtr_faultSeq (c : Nat) (x : Ctr) : (s.setCtr c x).faultSeq = s.faultSeq := rfl
@[simp] theorem setCtr_busMaster (c : Nat) (x : Ctr) : (s.setCtr c x).busMaster = s.busMaster := rfl
@[simp] theorem setCtr_portUp (c : Nat) (x : Ctr) : (s.setCtr c x).portUp = s.portUp := rfl
@[simp] theorem setCtr_inReset (c : Nat) (x : Ctr) : (s.setCtr c x).inReset = s.inReset := rfl
@[simp] theorem setCtr_mute (c : Nat) (x : Ctr) : (s.setCtr c x).mute = s.mute := rfl
@[simp] theorem setCtr_zeroLeft (c : Nat) (x : Ctr) : (s.setCtr c x).zeroLeft = s.zeroLeft := rfl
@[simp] theorem setCtr_msix (c : Nat) (x : Ctr) : (s.setCtr c x).msix = s.msix := rfl
@[simp] theorem setCtr_msixOut (c : Nat) (x : Ctr) : (s.setCtr c x).msixOut = s.msixOut := rfl
@[simp] theorem setCtr_descs (c : Nat) (x : Ctr) : (s.setCtr c x).descs = s.descs := rfl
@[simp] theorem setCtr_nextDesc (c : Nat) (x : Ctr) : (s.setCtr c x).nextDesc = s.nextDesc := rfl
@[simp] theorem setCtr_nextEnd (c : Nat) (x : Ctr) : (s.setCtr c x).nextEnd = s.nextEnd := rfl
@[simp] theorem setCtr_fetches (c : Nat) (x : Ctr) : (s.setCtr c x).fetches = s.fetches := rfl
@[simp] theorem setCtr_cancels (c : Nat) (x : Ctr) : (s.setCtr c x).cancels = s.cancels := rfl
@[simp] theorem setCtr_ringPtr (c : Nat) (x : Ctr) : (s.setCtr c x).ringPtr = s.ringPtr := rfl
@[simp] theorem setCtr_copyPtr (c : Nat) (x : Ctr) : (s.setCtr c x).copyPtr = s.copyPtr := rfl
@[simp] theorem setCtr_evPol (c : Nat) (x : Ctr) : (s.setCtr c x).evPol = s.evPol := rfl
@[simp] theorem setCtr_evTgt (c : Nat) (x : Ctr) : (s.setCtr c x).evTgt = s.evTgt := rfl
@[simp] theorem setCtr_sync (c : Nat) (x : Ctr) : (s.setCtr c x).sync = s.sync := rfl
@[simp] theorem setCtr_adds (c : Nat) (x : Ctr) : (s.setCtr c x).adds = s.adds := rfl
@[simp] theorem setCtr_remotes (c : Nat) (x : Ctr) : (s.setCtr c x).remotes = s.remotes := rfl
@[simp] theorem setCtr_served (c : Nat) (x : Ctr) : (s.setCtr c x).served = s.served := rfl
@[simp] theorem setCtr_nextAdd (c : Nat) (x : Ctr) : (s.setCtr c x).nextAdd = s.nextAdd := rfl
@[simp] theorem setCtr_watchMet (c : Nat) (x : Ctr) : (s.setCtr c x).watchMet = s.watchMet := rfl
@[simp] theorem setCtr_srcs (c : Nat) (x : Ctr) : (s.setCtr c x).srcs = s.srcs := rfl
@[simp] theorem setCtr_tgts (c : Nat) (x : Ctr) : (s.setCtr c x).tgts = s.tgts := rfl
@[simp] theorem setCtr_doms (c : Nat) (x : Ctr) : (s.setCtr c x).doms = s.doms := rfl
@[simp] theorem setCtr_rails (c : Nat) (x : Ctr) : (s.setCtr c x).rails = s.rails := rfl
@[simp] theorem setCtr_overT (c : Nat) (x : Ctr) : (s.setCtr c x).overT = s.overT := rfl
@[simp] theorem setCtr_overWhy (c : Nat) (x : Ctr) : (s.setCtr c x).overWhy = s.overWhy := rfl
@[simp] theorem setCtr_tj (c : Nat) (x : Ctr) : (s.setCtr c x).tj = s.tj := rfl
@[simp] theorem setCtr_startMs (c : Nat) (x : Ctr) : (s.setCtr c x).startMs = s.startMs := rfl
@[simp] theorem setCtr_calFile (c : Nat) (x : Ctr) : (s.setCtr c x).calFile = s.calFile := rfl
@[simp] theorem setCtr_calFull (c : Nat) (x : Ctr) : (s.setCtr c x).calFull = s.calFull := rfl
@[simp] theorem setCtr_cal (c : Nat) (x : Ctr) : (s.setCtr c x).cal = s.cal := rfl
@[simp] theorem setCtr_settings (c : Nat) (x : Ctr) : (s.setCtr c x).settings = s.settings := rfl
@[simp] theorem setCtr_flash (c : Nat) (x : Ctr) : (s.setCtr c x).flash = s.flash := rfl
@[simp] theorem setCtr_laserWent (c : Nat) (x : Ctr) : (s.setCtr c x).laserWent = s.laserWent := rfl
@[simp] theorem setCtr_discSince (c : Nat) (x : Ctr) : (s.setCtr c x).discSince = s.discSince := rfl
@[simp] theorem setCtr_wrapped (c : Nat) (x : Ctr) : (s.setCtr c x).wrapped = s.wrapped := rfl
@[simp] theorem setCtr_tmuxStep (c : Nat) (x : Ctr) : (s.setCtr c x).tmuxStep = s.tmuxStep := rfl
@[simp] theorem setCtr_pins (c : Nat) (x : Ctr) : (s.setCtr c x).pins = s.pins := rfl
@[simp] theorem setCtr_warden (c : Nat) (x : Ctr) : (s.setCtr c x).warden = s.warden := rfl
@[simp] theorem setCtr_heldWrites (c : Nat) (x : Ctr) : (s.setCtr c x).heldWrites = s.heldWrites := rfl
@[simp] theorem setCtr_mainPower (c : Nat) (x : Ctr) : (s.setCtr c x).mainPower = s.mainPower := rfl
@[simp] theorem setCtr_vbat (c : Nat) (x : Ctr) : (s.setCtr c x).vbat = s.vbat := rfl
@[simp] theorem setCtr_bkKept (c : Nat) (x : Ctr) : (s.setCtr c x).bkKept = s.bkKept := rfl
@[simp] theorem reg_setCtr (c : Nat) (x : Ctr) (r' : RegName) (i' j' : Nat) : (s.setCtr c x).reg r' i' j' = s.reg r' i' j' := rfl
@[simp] theorem get_setCtr (c : Nat) (x : Ctr) (f' : Fld) (i' j' : Nat) : (s.setCtr c x).get f' i' j' = s.get f' i' j' := rfl
@[simp] theorem bit_setCtr (c : Nat) (x : Ctr) (f' : Fld) (i' j' : Nat) : (s.setCtr c x).bit f' i' j' = s.bit f' i' j' := rfl
@[simp] theorem tile_setCtr (c : Nat) (x : Ctr) (n' : Nat) : (s.setCtr c x).tile n' = s.tile n' := rfl
@[simp] theorem hzEng_setCtr (c : Nat) (x : Ctr) (n' : Nat) : (s.setCtr c x).hzEng n' = s.hzEng n' := rfl
@[simp] theorem engine_setCtr (c : Nat) (x : Ctr) (n' : Nat) : (s.setCtr c x).engine n' = s.engine n' := rfl
@[simp] theorem link_setCtr (c : Nat) (x : Ctr) (n' : Nat) : (s.setCtr c x).link n' = s.link n' := rfl
@[simp] theorem loop_setCtr (c : Nat) (x : Ctr) (n' : Nat) : (s.setCtr c x).loop n' = s.loop n' := rfl
@[simp] theorem base_setCtr (c : Nat) (x : Ctr) (n' : Nat) : (s.setCtr c x).base n' = s.base n' := rfl
@[simp] theorem src_setCtr (c : Nat) (x : Ctr) (n' : Nat) : (s.setCtr c x).src n' = s.src n' := rfl
@[simp] theorem dom_setCtr (c : Nat) (x : Ctr) (n' : Nat) : (s.setCtr c x).dom n' = s.dom n' := rfl
@[simp] theorem calUnit_setCtr (c : Nat) (x : Ctr) (n' : Nat) : (s.setCtr c x).calUnit n' = s.calUnit n' := rfl
@[simp] theorem ctr_setCtr_self (c : Nat) (x : Ctr) : (s.setCtr c x).ctr c = x := by simp [ctr, setCtr]
theorem ctr_setCtr_ne (c : Nat) (x : Ctr) (k' : Nat) (h : k' ≠ c) : (s.setCtr c x).ctr k' = s.ctr k' := by simp [ctr, setCtr, SMap.get_set, h]
theorem ctr_setCtr (c : Nat) (x : Ctr) (k' : Nat) : (s.setCtr c x).ctr k' = if k' = c then x else s.ctr k' := by simp [ctr, setCtr, SMap.get_set]

/-! setCalUnit. -/

@[simp] theorem setCalUnit_pending (u : Nat) (x : CalUnit) : (s.setCalUnit u x).pending = s.pending := rfl
@[simp] theorem setCalUnit_part (u : Nat) (x : CalUnit) : (s.setCalUnit u x).part = s.part := rfl
@[simp] theorem setCalUnit_serial (u : Nat) (x : CalUnit) : (s.setCalUnit u x).serial = s.serial := rfl
@[simp] theorem setCalUnit_regs (u : Nat) (x : CalUnit) : (s.setCalUnit u x).regs = s.regs := rfl
@[simp] theorem setCalUnit_readData (u : Nat) (x : CalUnit) : (s.setCalUnit u x).readData = s.readData := rfl
@[simp] theorem setCalUnit_readBytes (u : Nat) (x : CalUnit) : (s.setCalUnit u x).readBytes = s.readBytes := rfl
@[simp] theorem setCalUnit_readPoison (u : Nat) (x : CalUnit) : (s.setCalUnit u x).readPoison = s.readPoison := rfl
@[simp] theorem setCalUnit_free (u : Nat) (x : CalUnit) : (s.setCalUnit u x).free = s.free := rfl
@[simp] theorem setCalUnit_tiles (u : Nat) (x : CalUnit) : (s.setCalUnit u x).tiles = s.tiles := rfl
@[simp] theorem setCalUnit_tstore (u : Nat) (x : CalUnit) : (s.setCalUnit u x).tstore = s.tstore := rfl
@[simp] theorem setCalUnit_tsErr (u : Nat) (x : CalUnit) : (s.setCalUnit u x).tsErr = s.tsErr := rfl
@[simp] theorem setCalUnit_istore (u : Nat) (x : CalUnit) : (s.setCalUnit u x).istore = s.istore := rfl
@[simp] theorem setCalUnit_isErr (u : Nat) (x : CalUnit) : (s.setCalUnit u x).isErr = s.isErr := rfl
@[simp] theorem setCalUnit_scrubbed (u : Nat) (x : CalUnit) : (s.setCalUnit u x).scrubbed = s.scrubbed := rfl
@[simp] theorem setCalUnit_portPtr (u : Nat) (x : CalUnit) : (s.setCalUnit u x).portPtr = s.portPtr := rfl
@[simp] theorem setCalUnit_fbdMinStep (u : Nat) (x : CalUnit) : (s.setCalUnit u x).fbdMinStep = s.fbdMinStep := rfl
@[simp] theorem setCalUnit_fbdLastStep (u : Nat) (x : CalUnit) : (s.setCalUnit u x).fbdLastStep = s.fbdLastStep := rfl
@[simp] theorem setCalUnit_quotaB (u : Nat) (x : CalUnit) : (s.setCalUnit u x).quotaB = s.quotaB := rfl
@[simp] theorem setCalUnit_hz (u : Nat) (x : CalUnit) : (s.setCalUnit u x).hz = s.hz := rfl
@[simp] theorem setCalUnit_sched (u : Nat) (x : CalUnit) : (s.setCalUnit u x).sched = s.sched := rfl
@[simp] theorem setCalUnit_engines (u : Nat) (x : CalUnit) : (s.setCalUnit u x).engines = s.engines := rfl
@[simp] theorem setCalUnit_streams (u : Nat) (x : CalUnit) : (s.setCalUnit u x).streams = s.streams := rfl
@[simp] theorem setCalUnit_cache (u : Nat) (x : CalUnit) : (s.setCalUnit u x).cache = s.cache := rfl
@[simp] theorem setCalUnit_cacheMiss (u : Nat) (x : CalUnit) : (s.setCalUnit u x).cacheMiss = s.cacheMiss := rfl
@[simp] theorem setCalUnit_links (u : Nat) (x : CalUnit) : (s.setCalUnit u x).links = s.links := rfl
@[simp] theorem setCalUnit_laneTries (u : Nat) (x : CalUnit) : (s.setCalUnit u x).laneTries = s.laneTries := rfl
@[simp] theorem setCalUnit_laneQueue (u : Nat) (x : CalUnit) : (s.setCalUnit u x).laneQueue = s.laneQueue := rfl
@[simp] theorem setCalUnit_plan (u : Nat) (x : CalUnit) : (s.setCalUnit u x).plan = s.plan := rfl
@[simp] theorem setCalUnit_recable (u : Nat) (x : CalUnit) : (s.setCalUnit u x).recable = s.recable := rfl
@[simp] theorem setCalUnit_chanRx (u : Nat) (x : CalUnit) : (s.setCalUnit u x).chanRx = s.chanRx := rfl
@[simp] theorem setCalUnit_aprExits (u : Nat) (x : CalUnit) : (s.setCalUnit u x).aprExits = s.aprExits := rfl
@[simp] theorem setCalUnit_seen (u : Nat) (x : CalUnit) : (s.setCalUnit u x).seen = s.seen := rfl
@[simp] theorem setCalUnit_floodSeq (u : Nat) (x : CalUnit) : (s.setCalUnit u x).floodSeq = s.floodSeq := rfl
@[simp] theorem setCalUnit_netDown (u : Nat) (x : CalUnit) : (s.setCalUnit u x).netDown = s.netDown := rfl
@[simp] theorem setCalUnit_trailTx (u : Nat) (x : CalUnit) : (s.setCalUnit u x).trailTx = s.trailTx := rfl
@[simp] theorem setCalUnit_trailRx (u : Nat) (x : CalUnit) : (s.setCalUnit u x).trailRx = s.trailRx := rfl
@[simp] theorem setCalUnit_trailHeld (u : Nat) (x : CalUnit) : (s.setCalUnit u x).trailHeld = s.trailHeld := rfl
@[simp] theorem setCalUnit_loops (u : Nat) (x : CalUnit) : (s.setCalUnit u x).loops = s.loops := rfl
@[simp] theorem setCalUnit_scu (u : Nat) (x : CalUnit) : (s.setCalUnit u x).scu = s.scu := rfl
@[simp] theorem setCalUnit_bases (u : Nat) (x : CalUnit) : (s.setCalUnit u x).bases = s.bases := rfl
@[simp] theorem setCalUnit_clk (u : Nat) (x : CalUnit) : (s.setCalUnit u x).clk = s.clk := rfl
@[simp] theorem setCalUnit_tickFrac (u : Nat) (x : CalUnit) : (s.setCalUnit u x).tickFrac = s.tickFrac := rfl
@[simp] theorem setCalUnit_slew (u : Nat) (x : CalUnit) : (s.setCalUnit u x).slew = s.slew := rfl
@[simp] theorem setCalUnit_joined (u : Nat) (x : CalUnit) : (s.setCalUnit u x).joined = s.joined := rfl
@[simp] theorem setCalUnit_bkCount (u : Nat) (x : CalUnit) : (s.setCalUnit u x).bkCount = s.bkCount := rfl
@[simp] theorem setCalUnit_bkFrac (u : Nat) (x : CalUnit) : (s.setCalUnit u x).bkFrac = s.bkFrac := rfl
@[simp] theorem setCalUnit_host (u : Nat) (x : CalUnit) : (s.setCalUnit u x).host = s.host := rfl
@[simp] theorem setCalUnit_hbm (u : Nat) (x : CalUnit) : (s.setCalUnit u x).hbm = s.hbm := rfl
@[simp] theorem setCalUnit_poison (u : Nat) (x : CalUnit) : (s.setCalUnit u x).poison = s.poison := rfl
@[simp] theorem setCalUnit_cleared (u : Nat) (x : CalUnit) : (s.setCalUnit u x).cleared = s.cleared := rfl
@[simp] theorem setCalUnit_hbmErr (u : Nat) (x : CalUnit) : (s.setCalUnit u x).hbmErr = s.hbmErr := rfl
@[simp] theorem setCalUnit_frames (u : Nat) (x : CalUnit) : (s.setCalUnit u x).frames = s.frames := rfl
@[simp] theorem setCalUnit_refs (u : Nat) (x : CalUnit) : (s.setCalUnit u x).refs = s.refs := rfl
@[simp] theorem setCalUnit_retired (u : Nat) (x : CalUnit) : (s.setCalUnit u x).retired = s.retired := rfl
@[simp] theorem setCalUnit_retireDue (u : Nat) (x : CalUnit) : (s.setCalUnit u x).retireDue = s.retireDue := rfl
@[simp] theorem setCalUnit_ptPages (u : Nat) (x : CalUnit) : (s.setCalUnit u x).ptPages = s.ptPages := rfl
@[simp] theorem setCalUnit_locked (u : Nat) (x : CalUnit) : (s.setCalUnit u x).locked = s.locked := rfl
@[simp] theorem setCalUnit_faults (u : Nat) (x : CalUnit) : (s.setCalUnit u x).faults = s.faults := rfl
@[simp] theorem setCalUnit_faultSeq (u : Nat) (x : CalUnit) : (s.setCalUnit u x).faultSeq = s.faultSeq := rfl
@[simp] theorem setCalUnit_busMaster (u : Nat) (x : CalUnit) : (s.setCalUnit u x).busMaster = s.busMaster := rfl
@[simp] theorem setCalUnit_portUp (u : Nat) (x : CalUnit) : (s.setCalUnit u x).portUp = s.portUp := rfl
@[simp] theorem setCalUnit_inReset (u : Nat) (x : CalUnit) : (s.setCalUnit u x).inReset = s.inReset := rfl
@[simp] theorem setCalUnit_mute (u : Nat) (x : CalUnit) : (s.setCalUnit u x).mute = s.mute := rfl
@[simp] theorem setCalUnit_zeroLeft (u : Nat) (x : CalUnit) : (s.setCalUnit u x).zeroLeft = s.zeroLeft := rfl
@[simp] theorem setCalUnit_msix (u : Nat) (x : CalUnit) : (s.setCalUnit u x).msix = s.msix := rfl
@[simp] theorem setCalUnit_msixOut (u : Nat) (x : CalUnit) : (s.setCalUnit u x).msixOut = s.msixOut := rfl
@[simp] theorem setCalUnit_descs (u : Nat) (x : CalUnit) : (s.setCalUnit u x).descs = s.descs := rfl
@[simp] theorem setCalUnit_nextDesc (u : Nat) (x : CalUnit) : (s.setCalUnit u x).nextDesc = s.nextDesc := rfl
@[simp] theorem setCalUnit_nextEnd (u : Nat) (x : CalUnit) : (s.setCalUnit u x).nextEnd = s.nextEnd := rfl
@[simp] theorem setCalUnit_fetches (u : Nat) (x : CalUnit) : (s.setCalUnit u x).fetches = s.fetches := rfl
@[simp] theorem setCalUnit_cancels (u : Nat) (x : CalUnit) : (s.setCalUnit u x).cancels = s.cancels := rfl
@[simp] theorem setCalUnit_ringPtr (u : Nat) (x : CalUnit) : (s.setCalUnit u x).ringPtr = s.ringPtr := rfl
@[simp] theorem setCalUnit_copyPtr (u : Nat) (x : CalUnit) : (s.setCalUnit u x).copyPtr = s.copyPtr := rfl
@[simp] theorem setCalUnit_evPol (u : Nat) (x : CalUnit) : (s.setCalUnit u x).evPol = s.evPol := rfl
@[simp] theorem setCalUnit_evTgt (u : Nat) (x : CalUnit) : (s.setCalUnit u x).evTgt = s.evTgt := rfl
@[simp] theorem setCalUnit_sync (u : Nat) (x : CalUnit) : (s.setCalUnit u x).sync = s.sync := rfl
@[simp] theorem setCalUnit_adds (u : Nat) (x : CalUnit) : (s.setCalUnit u x).adds = s.adds := rfl
@[simp] theorem setCalUnit_remotes (u : Nat) (x : CalUnit) : (s.setCalUnit u x).remotes = s.remotes := rfl
@[simp] theorem setCalUnit_served (u : Nat) (x : CalUnit) : (s.setCalUnit u x).served = s.served := rfl
@[simp] theorem setCalUnit_nextAdd (u : Nat) (x : CalUnit) : (s.setCalUnit u x).nextAdd = s.nextAdd := rfl
@[simp] theorem setCalUnit_watchMet (u : Nat) (x : CalUnit) : (s.setCalUnit u x).watchMet = s.watchMet := rfl
@[simp] theorem setCalUnit_srcs (u : Nat) (x : CalUnit) : (s.setCalUnit u x).srcs = s.srcs := rfl
@[simp] theorem setCalUnit_tgts (u : Nat) (x : CalUnit) : (s.setCalUnit u x).tgts = s.tgts := rfl
@[simp] theorem setCalUnit_doms (u : Nat) (x : CalUnit) : (s.setCalUnit u x).doms = s.doms := rfl
@[simp] theorem setCalUnit_rails (u : Nat) (x : CalUnit) : (s.setCalUnit u x).rails = s.rails := rfl
@[simp] theorem setCalUnit_overT (u : Nat) (x : CalUnit) : (s.setCalUnit u x).overT = s.overT := rfl
@[simp] theorem setCalUnit_overWhy (u : Nat) (x : CalUnit) : (s.setCalUnit u x).overWhy = s.overWhy := rfl
@[simp] theorem setCalUnit_tj (u : Nat) (x : CalUnit) : (s.setCalUnit u x).tj = s.tj := rfl
@[simp] theorem setCalUnit_startMs (u : Nat) (x : CalUnit) : (s.setCalUnit u x).startMs = s.startMs := rfl
@[simp] theorem setCalUnit_calFile (u : Nat) (x : CalUnit) : (s.setCalUnit u x).calFile = s.calFile := rfl
@[simp] theorem setCalUnit_calFull (u : Nat) (x : CalUnit) : (s.setCalUnit u x).calFull = s.calFull := rfl
@[simp] theorem setCalUnit_settings (u : Nat) (x : CalUnit) : (s.setCalUnit u x).settings = s.settings := rfl
@[simp] theorem setCalUnit_flash (u : Nat) (x : CalUnit) : (s.setCalUnit u x).flash = s.flash := rfl
@[simp] theorem setCalUnit_laserWent (u : Nat) (x : CalUnit) : (s.setCalUnit u x).laserWent = s.laserWent := rfl
@[simp] theorem setCalUnit_discSince (u : Nat) (x : CalUnit) : (s.setCalUnit u x).discSince = s.discSince := rfl
@[simp] theorem setCalUnit_ctrs (u : Nat) (x : CalUnit) : (s.setCalUnit u x).ctrs = s.ctrs := rfl
@[simp] theorem setCalUnit_wrapped (u : Nat) (x : CalUnit) : (s.setCalUnit u x).wrapped = s.wrapped := rfl
@[simp] theorem setCalUnit_tmuxStep (u : Nat) (x : CalUnit) : (s.setCalUnit u x).tmuxStep = s.tmuxStep := rfl
@[simp] theorem setCalUnit_pins (u : Nat) (x : CalUnit) : (s.setCalUnit u x).pins = s.pins := rfl
@[simp] theorem setCalUnit_warden (u : Nat) (x : CalUnit) : (s.setCalUnit u x).warden = s.warden := rfl
@[simp] theorem setCalUnit_heldWrites (u : Nat) (x : CalUnit) : (s.setCalUnit u x).heldWrites = s.heldWrites := rfl
@[simp] theorem setCalUnit_mainPower (u : Nat) (x : CalUnit) : (s.setCalUnit u x).mainPower = s.mainPower := rfl
@[simp] theorem setCalUnit_vbat (u : Nat) (x : CalUnit) : (s.setCalUnit u x).vbat = s.vbat := rfl
@[simp] theorem setCalUnit_bkKept (u : Nat) (x : CalUnit) : (s.setCalUnit u x).bkKept = s.bkKept := rfl
@[simp] theorem reg_setCalUnit (u : Nat) (x : CalUnit) (r' : RegName) (i' j' : Nat) : (s.setCalUnit u x).reg r' i' j' = s.reg r' i' j' := rfl
@[simp] theorem get_setCalUnit (u : Nat) (x : CalUnit) (f' : Fld) (i' j' : Nat) : (s.setCalUnit u x).get f' i' j' = s.get f' i' j' := rfl
@[simp] theorem bit_setCalUnit (u : Nat) (x : CalUnit) (f' : Fld) (i' j' : Nat) : (s.setCalUnit u x).bit f' i' j' = s.bit f' i' j' := rfl
@[simp] theorem tile_setCalUnit (u : Nat) (x : CalUnit) (n' : Nat) : (s.setCalUnit u x).tile n' = s.tile n' := rfl
@[simp] theorem hzEng_setCalUnit (u : Nat) (x : CalUnit) (n' : Nat) : (s.setCalUnit u x).hzEng n' = s.hzEng n' := rfl
@[simp] theorem engine_setCalUnit (u : Nat) (x : CalUnit) (n' : Nat) : (s.setCalUnit u x).engine n' = s.engine n' := rfl
@[simp] theorem link_setCalUnit (u : Nat) (x : CalUnit) (n' : Nat) : (s.setCalUnit u x).link n' = s.link n' := rfl
@[simp] theorem loop_setCalUnit (u : Nat) (x : CalUnit) (n' : Nat) : (s.setCalUnit u x).loop n' = s.loop n' := rfl
@[simp] theorem base_setCalUnit (u : Nat) (x : CalUnit) (n' : Nat) : (s.setCalUnit u x).base n' = s.base n' := rfl
@[simp] theorem src_setCalUnit (u : Nat) (x : CalUnit) (n' : Nat) : (s.setCalUnit u x).src n' = s.src n' := rfl
@[simp] theorem dom_setCalUnit (u : Nat) (x : CalUnit) (n' : Nat) : (s.setCalUnit u x).dom n' = s.dom n' := rfl
@[simp] theorem ctr_setCalUnit (u : Nat) (x : CalUnit) (n' : Nat) : (s.setCalUnit u x).ctr n' = s.ctr n' := rfl
@[simp] theorem calUnit_setCalUnit_self (u : Nat) (x : CalUnit) : (s.setCalUnit u x).calUnit u = x := by simp [calUnit, setCalUnit]
theorem calUnit_setCalUnit_ne (u : Nat) (x : CalUnit) (k' : Nat) (h : k' ≠ u) : (s.setCalUnit u x).calUnit k' = s.calUnit k' := by simp [calUnit, setCalUnit, SMap.get_set, h]
theorem calUnit_setCalUnit (u : Nat) (x : CalUnit) (k' : Nat) : (s.setCalUnit u x).calUnit k' = if k' = u then x else s.calUnit k' := by simp [calUnit, setCalUnit, SMap.get_set]

/-! onDesc. -/

@[simp] theorem onDesc_pending (d : Nat) (g : Desc → Desc) : (s.onDesc d g).pending = s.pending := rfl
@[simp] theorem onDesc_part (d : Nat) (g : Desc → Desc) : (s.onDesc d g).part = s.part := rfl
@[simp] theorem onDesc_serial (d : Nat) (g : Desc → Desc) : (s.onDesc d g).serial = s.serial := rfl
@[simp] theorem onDesc_regs (d : Nat) (g : Desc → Desc) : (s.onDesc d g).regs = s.regs := rfl
@[simp] theorem onDesc_readData (d : Nat) (g : Desc → Desc) : (s.onDesc d g).readData = s.readData := rfl
@[simp] theorem onDesc_readBytes (d : Nat) (g : Desc → Desc) : (s.onDesc d g).readBytes = s.readBytes := rfl
@[simp] theorem onDesc_readPoison (d : Nat) (g : Desc → Desc) : (s.onDesc d g).readPoison = s.readPoison := rfl
@[simp] theorem onDesc_free (d : Nat) (g : Desc → Desc) : (s.onDesc d g).free = s.free := rfl
@[simp] theorem onDesc_tiles (d : Nat) (g : Desc → Desc) : (s.onDesc d g).tiles = s.tiles := rfl
@[simp] theorem onDesc_tstore (d : Nat) (g : Desc → Desc) : (s.onDesc d g).tstore = s.tstore := rfl
@[simp] theorem onDesc_tsErr (d : Nat) (g : Desc → Desc) : (s.onDesc d g).tsErr = s.tsErr := rfl
@[simp] theorem onDesc_istore (d : Nat) (g : Desc → Desc) : (s.onDesc d g).istore = s.istore := rfl
@[simp] theorem onDesc_isErr (d : Nat) (g : Desc → Desc) : (s.onDesc d g).isErr = s.isErr := rfl
@[simp] theorem onDesc_scrubbed (d : Nat) (g : Desc → Desc) : (s.onDesc d g).scrubbed = s.scrubbed := rfl
@[simp] theorem onDesc_portPtr (d : Nat) (g : Desc → Desc) : (s.onDesc d g).portPtr = s.portPtr := rfl
@[simp] theorem onDesc_fbdMinStep (d : Nat) (g : Desc → Desc) : (s.onDesc d g).fbdMinStep = s.fbdMinStep := rfl
@[simp] theorem onDesc_fbdLastStep (d : Nat) (g : Desc → Desc) : (s.onDesc d g).fbdLastStep = s.fbdLastStep := rfl
@[simp] theorem onDesc_quotaB (d : Nat) (g : Desc → Desc) : (s.onDesc d g).quotaB = s.quotaB := rfl
@[simp] theorem onDesc_hz (d : Nat) (g : Desc → Desc) : (s.onDesc d g).hz = s.hz := rfl
@[simp] theorem onDesc_sched (d : Nat) (g : Desc → Desc) : (s.onDesc d g).sched = s.sched := rfl
@[simp] theorem onDesc_engines (d : Nat) (g : Desc → Desc) : (s.onDesc d g).engines = s.engines := rfl
@[simp] theorem onDesc_streams (d : Nat) (g : Desc → Desc) : (s.onDesc d g).streams = s.streams := rfl
@[simp] theorem onDesc_cache (d : Nat) (g : Desc → Desc) : (s.onDesc d g).cache = s.cache := rfl
@[simp] theorem onDesc_cacheMiss (d : Nat) (g : Desc → Desc) : (s.onDesc d g).cacheMiss = s.cacheMiss := rfl
@[simp] theorem onDesc_links (d : Nat) (g : Desc → Desc) : (s.onDesc d g).links = s.links := rfl
@[simp] theorem onDesc_laneTries (d : Nat) (g : Desc → Desc) : (s.onDesc d g).laneTries = s.laneTries := rfl
@[simp] theorem onDesc_laneQueue (d : Nat) (g : Desc → Desc) : (s.onDesc d g).laneQueue = s.laneQueue := rfl
@[simp] theorem onDesc_plan (d : Nat) (g : Desc → Desc) : (s.onDesc d g).plan = s.plan := rfl
@[simp] theorem onDesc_recable (d : Nat) (g : Desc → Desc) : (s.onDesc d g).recable = s.recable := rfl
@[simp] theorem onDesc_chanRx (d : Nat) (g : Desc → Desc) : (s.onDesc d g).chanRx = s.chanRx := rfl
@[simp] theorem onDesc_aprExits (d : Nat) (g : Desc → Desc) : (s.onDesc d g).aprExits = s.aprExits := rfl
@[simp] theorem onDesc_seen (d : Nat) (g : Desc → Desc) : (s.onDesc d g).seen = s.seen := rfl
@[simp] theorem onDesc_floodSeq (d : Nat) (g : Desc → Desc) : (s.onDesc d g).floodSeq = s.floodSeq := rfl
@[simp] theorem onDesc_netDown (d : Nat) (g : Desc → Desc) : (s.onDesc d g).netDown = s.netDown := rfl
@[simp] theorem onDesc_trailTx (d : Nat) (g : Desc → Desc) : (s.onDesc d g).trailTx = s.trailTx := rfl
@[simp] theorem onDesc_trailRx (d : Nat) (g : Desc → Desc) : (s.onDesc d g).trailRx = s.trailRx := rfl
@[simp] theorem onDesc_trailHeld (d : Nat) (g : Desc → Desc) : (s.onDesc d g).trailHeld = s.trailHeld := rfl
@[simp] theorem onDesc_loops (d : Nat) (g : Desc → Desc) : (s.onDesc d g).loops = s.loops := rfl
@[simp] theorem onDesc_scu (d : Nat) (g : Desc → Desc) : (s.onDesc d g).scu = s.scu := rfl
@[simp] theorem onDesc_bases (d : Nat) (g : Desc → Desc) : (s.onDesc d g).bases = s.bases := rfl
@[simp] theorem onDesc_clk (d : Nat) (g : Desc → Desc) : (s.onDesc d g).clk = s.clk := rfl
@[simp] theorem onDesc_tickFrac (d : Nat) (g : Desc → Desc) : (s.onDesc d g).tickFrac = s.tickFrac := rfl
@[simp] theorem onDesc_slew (d : Nat) (g : Desc → Desc) : (s.onDesc d g).slew = s.slew := rfl
@[simp] theorem onDesc_joined (d : Nat) (g : Desc → Desc) : (s.onDesc d g).joined = s.joined := rfl
@[simp] theorem onDesc_bkCount (d : Nat) (g : Desc → Desc) : (s.onDesc d g).bkCount = s.bkCount := rfl
@[simp] theorem onDesc_bkFrac (d : Nat) (g : Desc → Desc) : (s.onDesc d g).bkFrac = s.bkFrac := rfl
@[simp] theorem onDesc_host (d : Nat) (g : Desc → Desc) : (s.onDesc d g).host = s.host := rfl
@[simp] theorem onDesc_hbm (d : Nat) (g : Desc → Desc) : (s.onDesc d g).hbm = s.hbm := rfl
@[simp] theorem onDesc_poison (d : Nat) (g : Desc → Desc) : (s.onDesc d g).poison = s.poison := rfl
@[simp] theorem onDesc_cleared (d : Nat) (g : Desc → Desc) : (s.onDesc d g).cleared = s.cleared := rfl
@[simp] theorem onDesc_hbmErr (d : Nat) (g : Desc → Desc) : (s.onDesc d g).hbmErr = s.hbmErr := rfl
@[simp] theorem onDesc_frames (d : Nat) (g : Desc → Desc) : (s.onDesc d g).frames = s.frames := rfl
@[simp] theorem onDesc_refs (d : Nat) (g : Desc → Desc) : (s.onDesc d g).refs = s.refs := rfl
@[simp] theorem onDesc_retired (d : Nat) (g : Desc → Desc) : (s.onDesc d g).retired = s.retired := rfl
@[simp] theorem onDesc_retireDue (d : Nat) (g : Desc → Desc) : (s.onDesc d g).retireDue = s.retireDue := rfl
@[simp] theorem onDesc_ptPages (d : Nat) (g : Desc → Desc) : (s.onDesc d g).ptPages = s.ptPages := rfl
@[simp] theorem onDesc_locked (d : Nat) (g : Desc → Desc) : (s.onDesc d g).locked = s.locked := rfl
@[simp] theorem onDesc_faults (d : Nat) (g : Desc → Desc) : (s.onDesc d g).faults = s.faults := rfl
@[simp] theorem onDesc_faultSeq (d : Nat) (g : Desc → Desc) : (s.onDesc d g).faultSeq = s.faultSeq := rfl
@[simp] theorem onDesc_busMaster (d : Nat) (g : Desc → Desc) : (s.onDesc d g).busMaster = s.busMaster := rfl
@[simp] theorem onDesc_portUp (d : Nat) (g : Desc → Desc) : (s.onDesc d g).portUp = s.portUp := rfl
@[simp] theorem onDesc_inReset (d : Nat) (g : Desc → Desc) : (s.onDesc d g).inReset = s.inReset := rfl
@[simp] theorem onDesc_mute (d : Nat) (g : Desc → Desc) : (s.onDesc d g).mute = s.mute := rfl
@[simp] theorem onDesc_zeroLeft (d : Nat) (g : Desc → Desc) : (s.onDesc d g).zeroLeft = s.zeroLeft := rfl
@[simp] theorem onDesc_msix (d : Nat) (g : Desc → Desc) : (s.onDesc d g).msix = s.msix := rfl
@[simp] theorem onDesc_msixOut (d : Nat) (g : Desc → Desc) : (s.onDesc d g).msixOut = s.msixOut := rfl
@[simp] theorem onDesc_nextDesc (d : Nat) (g : Desc → Desc) : (s.onDesc d g).nextDesc = s.nextDesc := rfl
@[simp] theorem onDesc_nextEnd (d : Nat) (g : Desc → Desc) : (s.onDesc d g).nextEnd = s.nextEnd := rfl
@[simp] theorem onDesc_fetches (d : Nat) (g : Desc → Desc) : (s.onDesc d g).fetches = s.fetches := rfl
@[simp] theorem onDesc_cancels (d : Nat) (g : Desc → Desc) : (s.onDesc d g).cancels = s.cancels := rfl
@[simp] theorem onDesc_ringPtr (d : Nat) (g : Desc → Desc) : (s.onDesc d g).ringPtr = s.ringPtr := rfl
@[simp] theorem onDesc_copyPtr (d : Nat) (g : Desc → Desc) : (s.onDesc d g).copyPtr = s.copyPtr := rfl
@[simp] theorem onDesc_evPol (d : Nat) (g : Desc → Desc) : (s.onDesc d g).evPol = s.evPol := rfl
@[simp] theorem onDesc_evTgt (d : Nat) (g : Desc → Desc) : (s.onDesc d g).evTgt = s.evTgt := rfl
@[simp] theorem onDesc_sync (d : Nat) (g : Desc → Desc) : (s.onDesc d g).sync = s.sync := rfl
@[simp] theorem onDesc_adds (d : Nat) (g : Desc → Desc) : (s.onDesc d g).adds = s.adds := rfl
@[simp] theorem onDesc_remotes (d : Nat) (g : Desc → Desc) : (s.onDesc d g).remotes = s.remotes := rfl
@[simp] theorem onDesc_served (d : Nat) (g : Desc → Desc) : (s.onDesc d g).served = s.served := rfl
@[simp] theorem onDesc_nextAdd (d : Nat) (g : Desc → Desc) : (s.onDesc d g).nextAdd = s.nextAdd := rfl
@[simp] theorem onDesc_watchMet (d : Nat) (g : Desc → Desc) : (s.onDesc d g).watchMet = s.watchMet := rfl
@[simp] theorem onDesc_srcs (d : Nat) (g : Desc → Desc) : (s.onDesc d g).srcs = s.srcs := rfl
@[simp] theorem onDesc_tgts (d : Nat) (g : Desc → Desc) : (s.onDesc d g).tgts = s.tgts := rfl
@[simp] theorem onDesc_doms (d : Nat) (g : Desc → Desc) : (s.onDesc d g).doms = s.doms := rfl
@[simp] theorem onDesc_rails (d : Nat) (g : Desc → Desc) : (s.onDesc d g).rails = s.rails := rfl
@[simp] theorem onDesc_overT (d : Nat) (g : Desc → Desc) : (s.onDesc d g).overT = s.overT := rfl
@[simp] theorem onDesc_overWhy (d : Nat) (g : Desc → Desc) : (s.onDesc d g).overWhy = s.overWhy := rfl
@[simp] theorem onDesc_tj (d : Nat) (g : Desc → Desc) : (s.onDesc d g).tj = s.tj := rfl
@[simp] theorem onDesc_startMs (d : Nat) (g : Desc → Desc) : (s.onDesc d g).startMs = s.startMs := rfl
@[simp] theorem onDesc_calFile (d : Nat) (g : Desc → Desc) : (s.onDesc d g).calFile = s.calFile := rfl
@[simp] theorem onDesc_calFull (d : Nat) (g : Desc → Desc) : (s.onDesc d g).calFull = s.calFull := rfl
@[simp] theorem onDesc_cal (d : Nat) (g : Desc → Desc) : (s.onDesc d g).cal = s.cal := rfl
@[simp] theorem onDesc_settings (d : Nat) (g : Desc → Desc) : (s.onDesc d g).settings = s.settings := rfl
@[simp] theorem onDesc_flash (d : Nat) (g : Desc → Desc) : (s.onDesc d g).flash = s.flash := rfl
@[simp] theorem onDesc_laserWent (d : Nat) (g : Desc → Desc) : (s.onDesc d g).laserWent = s.laserWent := rfl
@[simp] theorem onDesc_discSince (d : Nat) (g : Desc → Desc) : (s.onDesc d g).discSince = s.discSince := rfl
@[simp] theorem onDesc_ctrs (d : Nat) (g : Desc → Desc) : (s.onDesc d g).ctrs = s.ctrs := rfl
@[simp] theorem onDesc_wrapped (d : Nat) (g : Desc → Desc) : (s.onDesc d g).wrapped = s.wrapped := rfl
@[simp] theorem onDesc_tmuxStep (d : Nat) (g : Desc → Desc) : (s.onDesc d g).tmuxStep = s.tmuxStep := rfl
@[simp] theorem onDesc_pins (d : Nat) (g : Desc → Desc) : (s.onDesc d g).pins = s.pins := rfl
@[simp] theorem onDesc_warden (d : Nat) (g : Desc → Desc) : (s.onDesc d g).warden = s.warden := rfl
@[simp] theorem onDesc_heldWrites (d : Nat) (g : Desc → Desc) : (s.onDesc d g).heldWrites = s.heldWrites := rfl
@[simp] theorem onDesc_mainPower (d : Nat) (g : Desc → Desc) : (s.onDesc d g).mainPower = s.mainPower := rfl
@[simp] theorem onDesc_vbat (d : Nat) (g : Desc → Desc) : (s.onDesc d g).vbat = s.vbat := rfl
@[simp] theorem onDesc_bkKept (d : Nat) (g : Desc → Desc) : (s.onDesc d g).bkKept = s.bkKept := rfl
@[simp] theorem reg_onDesc (d : Nat) (g : Desc → Desc) (r' : RegName) (i' j' : Nat) : (s.onDesc d g).reg r' i' j' = s.reg r' i' j' := rfl
@[simp] theorem get_onDesc (d : Nat) (g : Desc → Desc) (f' : Fld) (i' j' : Nat) : (s.onDesc d g).get f' i' j' = s.get f' i' j' := rfl
@[simp] theorem bit_onDesc (d : Nat) (g : Desc → Desc) (f' : Fld) (i' j' : Nat) : (s.onDesc d g).bit f' i' j' = s.bit f' i' j' := rfl
@[simp] theorem tile_onDesc (d : Nat) (g : Desc → Desc) (n' : Nat) : (s.onDesc d g).tile n' = s.tile n' := rfl
@[simp] theorem hzEng_onDesc (d : Nat) (g : Desc → Desc) (n' : Nat) : (s.onDesc d g).hzEng n' = s.hzEng n' := rfl
@[simp] theorem engine_onDesc (d : Nat) (g : Desc → Desc) (n' : Nat) : (s.onDesc d g).engine n' = s.engine n' := rfl
@[simp] theorem link_onDesc (d : Nat) (g : Desc → Desc) (n' : Nat) : (s.onDesc d g).link n' = s.link n' := rfl
@[simp] theorem loop_onDesc (d : Nat) (g : Desc → Desc) (n' : Nat) : (s.onDesc d g).loop n' = s.loop n' := rfl
@[simp] theorem base_onDesc (d : Nat) (g : Desc → Desc) (n' : Nat) : (s.onDesc d g).base n' = s.base n' := rfl
@[simp] theorem src_onDesc (d : Nat) (g : Desc → Desc) (n' : Nat) : (s.onDesc d g).src n' = s.src n' := rfl
@[simp] theorem dom_onDesc (d : Nat) (g : Desc → Desc) (n' : Nat) : (s.onDesc d g).dom n' = s.dom n' := rfl
@[simp] theorem ctr_onDesc (d : Nat) (g : Desc → Desc) (n' : Nat) : (s.onDesc d g).ctr n' = s.ctr n' := rfl
@[simp] theorem calUnit_onDesc (d : Nat) (g : Desc → Desc) (n' : Nat) : (s.onDesc d g).calUnit n' = s.calUnit n' := rfl

end Sys2Proof.Machine.State
end

