-- ==== Sys2Proof/Laws/Memory.lean ====
section
/-! SUPPORT. The canonical form of the memories: every memory operation keeps it. -/

namespace Sys2Proof.Machine

/-- What holds before a fold and survives each step of it holds after. -/
theorem State.each_keeps {α : Type} (P : State → Prop) (g : State → α → State) (h : ∀ s x, P s → P (g s x)) :
    ∀ (xs : List α) (s : State), P s → P (s.each xs g)
  | [], _, hs => hs
  | x :: xs, s, hs => State.each_keeps P g h xs (g s x) (h s x hs)

theorem State.when_keeps (P : State → Prop) (g : State → State) (s : State) (c : Bool) (hs : P s) (h : P (g s)) : P (s.when c g) := by
  unfold State.when; split <;> assumption

theorem Memory.wf_iff (s : State) : Memory.wf s = true ↔ s.hbm.wf = true ∧ s.tstore.wf = true ∧ s.host.wf = true := by
  simp [Memory.wf, and_assoc]

/-- A state with the same memories has the form where the other has. -/
theorem Memory.wf_same {s u : State} (h1 : u.hbm = s.hbm) (h2 : u.tstore = s.tstore) (h3 : u.host = s.host) (h : Memory.wf s = true) :
    Memory.wf u = true := by
  rw [Memory.wf_iff] at *; rw [h1, h2, h3]; exact h

theorem Memory.wf_put (s : State) (f : Fld) (v i j : Nat) (h : Memory.wf s = true) : Memory.wf (s.put f v i j) = true :=
  Memory.wf_same rfl rfl rfl h

theorem Memory.wf_bump (s : State) (f : Fld) (i j n : Nat) (h : Memory.wf s = true) : Memory.wf (s.bump f i j n) = true :=
  Memory.wf_same rfl rfl rfl h

theorem Memory.wf_hostWrite (s : State) (p a : Nat) (bs : List Byte) (h : Memory.wf s = true) : Memory.wf (s.hostWrite p a bs) = true := by
  rw [Memory.wf_iff] at *
  exact ⟨h.1, h.2.1, Mem.wf_write _ _ _ h.2.2⟩

theorem Memory.wf_tsWrite (s : State) (a : Nat) (bs : List Byte) (h : Memory.wf s = true) : Memory.wf (s.tsWrite a bs) = true := by
  rw [Memory.wf_iff] at *
  exact ⟨h.1, Mem.wf_write _ _ _ h.2.1, h.2.2⟩

theorem Memory.wf_setPte (s : State) (pol a e : Nat) (h : Memory.wf s = true) : Memory.wf (s.setPte pol a e) = true := by
  unfold State.setPte
  split
  · rw [Memory.wf_iff] at *
    exact ⟨Mem.wf_write _ _ _ h.1, h.2⟩
  · exact Memory.wf_hostWrite _ _ _ _ h

theorem Memory.wf_zeroRun (s : State) (f n : Nat) (h : Memory.wf s = true) : Memory.wf (s.zeroRun f n) = true := by
  rw [Memory.wf_iff] at *
  exact ⟨SMap.wf_clear _ _ _ _ h.1, h.2⟩

theorem Memory.wf_takeRun (s : State) (pol f n : Nat) (h : Memory.wf s = true) : Memory.wf (s.takeRun pol f n) = true :=
  Memory.wf_zeroRun _ _ _ (Memory.wf_same rfl rfl rfl h)

theorem Memory.wf_allocRun (s : State) (pol n f : Nat) (u : State) (h : Memory.wf s = true) (e : s.allocRun pol n = some (f, u)) :
    Memory.wf u = true := by
  unfold State.allocRun at e
  split at e
  · cases e
  · obtain ⟨g, -, hg⟩ := Option.map_eq_some_iff.mp e
    cases hg
    exact Memory.wf_takeRun _ _ _ _ h

theorem Memory.wf_unrefRun (s : State) (f n : Nat) (h : Memory.wf s = true) : Memory.wf (s.unrefRun f n) = true := by
  refine State.each_keeps (fun s => Memory.wf s = true) _ (fun s x hs => ?_) _ _ h
  dsimp only
  split <;> exact Memory.wf_same rfl rfl rfl hs

theorem Memory.wf_refRun (s : State) (f n : Nat) (h : Memory.wf s = true) : Memory.wf (s.refRun f n) = true := by
  refine State.each_keeps (fun s => Memory.wf s = true) _ (fun s x hs => ?_) _ _ h
  exact Memory.wf_same rfl rfl rfl hs

theorem Memory.wf_newTable (s : State) (pol a : Nat) (u : State) (h : Memory.wf s = true) (e : s.newTable pol = some (a, u)) :
    Memory.wf u = true := by
  unfold State.newTable at e
  dsimp only at e
  split at e
  · cases e
  · split at e
    · obtain ⟨g, hg, hu⟩ := Option.map_eq_some_iff.mp e
      cases hu
      refine Memory.wf_put _ _ _ _ _ ?_
      exact Memory.wf_same (s := g.2) rfl rfl rfl (Memory.wf_allocRun s pol 1 g.1 g.2 h hg)
    · cases e
      refine Memory.wf_put _ _ _ _ _ ?_
      rw [Memory.wf_iff] at *
      exact ⟨h.1, h.2.1, SMap.wf_clear _ _ _ _ h.2.2⟩

theorem Memory.wf_writeAt (s : State) (pol va : Nat) (x : Xlat) (bs : List Byte) (u : State) (h : Memory.wf s = true)
    (e : s.writeAt pol va x bs = .ok u) : Memory.wf u = true := by
  unfold State.writeAt at e
  dsimp only at e
  split at e
  · split at e
    · cases e
    · cases e
      refine State.each_keeps (fun s => Memory.wf s = true) _ (fun s x hs => ?_) _ _ ?_
      · exact Memory.wf_same rfl rfl rfl hs
      · rw [Memory.wf_iff] at *
        exact ⟨Mem.wf_write _ _ _ h.1, h.2⟩
  · split at e
    · cases e
    · cases e; exact Memory.wf_hostWrite _ _ _ _ h
  · split at e <;> cases e
    exact h
  · cases e
    rw [Memory.wf_iff] at *
    exact ⟨h.1, Mem.wf_write _ _ _ h.2.1, h.2.2⟩

theorem Memory.wf_vwriteF (pol : Nat) : ∀ (fuel va : Nat) (bs : List Byte) (s : State), Memory.wf s = true →
    Memory.wf (s.vwriteF pol fuel va bs).1 = true
  | 0, _, _, _, h => h
  | fuel + 1, va, bs, s, h => by
    unfold State.vwriteF
    dsimp only
    split
    · exact h
    · split
      · exact h
      · split
        · exact h
        · rename_i u hu
          exact Memory.wf_vwriteF pol fuel _ _ u (Memory.wf_writeAt _ _ _ _ _ u h hu)

/-- A write at device-virtual addresses keeps the form, whether it is whole or stops. -/
theorem Memory.wf_vwrite (s : State) (pol va : Nat) (bs : List Byte) (h : Memory.wf s = true) :
    Memory.wf (s.vwrite pol va bs).1 = true := Memory.wf_vwriteF _ _ _ _ _ h

theorem Memory.wf_vwriteAll (s : State) (pol va : Nat) (bs : List Byte) (u : State) (h : Memory.wf s = true)
    (e : s.vwriteAll pol va bs = .ok u) : Memory.wf u = true := by
  have hw := Memory.wf_vwrite s pol va bs h
  unfold State.vwriteAll at e
  split at e
  · rename_i v hv; cases e; rw [hv] at hw; exact hw
  · cases e

theorem Memory.wf_correctUnit (s : State) (u : Nat) (h : Memory.wf s = true) : Memory.wf (s.correctUnit u) = true :=
  Memory.wf_bump _ _ _ _ _ (Memory.wf_same rfl rfl rfl h)
theorem Memory.wf_markPoison (s : State) (u mark : Nat) (h : Memory.wf s = true) : Memory.wf (s.markPoison u mark) = true :=
  Memory.wf_bump _ _ _ _ _ (Memory.wf_same rfl rfl rfl h)

theorem Memory.wf_meetFrame (s : State) (f : Nat) (h : Memory.wf s = true) : Memory.wf (s.meetFrame f) = true := by
  refine State.each_keeps (fun s => Memory.wf s = true) _ (fun s u hs => ?_) _ _ h
  split
  · exact hs
  · exact Memory.wf_correctUnit _ _ hs
  · exact Memory.wf_markPoison _ _ _ hs

theorem Memory.wf_moveFrame (s : State) (f g : Nat) (h : Memory.wf s = true) : Memory.wf (s.moveFrame f g) = true := by
  have h1 := (Memory.wf_iff _).mp (Memory.wf_meetFrame s f h)
  unfold State.moveFrame
  generalize s.meetFrame f = s1 at h1
  exact (Memory.wf_iff _).mpr ⟨Mem.wf_write _ _ _ h1.1, h1.2⟩

theorem Memory.wf_reset : Memory.wf State.reset = true := by decide

end Sys2Proof.Machine
end

