-- ==== Sys2Proof/Laws/Ops.lean ====
section
/-! SUPPORT. What each shared operation can do, said once. -/

namespace Sys2Proof.Machine.State

/-! Issue of tile instructions (R51, R56). -/

/-- Where the tile is at the instruction, its effect runs on the state after the fetch. -/
theorem issue_at (s : State) (t : Fin 192) (i : Instr) (g : State → State) (h : s.atInstr t i = true) : s.issue t i g = g (s.fetchOk t) := by
  simp only [atInstr, Bool.and_eq_true, bne_iff_ne, decide_eq_true_eq] at h
  obtain ⟨⟨⟨h1, h2⟩, h3⟩, h4⟩ := h
  simp only [issue, h1, h2, h4, Bool.and_self, Bool.not_true, Bool.false_eq_true, if_false, if_neg h3, if_true]

/-- Only the PC, the mark of its end and the tile's state move. -/
theorem advance_spec (s : State) (t : Nat) :
    OnlyTile s (s.advance t) t ∧ (s.tile t).moved ((s.advance t).tile t) ∧
      (s.advance t).tile t = { s.tile t with pc := ((s.advance t).tile t).pc, pastEnd := ((s.advance t).tile t).pastEnd, st := .running } := by
  have ht : (s.advance t).tile t = if (s.tile t).pc.toNat = 32767 then { s.tile t with st := .running, pastEnd := true }
      else { s.tile t with st := .running, pc := (s.tile t).pc + 1 } := tile_setTile_self s t _
  refine ⟨⟨rfl, fun k hk => ?_⟩, ?_, ?_⟩
  · exact tile_setTile_ne s t _ k hk
  · rw [ht]; split <;> simp_all [Tile.moved]
  · rw [ht]; split <;> simp_all

/-! Events (R301, R302, R308). -/

/-- Nothing but registers and event sources differs. -/
def Touches (s u : State) : Prop := ∃ r q, u = { s with regs := r, srcs := q }

theorem Touches.refl (s : State) : Touches s s := ⟨s.regs, s.srcs, rfl⟩
theorem Touches.trans {s u v : State} : Touches s u → Touches u v → Touches s v := by
  rintro ⟨r, q, rfl⟩ ⟨r', q', rfl⟩
  exact ⟨r', q', rfl⟩
theorem touches_put (s : State) (f : Fld) (v i j : Nat) : Touches s (s.put f v i j) := ⟨_, s.srcs, rfl⟩
theorem touches_setSrc (s : State) (n : Nat) (x : Src) : Touches s (s.setSrc n x) := ⟨s.regs, _, rfl⟩
theorem touches_memory {s u : State} : Touches s u → Memory.wf s = true → Memory.wf u = true := by
  rintro ⟨r, q, rfl⟩ h
  exact Memory.wf_same rfl rfl rfl h

/-- An edge that enters touches EVC_PEND and its source only. -/
theorem pendEdge_frame (s : State) (src : Nat) (d : BitVec 128) : Touches s (s.pendEdge src d) := by
  unfold pendEdge
  split
  · exact touches_setSrc _ _ _
  · exact (touches_put s _ _ _ _).trans (touches_setSrc _ _ _)

theorem pendEdge_regs (s : State) (src : Nat) (d : BitVec 128) : KeepsRegs s (s.pendEdge src d) [.EVC_PEND] := by
  intro r i j hr
  unfold pendEdge
  split
  · exact reg_setSrc _ _ _ _ _ _
  · rw [reg_setSrc]
    exact reg_put_reg s EVC_PEND.PEND r _ _ _ i j (fun h => hr (by rw [h]; exact List.mem_singleton.mpr rfl))

theorem raise_frame (s : State) (src : Nat) (d : BitVec 128) : Touches s (s.raise src d) := by
  unfold raise
  split
  · exact touches_setSrc _ _ _
  · exact pendEdge_frame s src d

theorem raise_regs (s : State) (src : Nat) (d : BitVec 128) : KeepsRegs s (s.raise src d) [.EVC_PEND] := by
  unfold raise
  split
  · exact fun _ _ _ _ => rfl
  · exact pendEdge_regs s src d

theorem raiseSched_frame (s : State) (i : Nat) (d : BitVec 128) : Touches s (s.raiseSched i d) := by
  unfold raiseSched
  split
  · exact raise_frame s i d
  · unfold when
    split
    · exact (raise_frame s _ d).trans (raise_frame _ i d)
    · exact raise_frame s _ d

theorem raiseSched_regs (s : State) (i : Nat) (d : BitVec 128) : KeepsRegs s (s.raiseSched i d) [.EVC_PEND] := by
  unfold raiseSched
  split
  · exact raise_regs s i d
  · rename_i im _
    unfold when
    split
    · exact fun r a b hr => (raise_regs _ i d r a b hr).trans (raise_regs s _ d r a b hr)
    · exact raise_regs s _ d

/-- An event leaves the memories alone. -/
theorem raise_memory (s : State) (src : Nat) (d : BitVec 128) (h : Memory.wf s = true) : Memory.wf (s.raise src d) = true :=
  touches_memory (raise_frame s src d) h

theorem raiseSched_memory (s : State) (i : Nat) (d : BitVec 128) (h : Memory.wf s = true) : Memory.wf (s.raiseSched i d) = true :=
  touches_memory (raiseSched_frame s i d) h

/-! Writes through a port (R231). -/

theorem adminWrite_open (s : State) (p : Nat) (g : State → State) (h : s.adminPort p = true) : s.adminWrite p g = g s := by
  simp [adminWrite, h]

theorem adminWrite_closed (s : State) (p : Nat) (g : State → State) (h : s.adminPort p = false) : s.adminWrite p g = s.drop p := by
  simp [adminWrite, h]

theorem polderWrite_open (s : State) (p n : Nat) (g : State → State) (h : s.openOn n p = true) : s.polderWrite p n g = g s := by
  simp [polderWrite, h]

theorem polderWrite_closed (s : State) (p n : Nat) (g : State → State) (h : s.openOn n p = false) : s.polderWrite p n g = s.drop p := by
  simp [polderWrite, h]

/-! Descriptors (R262, R266). -/

/-- The operation of a descriptor that its unit runs. -/
theorem runDesc_runs (s : State) (x : Desc) (opcode : Nat) (g : Desc → State → State) (h : s.runs x opcode) :
    s.runDesc x.id opcode g = g { x with phase := .running } (s.taken x.id) := by
  obtain ⟨h1, h2, h3, h4⟩ := h
  simp [runDesc, h1, h2, h3, h4, taken]

/-- A descriptor that is not there, or has ended, does not end again. -/
theorem endDesc_none (s : State) (d status det done : Nat) (h : s.desc d = none) : s.endDesc d status det done = s := by
  simp [endDesc, h]

theorem endDesc_again (s : State) (x : Desc) (status det done : Nat) (h : s.desc x.id = some x) (hp : x.phase = .ended) :
    s.endDesc x.id status det done = s := by
  simp [endDesc, h, hp]

theorem freeEngine_descs (s : State) (n : Nat) : (s.freeEngine n).descs = s.descs := by
  unfold freeEngine; dsimp only; split <;> rfl

theorem freeEngine_memory (s : State) (n : Nat) (h : Memory.wf s = true) : Memory.wf (s.freeEngine n) = true := by
  unfold freeEngine
  dsimp only
  split
  · exact Memory.wf_put _ _ _ _ _ (Memory.wf_put _ _ _ _ _ (Memory.wf_same rfl rfl rfl h))
  · exact Memory.wf_same rfl rfl rfl h

theorem find?_onDesc (d : Nat) (g : Desc → Desc) (hg : ∀ y, y.id = d → (g y).id = d) : ∀ (l : List Desc) (x : Desc),
    l.find? (fun y => y.id == d) = some x → (l.map (fun y => if y.id = d then g y else y)).find? (fun y => y.id == d) = some (g x)
  | [], _, h => by simp at h
  | y :: l, x, h => by
    by_cases hy : y.id = d
    · simp only [List.find?_cons, hy, beq_self_eq_true] at h
      cases h
      simp [hy, hg]
    · have hb : (y.id == d) = false := by simpa using hy
      simp only [List.find?_cons, hb] at h
      simp only [List.map_cons, if_neg hy, List.find?_cons, hb]
      exact find?_onDesc d g hg l x h

theorem desc_onDesc (s : State) (x : Desc) (g : Desc → Desc) (h : s.desc x.id = some x) (hg : ∀ y, y.id = x.id → (g y).id = x.id) :
    (s.onDesc x.id g).desc x.id = some (g x) := find?_onDesc x.id g hg s.descs x h

/-- A descriptor that ends has its status, its detail and its progress (R262, R263). -/
theorem endDesc_ended (s : State) (x : Desc) (status det done : Nat) (h : s.desc x.id = some x) (hp : x.phase ≠ .ended) :
    (s.endDesc x.id status det done).ended x.id status (det % 2 ^ 48) done := by
  simp only [endDesc, h, if_neg hp]
  refine State.each_keeps (fun u => u.ended x.id status (det % 2 ^ 48) done) _ (fun u n hu => ?_) _ _ ?_
  · unfold ended desc at *
    rw [freeEngine_descs]; exact hu
  · exact ⟨_, desc_onDesc _ x _ h (fun _ hy => hy), rfl, rfl, rfl, rfl⟩

theorem endDesc_memory (s : State) (d status det done : Nat) (h : Memory.wf s = true) : Memory.wf (s.endDesc d status det done) = true := by
  unfold endDesc
  split
  · exact h
  · split
    · exact h
    · refine State.each_keeps (fun u => Memory.wf u = true) _ (fun u n hu => freeEngine_memory u n hu) _ _ ?_
      exact Memory.wf_same rfl rfl rfl h

/-! Floods (R179). -/

/-- A flood touches the links' management queues, the flood sequence and the floods seen. -/
theorem flood_frame (s : State) (m : Msg) :
    ∃ l, s.flood m = { s with links := l, floodSeq := s.floodSeq + 1, seen := (s.rank, s.floodSeq) :: s.seen } := by
  unfold flood
  refine State.each_keeps (fun u => ∃ l, u = { s with links := l, floodSeq := s.floodSeq + 1, seen := (s.rank, s.floodSeq) :: s.seen })
    _ (fun u k hu => ?_) _ _ ⟨s.links, rfl⟩
  obtain ⟨l, hl⟩ := hu
  rw [hl]; exact ⟨_, rfl⟩

theorem unlatch_frame (s : State) (lo hi : Nat) : Touches s (s.unlatch lo hi) :=
  State.each_keeps (Touches s) _ (fun _ _ h => h.trans ((touches_setSrc _ _ _).trans (pendEdge_frame _ _ _))) _ _ (Touches.refl s)

/-- The XD core clock that runs again touches registers and sources only (R323). -/
theorem wakeXd_frame (s : State) : Touches s s.wakeXd := by
  unfold wakeXd
  split
  · exact Touches.refl s
  · exact State.each_keeps (Touches s) _ (fun _ _ h => h.trans (unlatch_frame _ _ _)) _ _ (touches_put s _ _ _ _)

/-! Messages (R155, R178). -/

/-- Before its trailer is looked at, a message that is taken leaves the trailers delivered as they were. -/
theorem took_trailRx (s : State) (a : Via) (typ vc n : Nat) :
    (((s.took a.k n a.f).when (typ == 1) wakeXd).sendTo a.k (.credits vc n)).trailRx = s.trailRx := by
  have h : ((s.took a.k n a.f).when (typ == 1) wakeXd).trailRx = (s.took a.k n a.f).trailRx := by
    unfold when
    split
    · obtain ⟨r, q, h⟩ := wakeXd_frame (s.took a.k n a.f)
      rw [h]
    · rfl
  unfold sendTo sendMgmt
  simp only [setLink_trailRx]
  rw [h]
  rfl

theorem trailAhead_of (s u : State) (h : u.trailRx = s.trailRx) (src vc t : Nat) : u.trailAhead src vc t = s.trailAhead src vc t := by
  unfold trailAhead; rw [h]

/-- A message that is taken, and is no repeat, acts on the state that `got` gives. -/
theorem onMsg_gets (s : State) (a : Via) (typ vc n src : Nat) (g : State → State) (h : s.gets a typ vc src = true) :
    s.onMsg a typ vc n src g = g (s.got a typ vc n src) := by
  unfold gets at h
  rw [Bool.and_eq_true] at h
  have e := trailAhead_of s _ (took_trailRx s a typ vc n) src vc
  unfold onMsg receive got
  rw [if_pos h.1]
  dsimp only
  generalize ((s.took a.k n a.f).when (typ == 1) wakeXd).sendTo a.k (.credits vc n) = u at e ⊢
  match ht : a.trailer with
  | none => rfl
  | some t =>
    have h2 := h.2
    rw [ht] at h2
    rw [Option.all_some, decide_eq_true_eq, ← e t] at h2
    exact if_neg (Nat.not_le.mpr h2)

/-- A message whose flit is not taken has only the answer of the link to that flit. -/
theorem onMsg_refused (s : State) (a : Via) (typ vc n src : Nat) (g : State → State) (h : s.takes a.k typ vc false a.f = false) :
    s.onMsg a typ vc n src g = s.refuseFlit a.k vc false a.f := by
  unfold onMsg receive
  rw [if_neg (by rw [h]; exact Bool.false_ne_true)]

/-- A fault of a tile stops that tile, and else touches registers and sources only (R43, R45). -/
theorem latchFault_frame (s : State) (t code : Nat) :
    Touches (s.setTile t { s.tile t with st := .faulted }) (s.latchFault t code) := by
  unfold latchFault latchFaultAt
  dsimp only
  split
  · exact ((((touches_put _ _ _ _ _).trans (touches_put _ _ _ _ _)).trans (touches_put _ _ _ _ _)).trans
      (touches_put _ _ _ _ _)).trans (raiseSched_frame _ _ _)
  · exact touches_put _ _ _ _ _

end Sys2Proof.Machine.State

/-! Flits as bytes (R155). -/

namespace Sys2Proof.Machine

theorem crcBit_lt {x : Nat} (h : x < 2 ^ 32) : crcBit x < 2 ^ 32 := by
  unfold crcBit
  split
  · exact Nat.xor_lt_two_pow (by omega) (by decide)
  · omega
theorem crcByte_lt {x : Nat} (b : Byte) (h : x < 2 ^ 32) : crcByte x b < 2 ^ 32 := by
  have : ∀ (l : List Nat) y, y < 2 ^ 32 → l.foldl (fun x _ => crcBit x) y < 2 ^ 32 := by
    intro l
    induction l with
    | nil => intro y h; exact h
    | cons _ _ ih => intro y h; exact ih _ (crcBit_lt h)
  exact this _ _ (Nat.xor_lt_two_pow h (by have := b.isLt; omega))

/-- A check word has 32 bits. -/
theorem crc32c_lt (bs : List Byte) : crc32c bs < 2 ^ 32 := by
  have : ∀ (l : List Byte) y, y < 2 ^ 32 → l.foldl crcByte y < 2 ^ 32 := by
    intro l
    induction l with
    | nil => intro y h; exact h
    | cons b _ ih => intro y h; exact ih _ (crcByte_lt b h)
  exact Nat.xor_lt_two_pow (this _ _ (by decide)) (by decide)

end Sys2Proof.Machine

open Sys2Proof.Machine in
/-- The bytes of a flit whose payload is 1 to 32 units of 8 bytes are read as that flit. -/
theorem Sys2Proof.Flit.ofWire_bytes (f : Flit) (h : f.payload.length ≤ 256) (h0 : f.payload ≠ []) (h8 : f.payload.length % 8 = 0) :
    Flit.ofWire { bytes := f.bytes, ann := f.ann, trl := f.trl, corr := f.corr } = some f := by
  have hp := List.length_pos_of_ne_nil h0
  have hb : f.body.length = 268 := by simp [Flit.body, leBytes]; omega
  have hl : f.bytes.length = 272 := by simp [Flit.bytes, leBytes, hb]
  have hc : numAt f.bytes 268 4 = crc32c (f.bytes.take 268) := by
    have ht : f.bytes.take 268 = f.body := by simp [Flit.bytes, ← hb]
    have hd : f.bytes.drop 268 = leBytes 4 (crc32c f.body) := by simp [Flit.bytes, ← hb]
    have := crc32c_lt f.body
    rw [ht, numAt, hd]
    simp [leBytes, leNat]; omega
  have hlc : f.payload.length = 256 ∧ lengthCode f.payload.length = 0 ∨
      f.payload.length = 8 * lengthCode f.payload.length ∧ 0 < lengthCode f.payload.length ∧ lengthCode f.payload.length < 32 := by
    unfold lengthCode; omega
  have hpay : ((f.bytes.drop 12).take 256) = f.payload ++ List.replicate (256 - f.payload.length) 0 := by
    rw [Flit.bytes, Flit.body]
    simp only [leBytes, List.cons_append, List.nil_append, List.append_assoc, List.drop_succ_cons, List.drop_zero]
    rw [← List.append_assoc, List.take_left' (by simp; omega)]
  have e0 : numAt f.bytes 0 1 = f.typ.toNat := by
    show (BitVec.ofNat 8 f.typ.toNat).toNat + 256 * 0 = _; simp
  have e1 : numAt f.bytes 1 1 = f.vc.toNat + 4 * lengthCode f.payload.length := by
    show (BitVec.ofNat 8 (f.vc.toNat + 4 * lengthCode f.payload.length)).toNat + 256 * 0 = _
    simp; omega
  have two (x : Nat) (hx : x < 65536) : leNat [BitVec.ofNat 8 x, BitVec.ofNat 8 (x / 256)] = x := by simp [leNat]; omega
  have e2 : numAt f.bytes 2 2 = f.seq.toNat := two _ f.seq.isLt
  have e4 : numAt f.bytes 4 2 = f.ack.toNat := two _ f.ack.isLt
  have e6 : numAt f.bytes 6 2 = f.cr.toNat + 2 ^ 14 * f.crVc.toNat := two _ (by omega)
  have e8 : numAt f.bytes 8 4 = f.tag.toNat := by
    show leNat (leBytes 4 f.tag.toNat) = _
    have := f.tag.isLt
    simp [leBytes, leNat]; omega
  rw [Flit.ofWire]
  simp only [hl, hc, e0, e1, e2, e4, e6, e8, hpay, ne_eq, not_true_eq_false, or_self, if_false]
  have hv := f.vc.isLt
  have hcr := f.cr.isLt
  congr 1
  cases f with | mk typ vc seq ack crVc cr tag payload ann trl corr =>
  simp only [Flit.mk.injEq, BitVec.ofNat_toNat, BitVec.setWidth_eq, and_true, true_and]
  refine ⟨?_, ?_, ?_, ?_⟩
  · apply BitVec.eq_of_toNat_eq; simp; simp at hv; omega
  · apply BitVec.eq_of_toNat_eq; simp; simp at hcr; omega
  · apply BitVec.eq_of_toNat_eq; simp; simp at hcr; omega
  · rw [List.append_assoc]
    apply List.take_left'
    simp at hv hlc
    split <;> omega
end

