-- ==== Sys2Proof/WellFormed.lean ====
section
/-! DEFINITION. What a command must satisfy beside the bounds its operand types set. -/

namespace Sys2Proof

/-- Operands of the lengths and ranges that the chapters give them. -/
def Instr.wf : Instr → Bool
  | .hzVector _ _ codes => codes.length == 132
  | _ => true

end Sys2Proof
end

