-- ==== Sys2Proof/Tests/Slice0.lean ====
section
/-! SUPPORT. Tests: states and operands that meet the hypotheses of the statements, and a few values of the chapters' worked
examples. -/

open Sys2Proof Sys2Proof.Machine

namespace Sys2Proof.Tests

set_option Elab.async false

/-! Small states. -/

/-- A schedule runs, tile 0 runs, and the word stands at its PC. -/
def tileAt (w : Word) : State :=
  { (State.reset.put GLB_STEP_STATE.STATE 3).setTile 0 { st := .running } with istore := [(0, w)] }

/-- Polder 0 is OPEN on port 0 with a page of rings, 16 blocks of objects and a gibibyte; its device addresses are those of HBM. -/
def opened : State :=
  { (((((State.reset.put GLB_PLD_STAT.STATE 2).put GLB_PORT.POLDERS 1).put GLB_PLD_STAT.RING_PAGES 1).put GLB_PLD_STAT.SYNC_BLOCKS
      16).put GLB_PLD_STAT.HBM_GIB 1) with
    busMaster := [true, true, true, true]
    locked := [{ pol := 0, va := 0, size := 2 ^ 40, target := 0, addr := 0, rd := true, wr := true }] }

/-- Descriptor 0 of ring 0 of polder 0: an opcode, and fields by offset and length. -/
def descOf (op : Nat) (fields : List (Nat × Nat × Nat)) (ph : Phase) : Desc :=
  let put (raw : List Byte) (f : Nat × Nat × Nat) : List Byte := raw.take f.1 ++ leBytes f.2.1 f.2.2 ++ raw.drop (f.1 + f.2.1)
  { id := 0, ring := 0, pol := 0, pos := 0, raw := fields.foldl put (BitVec.ofNat 8 op :: List.replicate 63 0), phase := ph }

/-- `opened`, with the descriptor. -/
def withDesc (x : Desc) : State := { opened with descs := [x] }

/-- The result is a value. -/
def isOk {ε α : Type} : Except ε α → Bool
  | .ok _ => true
  | .error _ => false

/-- A tile at an instruction, in an otherwise fresh state. -/
def atI (i : Instr) : State := tileAt ((encodeTile i).getD 0)

/-- An image of one package: one berm step, a send and a receive channel of tile 0 with itself, one slot, one region. -/
def img : Image :=
  { id := 1, crc := 0, owner := 0, src := 0, horizon := 100, packages := 1, groups := 1, groupSize := 1, shape := 0, torus := [1, 1, 1],
    lanePlan := 0, iterations := 2, mirrorRule := 0, mirrorP := 0, caps := 0, steps := [⟨1000, true, false, false, [], [], 0⟩],
    sections := [], chans := [⟨true, 0, 0, 0, 0, 64, 1⟩, ⟨false, 0, 0, 0, 0, 64, 0⟩], slots := [0], regions := [⟨0, 4194304, true, true⟩] }

/-- The image is resident, in a state of R93. -/
def sched (st : Nat) (s : State) : State := { s.put GLB_STEP_STATE.STATE st with sched := { image := some img } }

/-- The image is resident and runs, and tile 0 is at the instruction. -/
def atS (i : Instr) : State :=
  { ((sched 3 opened).setTile 0 { st := .running, s := [(1, 64), (2, 128), (3, 192)] }) with istore := [(0, (encodeTile i).getD 0)] }

/-- Link 0 carries flits, its partner rank 1. -/
def linked : State :=
  { ((opened.put LNK_STATE.STATE 2).put LSW_SHAPE.GROUP_SIZE 2).put TIM_PORT.TIME_EN 1 with plan := { links := [{ peer := 1, sched := 8, unsched := 8 }] } }

/-- The first flit of a message in sequence on link 0. -/
def via (typ vc : Nat) : Via := { k := 0, f := { typ := BitVec.ofNat 8 typ, vc := BitVec.ofNat 2 vc, seq := 0, ack := 0 } }

/-- The bytes of a flit on the link. -/
def wire (f : Flit) : Wire := { bytes := f.bytes, ann := f.ann, trl := f.trl, corr := f.corr }

/-- A short flit in sequence, of a type on a channel, with a channel's credits. -/
def flit (typ vc cr : Nat) : Flit :=
  { typ := BitVec.ofNat 8 typ, vc := BitVec.ofNat 2 vc, seq := 0, ack := 0, crVc := BitVec.ofNat 2 cr, cr := 1, payload := leBytes 8 0 }

/-- Host memory holds tables that map the first page to host page 5, and nothing is embanked. -/
def mapped : State :=
  { (opened.put MMU_PT_CFG.USED_PT 4).put MMU_PT_BASE.ADDR 16 with
    locked := []
    host := (((Mem.write [] 0x10000 (leBytes 8 (mkTable 0x11000))).write 0x11000 (leBytes 8 (mkTable 0x12000))).write 0x12000
      (leBytes 8 (mkTable 0x13000))).write 0x13000 (leBytes 8 (mkLeaf true true false 1 0x5000 0)) }

/-- The outcome of a command that goes on. -/
def after (c : Instr) (s : State) : State :=
  match exec c s with
  | .next u => u
  | _ => s

/-! States and operands that meet the hypotheses of the statements: tile instructions. -/

theorem test_meets_scalar : (atI (.sopAdd 0 { d := 1, a := 2, b := 2 })).atInstr 0 (.sopAdd 0 { d := 1, a := 2, b := 2 }) = true ∧
    (atI (.ldi 191 { d := 1, imm := 0xFFFFFFFF })).atInstr 0 (.ldi 0 { d := 1, imm := 0xFFFFFFFF }) = true := by decide +kernel
theorem test_meets_rdsr : (atI (.rdsr 0 { d := 1, imm := 0 })).atInstr 0 (.rdsr 0 { d := 1, imm := 0 }) = true ∧
    (atI (.rdsr 0 { d := 1, imm := 6 })).atInstr 0 (.rdsr 0 { d := 1, imm := 6 }) = true ∧
    (atI (.rdsr 0 { d := 1, imm := 255 })).atInstr 0 (.rdsr 0 { d := 1, imm := 255 }) = true := by decide +kernel
theorem test_meets_wrsr : (atI (.wrsr 0 { a := 1, imm := 2 })).atInstr 0 (.wrsr 0 { a := 1, imm := 2 }) = true ∧
    (atI (.wrsr 0 { a := 1, imm := 4 })).atInstr 0 (.wrsr 0 { a := 1, imm := 4 }) = true := by decide +kernel
theorem test_meets_flow : (atI (.beq 0 { imm := 32767 })).atInstr 0 (.beq 0 { imm := 32767 }) = true ∧
    (atI (.loop 0 { d := 0 })).atInstr 0 (.loop 0 { d := 0 }) = true := by decide +kernel
theorem test_meets_load : let i := Instr.ld64 0 { d := 1, imm := 4194303 }
    (atI i).atInstr 0 i = true ∧ ((atI i).fetchOk 0).canAccess 0 [(4194296, 8)] [] = true := by decide +kernel
theorem test_meets_store : let i := Instr.st32 0 { d := 1, imm := 4194303 }
    (atI i).atInstr 0 i = true ∧ ((atI i).fetchOk 0).canAccess 0 [] [(4194300, 4)] = true := by decide +kernel
theorem test_meets_out_of_range : let i := Instr.ld64 0 { d := 1, imm := 4194304 }
    (atI i).atInstr 0 i = true ∧ 0x400000 < 4194304 / 8 * 8 + 8 := by decide +kernel
theorem test_meets_lanes : (atI (.fma 0 { d := 1, md := 3 })).atInstr 0 (.fma 0 { d := 1, md := 3 }) = true ∧
    (atI (.abs 0 { d := 1, md := 3 })).atInstr 0 (.abs 0 { d := 1, md := 3 }) = true := by decide +kernel
theorem test_meets_reduction : (atI (.rdot 0 { d := 1 })).atInstr 0 (.rdot 0 { d := 1 }) = true ∧
    (atI (.exp2 0 { d := 1 })).atInstr 0 (.exp2 0 { d := 1 }) = true := by decide +kernel
theorem test_meets_convert : (atI (.vcvtIntegers 0 { d := 1, imm := 2 })).atInstr 0 (.vcvtIntegers 0 { d := 1, imm := 2 }) = true := by
  decide +kernel
theorem test_meets_convert_store : let i := Instr.vcvtIntegers 0 { d := 1, imm := 1 }
    (atS i).atInstr 0 i = true ∧ ((atS i).fetchOk 0).canAccess 0 [] [(64, 128)] = true := by decide +kernel
theorem test_meets_row : let i := Instr.vcvtMxRow 0 { d := 1 }
    let j := Instr.vcvtFromStore 0 { a := 1 }
    (atS i).atInstr 0 i = true ∧ ((atS i).fetchOk 0).canAccess 0 [] [(64, 32 * (mxElem 0).width + 8)] = true ∧
    (atS j).atInstr 0 j = true ∧ ((atS j).fetchOk 0).canAccess 0 [(64, (CvtSrc.of { a := 1 }).bytes)] [] = true := by decide +kernel
theorem test_meets_vld : let i := Instr.vld 0 { d := 1, a := 1 }
    (atS i).atInstr 0 i = true ∧ ((atS i).fetchOk 0).canAccess 0 [(64, 1024)] [] = true := by decide +kernel
theorem test_meets_vsts : let i := Instr.vsts 0 { d := 1, a := 1, b := 2 }
    (atS i).atInstr 0 i = true ∧ ((atS i).fetchOk 0).canAccess 0 [] ((List.range 256).map (fun k => (64 + 128 * k, 4))) = true := by
  decide +kernel
theorem test_meets_tmm : let f : TF := { d := 3, a := 1, b := 2, imm := 0x11000 }
    let i := Instr.tmmMma 0 f
    let q := (atS i).tmmPlace 0 f (tmmMode f) false
    (atS i).atInstr 0 i = true ∧
    ((atS i).fetchOk 0).canAccess 0 [(q.a, 64 * q.ra), (q.b, (if q.bt then 64 else q.k) * q.rb), (q.c, 16384)] [(q.c, 16384)] = true := by
  decide +kernel
theorem test_meets_fence : (atS (.waitall 0 {})).atInstr 0 (.waitall 0 {}) = true ∧ ((atS (.waitall 0 {})).tile 0).ops = [] := by
  decide +kernel
theorem test_meets_transfer : let i := Instr.hbmRd 0 { d := 1, a := 2, b := 1 }
    (atS i).atInstr 0 i = true ∧ ((atS i).fetchOk 0).canIssue 0 [(64, 64)] [] = true ∧
    isOk (((atS i).fetchOk 0).xferRun 0 { id := 0, kind := .hbmRd, dst := 64, src := 128, len := 64 }) = true := by decide +kernel
theorem test_meets_gather_read : let i := Instr.gthRd 0 { d := 1, a := 2, b := 1 }
    let s := (atS i).put GTH_ASSIGN.EN 1
    s.atInstr 0 i = true ∧ (s.fetchOk 0).canIssue 0 [(64, 64)] [] = true ∧ s.schedEngine 0 = true := by decide +kernel
theorem test_meets_send : let i := Instr.lsend 0 { a := 1, b := 1 }
    (atS i).atInstr 0 i = true ∧ ((atS i).fetchOk 0).canIssue 0 [(64, 64)] [] = true ∧
    ((atS i).tileChan 0 { a := 1, b := 1 } true).isSome = true := by decide +kernel
theorem test_meets_signal : let i := Instr.ssignal 0 { b := 1 }
    (atS i).atInstr 0 i = true ∧ ((atS i).fetchOk 0).canIssue 0 [] [] = true ∧ (atS i).slotObj 0 = some 0 := by decide +kernel
theorem test_meets_hz_claim : let i := Instr.hzstream 0 { d := 1, a := 2, b := 0 }
    (atS i).atInstr 0 i = true ∧ ((atS i).fetchOk 0).canIssue 0 [(128, 0), (64, 0)] [] = true := by decide +kernel
theorem test_meets_operation_end : let o : TileOp := { id := 0, kind := .tsRd, dst := 64, src := 128, len := 64 }
    let p : TileOp := { id := 1, kind := .lsend, src := 64, len := 64 }
    let g : TileOp := { id := 2, kind := .signal, arg := 1023, val := 0xFFFFFFFFFFFFFFFF }
    let r : TileOp := { id := 3, kind := .gthRd, dst := 64, len := 64 }
    let s := { (sched 3 opened).setTile 0 { st := .running, ops := [o, p, g, { p with id := 4 }, r, { r with id := 5 }] } with
      streams := SMap.set [] [] 0 ((leBytes 64 0).map (fun b => (b, false))) }
    (s.tile 0).op 0 = some o ∧ isOk (s.xferRun 0 o) = true ∧ (s.tile 0).op 1 = some p ∧ (s.tile 0).firstOf p = true ∧
    (s.chan 0).isSome = true ∧ isOk (s.storeSource 0 64 64) = true ∧ (s.tile 0).op 2 = some g ∧
    (s.tile 0).firstOf { p with id := 4 } = false ∧ (s.tile 0).firstOf r = true ∧ isOk (s.xferRun 0 r) = true ∧
    (s.tile 0).firstOf { r with id := 5 } = false := by decide +kernel
theorem test_meets_receive : let i := Instr.lrecv 0 { d := 1, b := 1, imm := 1 }
    (atS i).atInstr 0 i = true ∧ ((atS i).tileChan 0 { d := 1, b := 1, imm := 1 } false).isSome = true ∧
    ((atS i).tileChan 0 { d := 1, b := 1, imm := 0 } false).isNone = true ∧ ((atS i).fetchOk 0).canAccess 0 [] [(64, 64)] = true := by
  decide +kernel
theorem test_meets_sync_wait : (atS (.swait 0 {})).atInstr 0 (.swait 0 {}) = true ∧ (atS (.swait 0 {})).slotObj 4095 = none := by
  decide +kernel
theorem test_meets_flag_report : let i := Instr.hzfbr 0 { d := 4, a := 1, imm := 7 }
    let s := (atS i).setTile 0 { (atS i).tile 0 with blocks := [⟨7, 3, [1]⟩] }
    let w := (atS i).setTile 0 { (atS i).tile 0 with ops := [{ id := 0, kind := .hzstream, arg := 7 }] }
    s.atInstr 0 i = true ∧ (s.tile 0).blocks.find? (fun b => b.tag == 7) = some ⟨7, 3, [1]⟩ ∧
    (s.fetchOk 0).canAccess 0 [] [(64, 64)] = true ∧ w.atInstr 0 i = true := by decide +kernel
theorem test_meets_step_end : (atS (.stepEnd 0 {})).atInstr 0 (.stepEnd 0 {}) = true ∧ ((atS (.stepEnd 0 {})).tile 0).ops = [] := by
  decide +kernel
theorem test_meets_undefined_major : (tileAt 0).atInstr 0 (.undefMajor 0 0) = true ∧
    (tileAt 0xFC00000000000001).atInstr 0 (.undefMajor 0 0xFC00000000000001) = true := by decide +kernel
theorem test_meets_past_end : let s := (tileAt 0).setTile 191 { st := .running, pastEnd := true, pc := 32767 }
    s.tilesRun = true ∧ (s.tile 191).pastEnd = true ∧ (s.tile 191).st = .running := by decide +kernel
theorem test_meets_supply : (tileAt 0).tilesRun = true ∧ 0 / 12 = (0 : Fin 16).val ∧ ((tileAt 0).tile 0).done = false ∧
    ((tileAt 0).tile 0).st ≠ .faulted := by decide +kernel
theorem test_meets_encode : encodeTile (.retire 191 { imm := 0xFFFFFFFF }) = some 0x3C100000FFFFFFFF ∧
    decodeTile true 0 0x0BFFFFFFFFFFFFFF ≠ .undefMajor 0 0x0BFFFFFFFFFFFFFF := by decide +kernel

/-! Registers, schedules, gather engines, Hjelzo engines. -/

theorem test_meets_register_write : opened.target 0 0x2000 = .msix 0 ∧ opened.adminPort 0 = true ∧ opened.adminPort 1 = false ∧
    opened.target 0 0x100000 ≠ .empty ∧ opened.target 0 0x110000 = .dropped := by decide +kernel
theorem test_meets_sched_load : let x := descOf 0x10 [(0x18, 8, 0), (0x20, 4, 64)] .issued
    (withDesc x).runs x 0x10 ∧ isOk (((withDesc x).taken 0).vread 0 0 64) = true ∧ (withDesc x).schedBusy = false := by
  unfold State.runs; decide +kernel
theorem test_meets_sched_start : let x := descOf 0x11 [] .issued
    let y := descOf 0x13 [] .issued
    let b : Berm := ⟨0, 0, [], false, []⟩
    (sched 1 (withDesc x)).runs x 0x11 ∧ (sched 1 (withDesc x)).sched.image = some img ∧ (sched 1 (withDesc x)).sched.readies = [] ∧
    (sched 5 (withDesc y)).runs y 0x13 ∧ (sched 5 { withDesc y with sched := { berm := some b } }).sched.startDesc ≠ some 0 := by
  unfold State.runs; decide +kernel
theorem test_meets_resume : let y := descOf 0x13 [] .issued
    let b : Berm := ⟨0, 0, [], false, []⟩
    let s := { sched 5 (withDesc y) with sched := { image := some img, berm := some b } }
    s.runs y 0x13 ∧ s.sched.berm = some b ∧ s.sched.image = some img := by
  unfold State.runs; decide +kernel
theorem test_meets_preempt : let x := descOf 0x12 [] .issued
    (sched 3 (withDesc x)).runs x 0x12 ∧ (sched 3 (withDesc x)).sched.preDescs.contains 0 = false ∧
    (0, 0) ∉ (sched 2 opened).seen := by unfold State.runs; decide +kernel
theorem test_meets_message : let s := sched 3 linked
    s.gets (via 4 0) 4 0 1 = true ∧ (1, 7) ∉ s.seen ∧ s.inStep = true ∧ s.sched.late = false ∧ s.boundary ≠ s.sched.crossed ∧
    (1, 7) ∈ ({ s with seen := [(1, 7)] } : State).seen ∧ s.takes 0 4 0 false (via 4 1).f = false ∧ s.sched.image = some img ∧
    s.crossedOne = true ∧ (sched 1 linked).gets (via 4 0) 4 0 1 = true ∧ linked.sched.image = none := by decide +kernel
theorem test_meets_step_start : let s := { sched 2 opened with sched := { image := some img, go := some 0 } }
    s.sched.image = some img ∧ s.sched.go = some 0 ∧ s.schedSt = 2 ∧ s.sched.kind = .start ∧ 0 ≤ s.mtick := by decide +kernel
theorem test_meets_boundary : let s := { (sched 3 opened).put TIM_MTICK.TICKS 100000 with
      sched := { image := some img, join0 := true, join1 := true } }
    s.inStep = true ∧ s.sched.frozen = none ∧ s.sched.holds = [] ∧ s.boundary ≤ s.stepCount ∧ s.sched.preempt = none := by
  decide +kernel
theorem test_meets_rollback : let r : Report := ⟨0, 0, none, 0, 0⟩
    let s := { sched 4 opened with sched := { image := some img, reports := [r], berm := some ⟨0, 0, [], false, []⟩ } }
    let w := { sched 4 opened with sched := { image := some img, target := some r, readies := [⟨0, 0, 1, 0, false, 2, 0, 0, 0⟩] } }
    s.sched.image = some img ∧ s.sched.target = none ∧ s.sched.berm ≠ none ∧
    (List.range img.packages).all (fun q => !s.reach q || s.sched.reports.any (fun x => x.rank == q)) = true ∧
    isOk (w.reloadTiles img) = true ∧ w.rollbackGo img = some 100 ∧ (img.step r.latest).isSome = true ∧ w.schedSt = 4 ∧
    w.rollbackSent = true ∧ w.sched.restoring = false := by decide +kernel
theorem test_meets_resumed_start : let b : Berm := ⟨0, 0, [], false, []⟩
    let s := { sched 2 opened with sched := { image := some img, berm := some b, go := some 5, kind := .resume } }
    s.sched.berm = some b ∧ s.sched.go = some 5 ∧ s.schedSt = 2 ∧ s.sched.kind = .resume := by decide +kernel
theorem test_meets_batch_take : let s := ((sched 3 opened).put GTH_ASSIGN.EN 1 15).setEngine 15 {}
    let u := { s with sync := SMap.set 0 [] 0 1 }
    u.schedEngine 15 = true ∧ u.get GTH_ASSIGN.EN 15 = 1 ∧ (u.engine 15).batch = none ∧ (u.engine 15).queued = none ∧
    u.schedSt = 3 ∧ u.get PWR_IDLE.IDLE ≠ 1 ∧ u.objField u.owner (u.get GTH_QUEUE_CFG.DOORBELL 15) = some 0 ∧
    u.get GTH_CONSUMED.COUNT 15 < (u.obj 0).toNat ∧
    isOk ((u.demand u.owner 0 64).batchRead { op := 0, cmd := [], pol := 0 } 0 64) = true := by decide +kernel
theorem test_meets_gather : let x := descOf 0x18 [(0x18, 1, 3)] .issued
    let s := ((withDesc x).put GTH_ASSIGN.EN 1 3).put GTH_QUEUE_CFG.MODE 1 3
    s.runs x 0x18 ∧ x.field 0x18 1 % 16 = 3 ∧ (s.engine 3).batch = none ∧ s.engineReason 0 3 = none ∧
    isOk ((s.reading x 0 64).vread 0 0 64) = true ∧ (withDesc x).engineReason 0 3 = some 4 ∧ x.blob = [] ∧
    ({ s with descs := [{ x with blob := leBytes 64 0 }] } : State).runs { x with blob := leBytes 64 0 } 0x18 := by
  unfold State.runs; decide +kernel
theorem test_meets_batch_done : let x := descOf 0x18 [] .running
    let b : Batch := { op := 0, cmd := leBytes 64 0, pol := 0, desc := some 0, done := true }
    let s := (withDesc x).setEngine 0 { batch := some b }
    (s.engine 0).batch = some b ∧ s.desc 0 = some x ∧ x.phase ≠ .ended ∧ s.objField 0 (bDone b.cmd) = some 0 := by decide +kernel
theorem test_meets_row_fetch : let b : Batch := { op := 0, cmd := leBytes 64 0, tbl := leBytes 64 0, pol := 0, desc := some 0 }
    let t (o : Nat) (h : List Byte) : Trk := ⟨5, 0, 0, o, h⟩
    let s (o : Nat) (h : List Byte) := opened.setEngine 0 { batch := some b, trk := [t o h] }
    (s 0 []).fetchOf 0 5 = some (t 0 [], b) ∧ (s 0 [1]).fetchOf 0 5 = some (t 0 [1], b) ∧ (s 1 []).fetchOf 0 5 = some (t 1 [], b) ∧
    isOk (((s 0 []).freeEntry 0 5).readRow 0 (tCache b.tbl) false 0 (tRowSize b.tbl)) = true ∧ tFrozen b.tbl = false := by
  decide +kernel
theorem test_meets_row_answer : let b : Batch := { op := 0, cmd := leBytes 64 0, tbl := leBytes 64 0, pol := 0 }
    let s := linked.setEngine 0 { batch := some b, trk := [⟨5, 0, 0, 1, []⟩] }
    s.fetchOf 0 5 = some (⟨5, 0, 0, 1, []⟩, b) ∧ s.gets (via 1 1) 1 1 1 = true ∧ s.reach 1 = true ∧ opened.reach 1 = false := by
  decide +kernel
theorem test_meets_owner : let v (sched : Bool) := linked.got (via 1 2) 1 (if sched then 1 else 2) 1 1
    let u := (sched 3 opened).put GTH_ASSIGN.EN 1 15
    let w := u.put GTH_SORT_BYTES.BYTES 4096 15
    linked.gets (via 1 2) 1 2 1 = true ∧ linked.gets (via 1 1) 1 1 1 = true ∧ isOk ((v false).vread 0 0 64) = true ∧
    isOk ((v false).readRow 0 false false 0 (tRowSize (leBytes 64 0))) = true ∧ img.mayRange 0 64 false = true ∧
    u.takesUpdates 15 = true ∧ opened.takesUpdates 15 = false ∧
    isOk (w.batchWrite { op := 1, cmd := [], pol := 0 } 0 (Contrib.bytes { seq := 0, rank := 0, row := 0, grad := [] })) = true := by
  decide +kernel
theorem test_meets_bag : let b : Batch := { op := 0, cmd := leBytes 64 0, tbl := leBytes 64 0, pol := 0 }
    let s := opened.setEngine 0 { batch := some b }
    (s.engine 0).batch = some b ∧ b.op = 0 ∧ b.desc = none ∧ b.bad = [] := by decide +kernel
theorem test_meets_hz_grant : let o : TileOp := { id := 0, kind := .hzstream, len := 1 }
    let s := (opened.setTile 191 { st := .running, ops := [o] }).setHz 1 { claims := [(191, 0)] }
    let l : TileOp := { id := 0, kind := .hzload, len := 16384 }
    let w := (opened.setTile 0 { st := .running, ops := [l] }).setHz 0 { loading := some (0, 0) }
    (s.tile 191).op 0 = some o ∧ (s.hzEng 1).nextClaim = some (191, 0) ∧ (w.tile 0).op 0 = some l ∧
    (w.hzEng 0).loading = some (0, 0) ∧ isOk (w.storeSource 0 0 16384) = true := by decide +kernel
theorem test_meets_hz_vector : let b : HzBlk := { id := 0, tile := 0, op := 0, tag := 0, n := 1, src := 0, dst := 128, gen := 0 }
    let c : HzBlk := { b with id := 2 }
    let s := opened.setHz 1 { blocks := [b, c], vptr := 1 }
    (s.hzEng 1).nextVector [0, 2] = some c ∧ (s.hzEng 1).nextVector [0] = some b ∧
    ((s.hzEng 1).blocks.map (·.id)).Pairwise (· < ·) ∧ isOk (s.storeSource 0 0 128) = true := by decide +kernel
theorem test_meets_hz_audit : (opened.setHz 0 { winFull := some 1 }).hzEng 0 = { winFull := some 1 } ∧ opened.adminPort 0 = true ∧
    ({ opened with part := .lhn1A } : State).part.hz = true := by decide +kernel

/-! Links, switch control, time. -/

theorem test_meets_lane_plan : let x := descOf 0x20 [] .issued
    (withDesc x).runs x 0x20 ∧ x.planMode = 0 ∧ isOk (((withDesc x).taken 0).vread 0 0 4160) = true ∧
    (descOf 0x20 [(0x20, 1, 1)] .issued).planMode = 1 ∧ (descOf 0x20 [(0x20, 1, 2)] .issued).planMode = 2 := by
  unfold State.runs; decide +kernel
theorem test_meets_lane : opened.adminPort 0 = true ∧ opened.bit FWU_STATUS.PAUSED = false ∧ opened.part.hasLane 0 = true ∧
    opened.part.hasLane 511 = true ∧ opened.adminPort 3 = false := by decide +kernel
theorem test_meets_training : (opened.put LSW_LANE.STATE 2 511).get LSW_LANE.STATE 511 = 2 ∧
    (opened.put LNK_STATE.STATE 1 127).get LNK_STATE.STATE 127 = 1 := by decide +kernel
theorem test_meets_flit_leaves : let m : Mgmt := ⟨0, 0, .abort 0⟩
    let s := linked.setLink 0 { q0 := [m], avail0 := 1, retry := [] }
    let p : Pkt := { dst := 1, tag := 0, bytes := [1] }
    let d := linked.setLink 0 { q1 := [p], avail1 := 1 }
    linked.linkUp 0 = true ∧ linked.stopped 0 = false ∧ linked.linkUp 127 = false ∧ linked.pick 0 = .idle ∧
    d.routeLink d.rank 1 = some 0 ∧ (d.planLink 0).peer = p.dst ∧ (s.link 0).q0 = [m] ∧
    (linked.setLink 0 { retry := [{ seq := 0, vc := 0, mgmt := some m }], replay := some 0 }).pick 0 = .replay := by decide +kernel
theorem test_meets_picks : let s := ((linked.put LNK_STATE.LANES_RX 4).put LNK_STATE.LANES_TX 4)
    (s.setLink 0 { q0 := [⟨0, 0, .abort 0⟩], avail0 := 1 }).pick 0 = .vc0 ∧
    (s.setLink 0 { q1 := [⟨1, 0, [1], none, 0⟩], avail1 := 1 }).pick 0 = .vc1 ∧
    (s.setLink 0 { q2 := [⟨1, 0, [1], none, 0⟩], avail2 := 1 }).pick 0 = .vc2 ∧
    (s.setLink 0 { q1 := [⟨1, 0, [1], none, 0⟩] }).pick 0 = .stall ∧
    (s.setLink 0 { q0 := [⟨0, 0, .nak 0⟩] }).pick 0 = .control := by decide +kernel
theorem test_meets_data : let s := { linked with sched := { image := some img } }
    let f : Flit := { flit 1 1 0 with tag := 1 }
    s.linkUp 0 = true ∧ seqAhead f.seq.toNat (s.link 0).rxSeq = 0 ∧ s.tagKnown 1 f.tag = true ∧
    (s.link 0).held1 < (s.planLink 0).sched ∧ s.schedSt ≠ 4 ∧ 1 < s.window 0 ∧ seqAhead 1 (s.link 0).rxSeq = 1 ∧
    s.window 0 ≤ seqAhead 65535 (s.link 0).rxSeq ∧ 65536 - s.window 0 ≤ seqAhead 65535 (s.link 0).rxSeq ∧
    Flit.ofWire { bytes := [] } = none := by decide +kernel
/-- Every flit of the last two statements' clauses has its bytes. -/
theorem test_meets_wire (typ vc cr : Nat) (tag : BitVec 32) (ann : Bool) :
    Flit.ofWire (wire { flit typ vc cr with tag := tag, ann := ann }) = some { flit typ vc cr with tag := tag, ann := ann } :=
  Flit.ofWire_bytes _ (by simp [flit, leBytes]) (by simp [flit, leBytes]) (by simp [flit, leBytes])
theorem test_meets_books : linked.linkUp 0 = true ∧ (linked.link 0).rxSeq % 65536 = 0 ∧ (flit 2 0 1).seq.toNat = 0 ∧
    (linked.link 0).joining = [] ∧ (linked.link 0).resyncSeq ≠ some 0 := by decide +kernel
theorem test_meets_link_state : linked.gets (via 4 0) 4 0 5 = true ∧ (5, 1) ∉ linked.seen ∧ opened.adminPort 0 = true := by decide +kernel
theorem test_meets_loops : opened.scu.released = false ∧ opened.part.hasLoop 781 = true ∧ opened.part.hasLoop 0 = true ∧
    opened.scu.holder = none ∧ opened.scu.held = [] ∧ opened.bit FWU_STATUS.PAUSED = false ∧
    (opened.put FWU_STATUS.PAUSED 1).bit FWU_STATUS.PAUSED = true := by decide +kernel
theorem test_meets_sample : let s := { opened.put SCU_LOOP_STAT.STATE 1 781 with scu := { holder := some 0 } }
    let w := { s with scu := { s.scu with held := [.mode 781 2] } }
    let r := w.scu.held.foldl State.replayScu { w with scu := { w.scu with held := [] } }
    s.scu.holder ≠ none ∧ s.loopSt 781 = 1 ∧ s.part.hasLoop 781 = true ∧ (rangeStep 0 512 0).2 = false ∧ (rangeStep 2 1023 0).2 = true ∧
    w.recable = none ∧ r.recable = none ∧ r.scu.holder = some 0 ∧ r.scu.held = [] ∧
    (s.put SCU_LOOP_STAT.STATE 6 781).loopSt 781 = 6 := by decide +kernel
theorem test_meets_sync : let s := (linked.put TIM_TB_CFG.SRC 1 7).put TIM_TB_CFG.ROOT_RANK 1 7
    s.gets (via 5 0) 5 0 0 = true ∧ (s.link 0).timeOk = true ∧ s.get TIM_TB_CFG.SRC 7 = 1 ∧
    (s.got (via 5 0) 5 0 1 0).timeParent ((s.got (via 5 0) 5 0 1 0).rootOf 7) = some 0 ∧
    SMap.get none (s.link 0).syncRx 7 = none := by decide +kernel
theorem test_meets_delay : let s := linked.setLink 0 { pdOut := some (0, 0) }
    (s.link 0).pdOut = some (0, 0) ∧ s.gets (via 5 0) 5 0 0 = true ∧ linked.tickRoot = linked.rank ∧ opened.linkUp 0 = false := by
  decide +kernel

/-! Ports, polders, rings, descriptors, memory, events. -/

theorem test_meets_polder : opened.adminPort 0 = true ∧ opened.polderSt 7 = 0 ∧ opened.polderSt 0 = 2 ∧
    ((opened.put GLB_PLD_STAT.STATE 2 1).polderSt 1 = 2) ∧ (opened.put GLB_PLD_STAT.STATE 3 7).closedOut 7 = true ∧
    (opened.put GLB_PLD_STAT.STATE 1 7).polderSt 7 = 1 := by decide +kernel
theorem test_meets_port : opened.busMaster.length = 4 ∧ opened.inReset.length = 4 ∧ opened.openOn 0 0 = true ∧
    isOk (opened.vread 0 0 256) = true ∧ isOk (opened.vwriteAll 0 0 (leBytes 8 1)) = true ∧ opened.openOn 1 0 = false := by decide +kernel
theorem test_meets_bar2_errors : ({ opened with locked := [] } : State).vread 0 0 8 = .error (.fault 1 0) ∧
    (match ({ opened with poison := [(0, 1)] } : State).vread 0 0 8 with
      | .error (.hbm _ _) => true
      | _ => false) = true := by decide +kernel
theorem test_meets_ring : opened.openOn 0 0 = true ∧ opened.ownsRing 0 0 = true ∧ opened.ownsRing 0 63 = true ∧
    opened.ownsRing 0 64 = false ∧ (opened.put RNG_CTRL.ENABLED 1 63).get RNG_CTRL.ENABLED 63 = 1 := by decide +kernel
theorem test_meets_grant : let s := (opened.put RNG_CTRL.ENABLED 1 63).put RNG_STATE.TAIL 1 63
    s.nextGrant = some 63 ∧ s.eligible 63 = true ∧ opened.nextGrant = none := by decide +kernel
theorem test_meets_fetch : let f : Fetch := { ring := 63, pos := 0, n := 8 }
    let s := { opened.put RNG_CTRL.ENABLED 1 63 with fetches := [f] }
    s.fetches.find? (fun f => f.ring == 63) = some f ∧ 0 < f.n ∧ s.ringOwner 63 = some 0 ∧ s.fetchBlocked 63 = false ∧ s.cancels = [] ∧
    isOk (s.vread 0 0 512) = true := by decide +kernel
theorem test_meets_issue : let x := descOf 0x01 [(4, 2, 0x8000)] .waiting
    (withDesc x).desc 0 = some x ∧ (withDesc x).nextToIssue 0 = some x ∧ (withDesc x).nextToIssue 8191 = none ∧
    (withDesc x).issueCheck x = none ∧ (withDesc x).waitOpen x = true ∧
    (withDesc (descOf 0x7F [] .waiting)).issueCheck (descOf 0x7F [] .waiting) = some (stUndefined, 0) := by decide +kernel
theorem test_meets_issue_refused : let x := descOf 0x18 [] .waiting
    let y := descOf 0x20 [] .waiting
    let s := ((withDesc x).put GTH_ASSIGN.EN 1).put GTH_QUEUE_CFG.MODE 1
    s.nextToIssue 0 = some x ∧ s.issueCheck x = none ∧ s.waitOpen x = true ∧ gatherOp x.opcode = true ∧
    isOk (((s.dispatch x).demand 0 0 64).vread 0 0 64) = true ∧ (withDesc y).nextToIssue 0 = some y ∧ adminOp y.opcode = true ∧
    (withDesc x).absentUnit x = none ∧ (withDesc x).unavailable x = some 4 ∧
    ((withDesc (descOf 0x28 [(0x18, 1, 255)] .waiting)).absentUnit (descOf 0x28 [(0x18, 1, 255)] .waiting)).isSome = true := by
  decide +kernel
theorem test_meets_complete : let x := descOf 0x01 [(4, 2, 0x8000), (6, 2, 1)] .ended
    let s := withDesc x
    s.desc 0 = some x ∧ x.phase = .ended ∧ s.mute.getD 0 false = false ∧ s.recordTurn x = true ∧ s.get RNG_CTRL.BUSY 0 ≠ 1 ∧
    isOk ((s.applySignal x).vwriteAll 0 0 ((s.applySignal x).recordBytes x)) = true ∧ s.signalObj x = some 1 := by decide +kernel
theorem test_meets_copy : let x := descOf 0x02 [(0x18, 8, 0), (0x20, 8, 4095), (0x28, 8, 5000)] .running
    let y := { x with phase := .issued }
    (withDesc x).desc 0 = some x ∧ y.opcode = 0x02 ∧ (withDesc y).copyRoom y = true ∧ (withDesc x).pieceTurn x = true ∧
    ({ opened with descs := [x, { x with id := 1 }] } : State).pieceTurn { x with id := 1 } = false ∧ isOk ((withDesc x).vread 0 0 1) = true ∧
    isOk ((withDesc x).vwriteAll 0 4095 [7]) = true ∧
    ({ withDesc x with locked := [] } : State).vread 0 0 1 = .error (.fault 1 0) := by decide +kernel
theorem test_meets_cancel : let x := descOf 0x04 [(0x18, 2, 0), (0x1A, 2, 1)] .issued
    let s := (withDesc x).put RNG_CTRL.ENABLED 1
    s.runs x 0x04 ∧ s.cancelRing x = 0 ∧ s.announcedAt 0 1 = none ∧ (s.put RNG_STATE.TAIL 2).announcedAt 0 1 = some 1 ∧
    (descOf 0x01 [] .issued).opcode = 1 := by unfold State.runs; decide +kernel
theorem test_meets_map : let x := descOf 0x40 [(0x18, 8, 4096), (0x20, 8, 4096), (0x28, 8, 0x6000), (0x30, 1, 1), (0x31, 1, 3)] .issued
    let s := { mapped with descs := [x] }
    let v := s.taken 0
    s.runs x 0x40 ∧ s.tablesWait 0 = false ∧ (List.range x.mapArgs.pages).drop x.prog = [0] ∧ v.mapSkips 0 x.mapArgs 0 = false ∧
    v.tablesShort 0 x.mapArgs [0] ≤ v.tablesLeft 0 ∧ x.mapArgs.target ≠ 0 ∧
    (v.reachPage 0 (x.mapArgs.pageVa 0) x.mapArgs.level).map (·.1) = some 0x13008 := by unfold State.runs; decide +kernel
theorem test_meets_map_fresh : let x := descOf 0x40 [(0x18, 8, 4096), (0x20, 8, 4096), (0x28, 8, 2 ^ 64 - 1), (0x30, 1, 0), (0x31, 1, 3)] .issued
    let s := { mapped with descs := [x] }
    s.runs x 0x40 ∧ x.mapArgs.target = 0 ∧ ((s.taken 0).allocRun 0 1).isSome = true ∧ s.quotaFree 0 = 262144 ∧
    (s.put GLB_PLD_STAT.HBM_GIB 0).quotaFree 0 = 0 := by unfold State.runs; decide +kernel
theorem test_meets_map_waits : let x := descOf 0x40 [(0x18, 8, 4096), (0x20, 8, 4096), (0x28, 8, 0x6000), (0x30, 1, 1), (0x31, 1, 3)] .issued
    let r : Rem := { tag := 4, desc := none, ring := 0, requester := 1, access := 0, pol := 0, rank := 1, va := 0, len := 8, lva := 4096 }
    let y := descOf 0x40 [(0x18, 8, 4096), (0x20, 8, 4096), (0x28, 8, 2 ^ 46), (0x30, 1, 0), (0x31, 1, 3)] .issued
    let s (x : Desc) (rs : List Rem) : State := { mapped with descs := [x], remotes := rs }
    (s x [r]).runs x 0x40 ∧ (s x [r]).inUse 0 4096 4096 = true ∧ (s x []).inUse 0 4096 4096 = false ∧ y.mapArgs.fresh = false ∧
    (s y []).tablesWait 0 = false ∧ isOk (((s y []).taken 0).aliasRun 0 (y.mapArgs.pageAddr 0) 1) = false := by
  unfold State.runs; decide +kernel
theorem test_meets_unmap : let x := descOf 0x41 [(0x18, 8, 0), (0x20, 8, 4096)] .issued
    let s := { mapped with descs := [x] }
    s.runs x 0x41 ∧ x.range = (0, 4096) ∧ s.lockedAt 0 0 = none ∧
    (s.taken 0).pageAt 0 0 = .ok (4, 0x13000, mkLeaf true true false 1 0x5000 0) ∧
    isOk ((s.taken 0).pageAt 0 4096) = false := by unfold State.runs; decide +kernel
theorem test_meets_embank : let x := descOf 0x42 [(0x18, 8, 0), (0x20, 8, 4096)] .issued
    let s := { mapped with descs := [x] }
    s.runs x 0x42 ∧ x.done = 0 ∧ (s.taken 0).walk 0 0 = .leaf 4 0x13000 (mkLeaf true true false 1 0x5000 0) ∧ s.locked.length < 65536 ∧
    (s.taken 0).walk 0 (2 ^ 40) = .hole 1 0x10000 := by unfold State.runs; decide +kernel
theorem test_meets_release : let x := descOf 0x43 [(0x18, 8, 0), (0x20, 8, 4096)] .issued
    (withDesc x).runs x 0x43 ∧ (sched 3 (withDesc x)).releaseBarred 0 0 4096 = true := by unfold State.runs; decide +kernel
theorem test_meets_fault_reply : let x := descOf 0x44 [(0x18, 4, 9)] .issued
    let y : Desc := { descOf 0x02 [] .suspended with id := 1 }
    let f : FaultRec := ⟨0, some 15, 9, 1, 0, 1, 0, 0, some 1, 0, 0⟩
    let s := { opened with descs := [x, y], faults := [f] }
    s.runs x 0x44 ∧ s.desc 1 = some y ∧ s.faultNamed x = some f ∧ x.replyAbort = false ∧
    s.faults.find? (fun f => f.pol == 0 && f.slot == some 15) = some f ∧ (descOf 0x44 [(0x1C, 1, 1)] .issued).replyAbort = true := by
  unfold State.runs; decide +kernel
theorem test_meets_read_error : let s := { opened.put RNG_CTRL.ENABLED 1 63 with fetches := [{ ring := 63, pos := 0, n := 1 }] }
    s.get RNG_CTRL.ENABLED 63 = 1 ∧ s.get RNG_CTRL.QUEUED 63 = 0 ∧ s.fetchBlocked 63 = false ∧ s.ringOwner 63 = some 0 ∧
    opened.ringOwner 8191 = none ∧ (withDesc (descOf 0x02 [] .running)).desc 0 = some (descOf 0x02 [] .running) := by decide +kernel
theorem test_meets_remote : let a := linked.got (via 1 2) 1 2 2 1
    let b := { mapped with locked := [{ pol := 0, va := 0, size := 4096, target := 1, addr := 0x5000, rd := true, wr := true }], busMaster := [] }
    let r : Rem := { tag := 4, desc := some 0, ring := 0, requester := 1, access := 0, pol := 0, rank := 1, va := 0, len := 8, lva := 0 }
    let x := descOf 0x02 [] .running
    let s := { withDesc x with remotes := [r] }
    linked.gets (via 1 2) 1 2 1 = true ∧ linked.isOpen 0 = true ∧ (linked.lockedAt 0 0).map (·.rd) = some true ∧
    isOk (a.vread 0 0 8) = true ∧ (match b.vread 0 0 8 with | .error .wait => true | _ => false) = true ∧
    isOk (a.vwriteAll 0 0 [1]) = true ∧ s.remotes.find? (fun r => r.tag == 4 && r.ans.isNone) = some r ∧ s.desc 0 = some x ∧
    s.get MMU_FQ_CFG.EN 0 = 0 := by decide +kernel
theorem test_meets_add : let x := descOf 0x08 [(0x18, 2, 1023), (0x1C, 4, 2 ^ 31), (0x20, 8, 5)] .issued
    let y := descOf 0x08 [(0x18, 2, 1023), (0x1C, 4, 1)] .issued
    (withDesc x).runs x 0x08 ∧ (withDesc x).objField 0 1023 = some 1023 ∧ (withDesc x).objField 0 1024 = none ∧
    x.field 0x1C 4 / 2 ^ 31 = 1 ∧ y.field 0x1C 4 % 32768 ≠ opened.rank ∧ (linked.routeLink 0 1).isSome = true ∧
    (withDesc y).routeLink 0 1 = none := by unfold State.runs; decide +kernel
theorem test_meets_add_answer : let x := descOf 0x08 [] .running
    let a : RAdd := { tag := 3, pol := 0, obj := 0, val := 1, rank := 1, desc := some 0 }
    let s := { withDesc x with adds := [a] }
    s.adds.find? (fun a => a.tag == 3) = some a ∧ s.desc 0 = some x ∧ s.adds.find? (fun a => a.tag == 4) = none ∧
    linked.gets (via 1 2) 1 2 1 = true ∧ linked.gets (via 1 1) 1 1 1 = true ∧ linked.gets (via 1 2) 1 1 1 = false ∧
    linked.isOpen 0 = true ∧ linked.ownsObj 0 0 = true := by decide +kernel
theorem test_meets_event : opened.openOn 0 0 = true ∧ opened.get EVC_CTRL.HOLD 0 = 0 ∧ (opened.put EVC_CTRL.HOLD 1).get EVC_CTRL.HOLD = 1 := by
  decide +kernel
theorem test_meets_delivery : let s := ((opened.setReg .EVC_PEND 0 0 8).setReg .EVC_MASK 0 0 0).put EVC_TGT_CFG.EN 1 0 15
    s.nextEvent 0 = some (3, 15) ∧ s.get PWR_IDLE.IDLE ≠ 1 ∧ opened.nextEvent 0 = none ∧ s.queueFull 0 15 = false := by decide +kernel
theorem test_meets_target_write : let s := opened.put EVC_TGT_CFG.EN 1
    s.get EVC_TGT_CFG.EN 0 0 = 1 ∧ s.get EVC_CTRL.MODE 0 = 0 ∧ (0 : BitVec 64).getLsbD 0 = false := by decide +kernel

/-! Power, starts, firmware, counters. -/

theorem test_meets_domain : let x := descOf 0x28 [(0x18, 1, 21), (0x19, 1, 1)] .issued
    let s := withDesc x
    s.runs x 0x28 ∧ x.action = 1 ∧ s.part.hasDomain x.domain = true ∧ x.arg = 0 ∧ s.doms = [] ∧
    (descOf 0x28 [(0x18, 1, 6), (0x19, 1, 2)] .issued).action = 2 ∧ (descOf 0x28 [(0x18, 1, 35), (0x19, 1, 255)] .issued).action = 0 := by
  unfold State.runs; decide +kernel
theorem test_meets_sequence : (opened.put PWR_DOMAIN.STATE 2 35).get PWR_DOMAIN.STATE 35 = 2 ∧ (opened.dom 35).queued = none ∧
    opened.rails.length = 7 ∧ opened.mainPower = true ∧ opened.starting = false := by decide +kernel
theorem test_meets_rearm : let x := descOf 0x2E [] .issued
    (withDesc x).runs x 0x2E := by unfold State.runs; decide +kernel
theorem test_meets_start : (opened.put PWR_START.PHASE 1).starting = true ∧ (opened.put PWR_START.PHASE 8).starting = true ∧
    (opened.put PWR_START.PHASE 11).starting = true := by decide +kernel
theorem test_meets_calibration : (withDesc (descOf 0x29 [] .issued)).runs (descOf 0x29 [] .issued) 0x29 ∧
    (let x := descOf 0x2A [(0x20, 8, 1048575)] .issued
     (withDesc x).runs x 0x2A ∧ x.blob = [] ∧ x.length 0x20 < 1048576) ∧
    (let x := descOf 0x2B [(0x20, 8, 1048575)] .issued
     (withDesc x).runs x 0x2B ∧ (withDesc x).schedBusy = false ∧ (withDesc x).starting = false ∧ x.length 0x20 < 1048576) := by
  unfold State.runs; decide +kernel
theorem test_meets_restore : let x := descOf 0x2B [(0x20, 8, 1048576)] .issued
    let w := { (withDesc x).put PWR_START.PHASE 8 with calFile := some 0 }
    (withDesc x).runs x 0x2B ∧ isOk (((withDesc x).taken 0).vread 0 0 1048576) = true ∧ (withDesc x).schedBusy = false ∧
    (withDesc x).starting = false ∧ w.runs x 0x2B ∧ w.starting = true ∧ (sched 3 (withDesc x)).schedBusy = true := by
  unfold State.runs; decide +kernel
theorem test_meets_settings : let x := descOf 0x2D [(0x20, 8, 8192)] .issued
    (withDesc x).runs x 0x2D ∧ isOk (((withDesc x).taken 0).vread 0 0 8192) = true ∧
    (withDesc (descOf 0x2C [] .issued)).runs (descOf 0x2C [] .issued) 0x2C := by unfold State.runs; decide +kernel
theorem test_meets_chunk : let x := descOf 0x30 [(0x20, 2, 767)] .issued
    let s := (withDesc x).put FWU_XFER.OPEN 1
    s.runs x 0x30 ∧ min 767 (x.field 0x20 2) = 767 ∧ s.get FWU_STATUS.PROVISIONAL ≠ 1 ∧ (s.put FWU_XFER.CHUNKS 768).get FWU_XFER.CHUNKS = 768 ∧
    isOk ((s.taken 0).vread 0 0 65536) = true := by unfold State.runs; decide +kernel
theorem test_meets_activate : (withDesc (descOf 0x31 [] .issued)).runs (descOf 0x31 [] .issued) 0x31 ∧
    (withDesc (descOf 0x32 [] .issued)).runs (descOf 0x32 [] .issued) 0x32 ∧
    (withDesc (descOf 0x33 [] .issued)).runs (descOf 0x33 [] .issued) 0x33 ∧ opened.heldWrites = [] := by unfold State.runs; decide +kernel
theorem test_meets_snapshot : let x := descOf 0x39 [(0x20, 8, 16448)] .issued
    (withDesc x).runs x 0x39 ∧ x.blob = [] ∧ 64 + 16 * ((withDesc x).ctrsOf 0).length ≤ x.length 0x20 := by unfold State.runs; decide +kernel
theorem test_meets_dump : let x := descOf 0x38 [(0x20, 8, 4202496)] .issued
    (withDesc x).runs x 0x38 ∧ x.blob = [] ∧ 4202496 ≤ x.length 0x20 := by unfold State.runs; decide +kernel
theorem test_reset_memory : Memory.wf State.reset = true := by decide
theorem test_meets_step : (match step State.reset with
    | .next _ => true
    | _ => false) = true := by decide +kernel

/-! Values of the chapters' worked examples, and a few results worked out by hand from the rules. -/

/-- WellFormed smoke: a vector of 131 or 133 result codes is refused, one of 132 is not (R127). -/
theorem test_wf_refuses : (Instr.hzVector 0 [0] (List.replicate 131 0)).wf = false ∧ (Instr.hzVector 0 [0] (List.replicate 133 0)).wf = false ∧
    (Instr.hzVector 0 [0] (List.replicate 132 0)).wf = true ∧ (Instr.nopDescriptor 0).wf = true := by decide +kernel
theorem test_no_table_words : decodeTableWord 8 1 = none ∧ State.reset.withFetchWord 8 1 = State.reset := by decide +kernel
/-- The check value of the standard CRC-32C polynomial. -/
theorem test_crc32c : crc32c ("123456789".toList.map (fun c => BitVec.ofNat 8 c.toNat)) = 0xE3069283 := by decide +kernel
/-- The worked TMM word of spec/03. -/
theorem test_tmm_word : decodeTile true 0 0x2801844000011000 = .tmmMma 0 { d := 3, a := 1, b := 2, imm := 0x11000 } := by decide +kernel
/-- The sum wraps modulo 2^64, and s0 takes nothing. -/
theorem test_add_wraps : let i := Instr.sopAdd 0 { d := 1, a := 1, b := 2 }
    let s := (atI i).setTile 0 { st := .running, s := [(1, 0xFFFFFFFFFFFFFFFF), (2, 2)] }
    (after i s).sreg 0 1 = 1 ∧ ((after i s).tile 0).pc = 1 := by decide +kernel
theorem test_s0_stays : let i := Instr.ldi 0 { d := 0, imm := 5 }
    (after i (atI i)).sreg 0 0 = 0 ∧ ((after i (atI i)).tile 0).pc = 1 := by decide +kernel
/-- −2^63 × −2^63 = 2^126, whose high half is 2^62. -/
theorem test_mulh : let i := Instr.sopMulh 0 { d := 1, a := 1, b := 1 }
    (after i ((atI i).setTile 0 { st := .running, s := [(1, 0x8000000000000000)] })).sreg 0 1 = 0x4000000000000000 := by decide +kernel
theorem test_store_range : let i := Instr.st64 0 { d := 1, imm := 4194304 }
    ((after i (atI i)).tile 0).st = .faulted ∧ (after i (atI i)).get GLB_TILE_FAULT_A.CODE = 4 ∧ (after i (atI i)).tstore = [] := by
  decide +kernel
/-- 1.0 is 0x3C00 in FP16 (R30). -/
theorem test_fp16 : (fFP16.encode .rne false false (fFP32.val 0x3F800000)).1 = 0x3C00 := by decide +kernel
/-- The route 70 → 88 → 982 → 1,000 of the worked example of spec/08. -/
theorem test_route : ((State.reset.put LSW_SHAPE.GROUP_SIZE 64).put LSW_SHAPE.GROUPS 16).path
    ((State.reset.put LSW_SHAPE.GROUP_SIZE 64).put LSW_SHAPE.GROUPS 16).linked 70 1000 = some [(88, 0), (982, 13), (1000, 0)] := by
  decide +kernel
/-- The worked example of spec/10: o is −7,084 units, so with KI 1 and KP 0 the integral term is −7,084. -/
theorem test_offset : let s := ((((linked.put TIM_TB_CFG.SRC 1).put TIM_TB_CFG.ROOT_RANK 1).put TIM_TB_STATUS.STATE 2).put
        TIM_PORT.ASYM 24).setReg .TIM_TB_SERVO 0 0 0
    let t := (((s.put TIM_TB_SERVO.KI 1).put TIM_TB_SERVO.JUMP_NS 1000).setLink 0 { delay := 9273344 }).setBase 0
      { t := 8999700 * 65536 + 16384 }
    let u := after (.syncMessage (via 5 0) { len := 44, tagLen := 44, domain := 0, seqId := 0, origin := 9000000 * 65536 }) t
    (u.base 0).integ = -7084 ∧ (u.base 0).freq = 7084 := by decide +kernel
/-- The grants of the worked example of spec/11: pages 0–1 and 66–97, and blocks 0–163, are held. -/
theorem test_grant : grantRun (fun i => decide (i < 2) || (decide (66 ≤ i) && decide (i < 98))) 128 48 = (2, 48) ∧
    grantRun (fun i => decide (i < 164)) 256 40 = (164, 40) := by decide +kernel
/-- The submission of spec/12: the sluice of a ring moves TAIL to 38 and takes CQ_HEAD 35. -/
theorem test_sluice : let s := (((((opened.put GLB_PLD_STAT.RING_PAGES 3).put RNG_CTRL.ENABLED 1 130).put RNG_CFG.SQ_LOG2 8 130).put
        RNG_STATE.TAIL 37 130).put RNG_STATE.HEAD 37 130).put RNG_STATE.CQ_TAIL 35 130
    let u := after (.sluice 0 0x182080 8 0x8000002300000026) s
    u.get RNG_STATE.TAIL 130 = 38 ∧ u.get RNG_STATE.CQ_HEAD 130 = 35 := by decide +kernel
/-- The worked example of spec/14: watch 6 of polder 2 goes to target 1, the one with the greatest running group. -/
theorem test_event_choice : let s := { (((((((State.reset.put GLB_PORT.POLDERS 4).setReg .GLB_PLD_STAT 2 0 8).setReg .EVC_PRIO 2 0
        0x62).setReg .EVC_PRIO 2 8 0x31000000000000).setReg .EVC_TGT_CFG 2 0 0x400009).setReg .EVC_TGT_CFG 2 1 0x1000009).setReg
        .EVC_TGT_CFG 2 2 0x250009) with busMaster := [true, true, true, true] }
    (((s.setReg .EVC_MASK 2 1 0).setReg .EVC_PEND 2 1 64).nextEvent 2 = some (1094, 1)) ∧
    (((s.setReg .EVC_TGT_CFG 2 1 0x310009).setReg .EVC_MASK 2 0 0).setReg .EVC_PEND 2 0 1).nextEvent 2 = none := by decide +kernel
/-- The counter of the worked example of R364: 300 s more on 192 tiles wrap it to 6,525,023,289,344 with OVF 1. -/
theorem test_counter : let s := ((((opened.put DBG_CNT_CFG.TILE 255 9).put DBG_CNT_CFG.EVENT 2 9).put DBG_CNT_CFG.ANY_STEP 1 9).put
        DBG_CNT_CFG.EN 1 9).put DBG_CNT_CFG.PC_HI 32767 9
    let u := after (.counterIncrement 0 2 57600000000000) { s with ctrs := [(9, { value := 230400000000000 })] }
    (u.ctr 9).value = 6525023289344 ∧ (u.ctr 9).ovf = 1 := by decide +kernel
/-- The clamp of the worked example of spec/00: a discrepancy time of 1 ms reads back 2 ms. -/
theorem test_disc_ms : (after (.discMsWrite 0 1) opened).get PWR_LASER.DISC_MS = 2 ∧ (after (.discMsWrite 0 255) opened).get PWR_LASER.DISC_MS = 200 := by
  decide +kernel
/-- A step takes the front of the queue and leaves the rest. -/
theorem test_queue : (match step { opened with pending := [.powerOn, .thermalTrip] } with
    | .next u => u.pending == [.thermalTrip]
    | _ => false) = true := by decide +kernel

end Sys2Proof.Tests
end

section
/-! SUPPORT. Scalar, special-register and control instructions of tiles, and the tile faults (R43, R45, R52, R59, R60): what the fetch
leaves, what a write of a scalar register, a branch and a fault do, said once; then the statements on them. -/

namespace Sys2Proof.Machine

/-! The state after the fetch (R26). -/

namespace State

variable (s : State) (t : Nat)

/-- The fetch touches the error marks of the instruction store and the registers only. -/
theorem fetchOk_frame : ∃ e r, s.fetchOk t = { s with isErr := e, regs := r } := by
  unfold fetchOk
  dsimp only
  split
  · exact ⟨s.isErr, s.regs, rfl⟩
  · exact ⟨_, _, rfl⟩

@[simp] theorem tile_fetchOk (k : Nat) : (s.fetchOk t).tile k = s.tile k := by
  obtain ⟨e, r, h⟩ := s.fetchOk_frame t
  rw [h]; rfl

@[simp] theorem sreg_fetchOk (k : Nat) (r : BitVec 5) : (s.fetchOk t).sreg k r = s.sreg k r := by
  rw [sreg, tile_fetchOk, sreg]

@[simp] theorem rank_fetchOk : (s.fetchOk t).rank = s.rank := by
  obtain ⟨e, r, h⟩ := s.fetchOk_frame t
  rw [h]; rfl

/-- Of the registers, only GLB_TSTORE_ECC counts the corrected word. -/
theorem get_fetchOk (f : Fld) (i j : Nat) (h : f.reg ≠ .GLB_TSTORE_ECC) : (s.fetchOk t).get f i j = s.get f i j := by
  unfold fetchOk
  dsimp only
  split
  · rfl
  · exact get_put_reg _ GLB_TSTORE_ECC.CE f _ _ _ i j h

/-- What RDSR reads is not moved by the fetch. -/
@[simp] theorem special_fetchOk (k n : Nat) : (s.fetchOk t).special k n = s.special k n := by
  unfold special
  rw [get_fetchOk s t GLB_STEP_NOW.STEP 0 0 (by decide), tile_fetchOk, rank_fetchOk]

end State

/-! Updates of one tile. -/

theorem OnlyTile.refl (s : State) (t : Nat) : OnlyTile s s t := ⟨rfl, fun _ _ => rfl⟩

theorem OnlyTile.trans {s u v : State} {t : Nat} : OnlyTile s u t → OnlyTile u v t → OnlyTile s v t := by
  rintro ⟨hu, ku⟩ ⟨hv, kv⟩
  refine ⟨?_, fun k hk => (kv k hk).trans (ku k hk)⟩
  rw [hv, hu]

theorem onlyTile_setTile (s : State) (t : Nat) (x : Tile) : OnlyTile s (s.setTile t x) t :=
  ⟨rfl, fun k hk => State.tile_setTile_ne s t x k hk⟩

/-- A scalar register after a write of one: s0 takes no value. -/
theorem Tile.sreg_setS (x : Tile) (d r : BitVec 5) (v : Word) :
    (x.setS d.toNat v).sreg r.toNat = if r = d ∧ d ≠ 0 then v else x.sreg r.toNat := by
  rcases eq_or_ne d 0 with rfl | hd
  · simp [Tile.setS]
  · have hd0 : d.toNat ≠ 0 := fun e => hd (BitVec.eq_of_toNat_eq e)
    rw [Tile.setS, if_neg hd0]
    unfold Tile.sreg
    by_cases hr : r = d
    · rw [hr, if_neg hd0, if_pos ⟨rfl, hd⟩, SMap.get_set_self]
    · have hn : r.toNat ≠ d.toNat := fun e => hr (BitVec.eq_of_toNat_eq e)
      rw [SMap.get_set_ne _ _ _ _ _ hn, if_neg (not_and_of_not_left _ hr)]

/-- A write of a scalar register leaves the other parts of the tile alone. -/
theorem Tile.setS_frame (x : Tile) (i : Nat) (v : Word) : x.setS i v = { x with s := (x.setS i v).s } := by
  unfold Tile.setS
  split <;> rfl

namespace State

variable (s : State) (t : Nat)

@[simp] theorem tile_setS (d : BitVec 5) (v : Word) : (s.setS t d v).tile t = (s.tile t).setS d.toNat v := tile_setTile_self s t _

theorem setS_onlyTile (d : BitVec 5) (v : Word) : OnlyTile s (s.setS t d v) t := onlyTile_setTile s t _

theorem sreg_setS (d r : BitVec 5) (v : Word) : (s.setS t d v).sreg t r = if r = d ∧ d ≠ 0 then v else s.sreg t r := by
  rw [sreg, tile_setS, Tile.sreg_setS, sreg]

/-- The end of an instruction moves no scalar register. -/
@[simp] theorem sreg_advance (r : BitVec 5) : (s.advance t).sreg t r = s.sreg t r := by
  obtain ⟨-, -, h⟩ := s.advance_spec t
  rw [sreg, h]; rfl

@[simp] theorem tile_jump (target : Nat) :
    (s.jump t target).tile t = { s.tile t with st := .running, pc := BitVec.ofNat 15 target } := tile_setTile_self s t _

theorem jump_onlyTile (target : Nat) : OnlyTile s (s.jump t target) t := onlyTile_setTile s t _

@[simp] theorem sreg_jump (target : Nat) (r : BitVec 5) : (s.jump t target).sreg t r = s.sreg t r := by
  rw [sreg, tile_jump]; rfl

theorem advance_went (target : Nat) : Went s (s.advance t) t false target := by
  obtain ⟨ho, hm, hf⟩ := s.advance_spec t
  exact ⟨ho, hf, hm⟩

theorem jump_went (target : Nat) : Went s (s.jump t target) t true target := by
  refine ⟨s.jump_onlyTile t target, ?_, ?_⟩ <;> simp

/-- A value written into a scalar register, and the instruction's end. -/
theorem setS_advance_wroteS (d : BitVec 5) (v : Word) : WroteS s ((s.setS t d v).advance t) t d v := by
  obtain ⟨ho, hm, hf⟩ := (s.setS t d v).advance_spec t
  refine ⟨(s.setS_onlyTile t d v).trans ho, ?_, fun r => ?_, ?_⟩
  · rw [tile_setS, Tile.setS_frame] at hm; exact hm
  · rw [sreg_advance, sreg_setS]
  · rw [hf, tile_setS, Tile.setS_frame]

/-- A value written into a scalar register, and a branch taken. -/
theorem setS_jump_spec (d : BitVec 5) (v : Word) (target : Nat) :
    let u := (s.setS t d v).jump t target
    OnlyTile s u t ∧ (∀ r : BitVec 5, u.sreg t r = if r = d ∧ d ≠ 0 then v else s.sreg t r) ∧
      u.tile t = { s.tile t with s := (u.tile t).s, pc := BitVec.ofNat 15 target, st := .running } := by
  refine ⟨(s.setS_onlyTile t d v).trans (jump_onlyTile _ t target), fun r => ?_, ?_⟩
  · rw [sreg_jump, sreg_setS]
  · rw [tile_jump, tile_setS, Tile.setS_frame]

end State

/-! Instructions that write one scalar register, and branches (R59, R60). -/

/-- An instruction that writes a scalar register writes the value it has on the state after the fetch. -/
theorem State.scalar_wroteS (s : State) (t : Fin 192) (i : Instr) (d : BitVec 5) (v : State → Word) (h : s.atInstr t i = true) :
    WroteS (s.fetchOk t) (s.scalar t i d v) t d (v (s.fetchOk t)) := by
  rw [scalar, issue_at s t i _ h]
  exact State.setS_advance_wroteS _ _ _ _

theorem immf_zero (f : TF) (w : Nat) : f.immf 0 w = f.imm.toNat % 2 ^ w := by
  rw [TF.immf, pow_zero, Nat.div_one]

/-- A branch goes to IMM[14:0] where its condition holds on the state after the fetch. -/
theorem State.branch_went (s : State) (t : Fin 192) (i : Instr) (f : TF) (c : State → Bool) (h : s.atInstr t i = true) :
    Went (s.fetchOk t) (s.branch t i f c) t (c (s.fetchOk t)) (f.imm.toNat % 32768) := by
  rw [branch, issue_at s t i _ h, immf_zero]
  cases c (s.fetchOk t)
  · exact State.advance_went _ _ _
  · exact State.jump_went _ _ _

/-- WRSR writes FLAGS or SEED of its tile and nothing else. -/
theorem State.setSpecial_spec (s : State) (t n : Nat) (v : Word) :
    OnlyTile s (s.setSpecial t n v) t ∧ (s.setSpecial t n v).tile t = { s.tile t with
      flags := if n = 2 then v.setWidth 4 else (s.tile t).flags
      seed := if n = 3 then v else (s.tile t).seed } := by
  unfold setSpecial
  split
  · exact ⟨onlyTile_setTile s t _, tile_setTile_self s t _⟩
  · exact ⟨onlyTile_setTile s t _, tile_setTile_self s t _⟩
  · rename_i h2 h3
    rw [if_neg h2, if_neg h3]
    exact ⟨OnlyTile.refl s t, rfl⟩

/-- RDSR and WRSR do what R60 states. -/
theorem specialRegisters : Claims.SpecialRegisters := by
  intro s t f
  constructor
  · intro h
    have hw := s.scalar_wroteS t _ f.d (fun s => s.special t (f.immf 0 8)) h
    rw [State.special_fetchOk, immf_zero] at hw
    refine ⟨_, rfl, ?_⟩
    rw [immf_zero]
    exact hw
  · intro h
    refine ⟨_, rfl, ?_⟩
    rw [State.issue_at s t _ _ h, State.sreg_fetchOk, immf_zero]
    obtain ⟨hs, hx⟩ := (s.fetchOk t).setSpecial_spec t (f.imm.toNat % 2 ^ 8) (s.sreg t f.a)
    obtain ⟨ho, hm, hf⟩ := ((s.fetchOk t).setSpecial t (f.imm.toNat % 2 ^ 8) (s.sreg t f.a)).advance_spec t
    rw [hx, State.tile_fetchOk] at hm hf
    exact ⟨hs.trans ho, hm, hf⟩

/-- NOP, the branches and LOOP do what R59 states. -/
theorem controlFlow : Claims.ControlFlow := by
  intro s t f
  simp only [List.forall_mem_cons, List.not_mem_nil, false_imp_iff, implies_true, and_true]
  refine ⟨⟨fun h => ?nop, fun h => ?jmp, fun h => ?beq, fun h => ?bne, fun h => ?blt, fun h => ?bge⟩, fun h => ?loop⟩
  case nop =>
    refine ⟨_, rfl, ?_⟩
    rw [State.issue_at s t _ _ h]
    exact State.advance_went _ _ _
  case jmp => exact ⟨_, rfl, s.branch_went t _ f (fun _ => true) h⟩
  case beq =>
    have hw := s.branch_went t _ f (fun s => s.sreg t f.a == s.sreg t f.b) h
    rw [State.sreg_fetchOk, State.sreg_fetchOk] at hw
    exact ⟨_, rfl, hw⟩
  case bne =>
    have hw := s.branch_went t _ f (fun s => s.sreg t f.a != s.sreg t f.b) h
    rw [State.sreg_fetchOk, State.sreg_fetchOk, bne, beq_eq_decide, ← decide_not] at hw
    exact ⟨_, rfl, hw⟩
  case blt =>
    have hw := s.branch_went t _ f (fun s => (s.sreg t f.a).slt (s.sreg t f.b)) h
    rw [State.sreg_fetchOk, State.sreg_fetchOk] at hw
    exact ⟨_, rfl, hw⟩
  case bge =>
    have hw := s.branch_went t _ f (fun s => !(s.sreg t f.a).slt (s.sreg t f.b)) h
    rw [State.sreg_fetchOk, State.sreg_fetchOk, BitVec.slt, ← decide_not] at hw
    simp only [not_lt] at hw
    exact ⟨_, rfl, hw⟩
  case loop =>
    refine ⟨_, rfl, ?_⟩
    rw [State.issue_at s t _ _ h]
    dsimp only
    rw [State.sreg_fetchOk, immf_zero]
    by_cases hv : s.sreg t f.d - 1 = 0
    · obtain ⟨ho, hm, hr, hf⟩ := (s.fetchOk t).setS_advance_wroteS t f.d (s.sreg t f.d - 1)
      simp only [State.tile_fetchOk, State.sreg_fetchOk] at hm hr hf
      rw [if_neg (not_not.mpr hv), if_neg (not_not.mpr hv)]
      exact ⟨ho, hr, hf, hm⟩
    · obtain ⟨ho, hr, hf⟩ := (s.fetchOk t).setS_jump_spec t f.d (s.sreg t f.d - 1) (f.imm.toNat % 2 ^ 15)
      simp only [State.tile_fetchOk, State.sreg_fetchOk] at hr hf
      rw [if_pos hv, if_pos hv]
      exact ⟨ho, hr, by rw [hf], congrArg Tile.pc hf⟩

/-- Settles O32: RDSR and WRSR by what the special registers read and take after the fetch, the flow by what a branch and the end of
an instruction move. -/
theorem specialRegistersAndFlow : Obligations.SpecialRegistersAndFlow := ⟨specialRegisters, controlFlow⟩

/-! Undefined MAJORs (R51, R52). -/

/-- The decoder of a defined MAJOR gives an instruction for every MINOR (R53). -/
theorem minorDecoders_ne_undefMajor : ∀ dec ∈ [decCtl, decSop, decSopi, decSmem, decVop, decVmem, decVred, decVcvt, decVfn, decTmm,
    decXfer, decLnk, decSyn, decHz, decStep], ∀ t f n t' w, dec t f n ≠ .undefMajor t' w := by
  intro dec hd t f n t' w
  fin_cases hd <;>
    dsimp only [decCtl, decSop, decSopi, decSmem, decVop, decVmem, decVred, decVcvt, decVfn, decTmm, decXfer, decLnk, decSyn, decHz,
      decStep] <;>
    split <;> nofun

theorem decodeTile_eq_undefMajor_iff (hz : Bool) (t : Fin 192) (w : Word) : decodeTile hz t w = .undefMajor t w ↔
    (w.extractLsb' 58 6).toNat = 0 ∨ 16 ≤ (w.extractLsb' 58 6).toNat ∨ ((w.extractLsb' 58 6).toNat = 14 ∧ hz = false) := by
  have hd := minorDecoders_ne_undefMajor
  simp only [List.forall_mem_cons, List.not_mem_nil, false_imp_iff, implies_true, and_true] at hd
  unfold decodeTile
  dsimp only
  split
  case h_14 hm => cases hz <;> simp [hm, hd]
  case h_16 =>
    simp only [imp_false, true_iff] at *
    omega
  all_goals
    rename_i hm
    simp [hm, hd]

/-! The latch of tile faults (R43, R45, R46). -/

namespace State

variable (s : State) (t code : Nat)

/-- A tile with a fault stops, and no other tile does. -/
theorem tile_latchFault (k : Nat) : (s.latchFault t code).tile k = if k = t then { s.tile t with st := .faulted } else s.tile k := by
  obtain ⟨r, q, h⟩ := s.latchFault_frame t code
  rw [h, ← tile_setTile]; rfl

/-- A field of a register other than EVC_PEND is not moved by an event. -/
theorem get_raiseSched (n : Nat) (d : BitVec 128) (f : Fld) (i j : Nat) (h : f.reg ≠ .EVC_PEND) :
    (s.raiseSched n d).get f i j = s.get f i j := by
  rw [get_def, get_def, s.raiseSched_regs n d f.reg i j (by simpa using h)]

/-- With the latch armed the fault is written into it, and an event is raised. -/
theorem latchFault_armed (h : s.get GLB_TILE_FAULT_A.CODE = 0) :
    ∃ d, s.latchFault t code = (((((s.setTile t { s.tile t with st := .faulted }).put GLB_TILE_FAULT_A.CODE code).put
      GLB_TILE_FAULT_A.TILE t).put GLB_TILE_FAULT_A.PC (s.tile t).pc.toNat).put GLB_TILE_FAULT_B.STEP
        (s.get GLB_STEP_NOW.STEP)).raiseSched 4 d := by
  unfold latchFault latchFaultAt
  rw [if_pos h]
  exact ⟨_, rfl⟩

/-- With a fault in the latch a further one is counted. -/
theorem latchFault_counted (h : s.get GLB_TILE_FAULT_A.CODE ≠ 0) :
    s.latchFault t code = (s.setTile t { s.tile t with st := .faulted }).bump GLB_TILE_FAULT_CNT.COUNT := by
  unfold latchFault latchFaultAt
  rw [if_neg h]

/-- What the latch shows of a fault it took. -/
theorem get_latchFault_armed (h : s.get GLB_TILE_FAULT_A.CODE = 0) (hc : code < 2 ^ 8) (ht : t < 2 ^ 8) :
    (s.latchFault t code).get GLB_TILE_FAULT_A.CODE = code ∧ (s.latchFault t code).get GLB_TILE_FAULT_A.TILE = t ∧
      (s.latchFault t code).get GLB_TILE_FAULT_A.PC = (s.tile t).pc.toNat ∧
      (s.latchFault t code).get GLB_TILE_FAULT_B.STEP = s.get GLB_STEP_NOW.STEP := by
  obtain ⟨d, hd⟩ := s.latchFault_armed t code h
  simp (disch := decide) only [hd, get_raiseSched, get_put_reg, get_put_field, get_put_self]
  exact ⟨Nat.mod_eq_of_lt hc, Nat.mod_eq_of_lt ht, Nat.mod_eq_of_lt (s.tile t).pc.isLt,
    Nat.mod_eq_of_lt (s.get_lt GLB_STEP_NOW.STEP 0 0)⟩

/-- A fault that is counted moves the counter, up to its maximum, and leaves the latch alone. -/
theorem regs_latchFault_counted (h : s.get GLB_TILE_FAULT_A.CODE ≠ 0) :
    (s.latchFault t code).get GLB_TILE_FAULT_CNT.COUNT =
        min GLB_TILE_FAULT_CNT.COUNT.stop (s.get GLB_TILE_FAULT_CNT.COUNT + 1) ∧
      (s.latchFault t code).reg .GLB_TILE_FAULT_A 0 0 = s.reg .GLB_TILE_FAULT_A 0 0 ∧
      (s.latchFault t code).reg .GLB_TILE_FAULT_B 0 0 = s.reg .GLB_TILE_FAULT_B 0 0 := by
  rw [s.latchFault_counted t code h]
  exact ⟨get_bump_self _ GLB_TILE_FAULT_CNT.COUNT 0 0 1 (by decide) (by decide),
    reg_put_reg _ GLB_TILE_FAULT_CNT.COUNT _ _ _ _ _ _ (by decide), reg_put_reg _ GLB_TILE_FAULT_CNT.COUNT _ _ _ _ _ _ (by decide)⟩

/-- The hang limit in hundredths of a nanosecond: a millisecond is 1,000,000 ns, a period 0.64 ns (R44). -/
theorem hangs_iff : s.hangs t = true ↔ s.get GLB_TILE_HANG.LIMIT_MS * 1000000 * 100 < 64 * (s.tile t).busy := by
  rw [hangs, decide_eq_true_eq, Nat.mul_assoc]

end State

theorem Tile.busyNow_iff (x : Tile) : x.busyNow = true ↔ x.st = .running ∨ x.st = .fence := by
  simp [Tile.busyNow]

/-- A tile over the hang limit has its fault; a command for one that is not leaves the state as it is (R44; log 7, DESIGN CHOICE). -/
theorem exec_tileHang (s : State) (t : Fin 192) : exec (.tileHang t) s = .next (
    if s.tilesRun = true ∧ ((s.tile t).st = .running ∨ (s.tile t).st = .fence) ∧
      s.get GLB_TILE_HANG.LIMIT_MS * 1000000 * 100 < 64 * (s.tile t).busy then s.tileFault t 6 else s) := by
  refine congrArg _ (if_congr ?_ rfl rfl)
  rw [Bool.and_eq_true, Bool.and_eq_true, Tile.busyNow_iff, State.hangs_iff, and_assoc]

/-- Settles O7: the decoder by its MAJORs, the three commands by their meanings, the latch by what `latchFault` leaves of registers and
tiles. The PC latched for SUPPLY and HANG, which have no faulting instruction, is the tile's present one (log 216, DEDUCED). -/
theorem tileFaultsLatch : Obligations.TileFaultsLatch := by
  intro s t w
  refine ⟨fun hz => decodeTile_eq_undefMajor_iff hz t w, fun h => ?undef, fun hr hp hs => ?pastEnd, exec_tileHang s t,
    fun code hc _ => ⟨?stops, fun k hk => ?others, fun ha => ?armed, fun hn => ?counted⟩⟩
  case undef => exact congrArg _ (s.issue_at t _ _ h)
  case pastEnd => exact congrArg _ (if_pos (by rw [hr, hp, hs]; rfl))
  case stops => rw [s.tile_latchFault, if_pos rfl]
  case others => rw [s.tile_latchFault, if_neg hk]
  case armed => exact s.get_latchFault_armed t code ha (by omega) (by omega)
  case counted => exact s.regs_latchFault_counted t code hn

end Sys2Proof.Machine
end

section
/-! SUPPORT. The control law and the sample of a loop in AUTO (R188, R191, R195, R196): what the law gives, what a reading leaves in the
registers, the sample as the two of them; then the statement on them. -/

namespace Sys2Proof.Machine

/-! Numbers as they stand in fields. -/

theorem uint_lt (w : Nat) (x : Int) : uint w x < 2 ^ w :=
  (Int.toNat_lt (Int.emod_nonneg x (by positivity))).mpr (Int.emod_lt_of_pos x (by positivity))

/-- The following-error count stays within its 14 bits, FE_SAMPLES being of as many. -/
theorem feStep_lt (coef : Nat) (e : Int) (n : Nat) : feStep coef e n < 2 ^ 14 := by
  unfold feStep
  split
  · exact (min_le_left _ _).trans_lt (Nat.mod_lt _ (by decide))
  · decide

/-! The control law (R188). -/

section

variable (i coef : Nat) (x : Loop) (e : Int)

/-- The sample after a change to AUTO gives the present output again (R191). -/
theorem controlLaw_integ_preset (h : x.preset = true) :
    (controlLaw i coef x e).integ = x.req - Int.fdiv (bitsOf coef 0 16 * e) 256 := if_pos h

/-- The integrator moves by KI × e / 256 where neither the clamp nor the bank held the sample before. -/
theorem controlLaw_integ_free (hp : x.preset = false) (hc : x.clamped = false) (hs : x.scaled = false) :
    (controlLaw i coef x e).integ = within (outRange i) (x.integ + Int.fdiv (bitsOf coef 16 16 * e) 256) := by
  simp [controlLaw, hp, hc, hs]

/-- The integrator does not wind up behind the clamp or a saturated bank. -/
theorem controlLaw_integ_frozen (hp : x.preset = false) (h : x.clamped = true ∨ x.scaled = true) :
    (controlLaw i coef x e).integ = x.integ := by
  have hf : (!x.clamped && !x.scaled) = false := by rcases h with h | h <;> simp [h]
  simp [controlLaw, hp, hf]

theorem controlLaw_req : (controlLaw i coef x e).req =
    within (outRange i) (Int.fdiv (bitsOf coef 0 16 * e) 256 + (controlLaw i coef x e).integ) := rfl

theorem controlLaw_clamped : (controlLaw i coef x e).clamped =
    decide ((controlLaw i coef x e).req ≠ Int.fdiv (bitsOf coef 0 16 * e) 256 + (controlLaw i coef x e).integ) := by
  rw [decide_not, ← beq_eq_decide]; rfl

theorem controlLaw_sp : (controlLaw i coef x e).sp = x.sp := rfl

end

/-! The reading of a sample (R196, R197). -/

/-- A loop after its monitor was read: the dwell in the range and the run of samples with light. -/
def Loop.monitored (x : Loop) (light flagged : Bool) : Loop :=
  { x with dwell := if flagged then 3 else x.dwell - 1, lightRun := if light then x.lightRun + 1 else 0 }

/-- The control law uses neither the dwell nor the run of light. -/
theorem controlLaw_monitored_req (i coef : Nat) (x : Loop) (e : Int) (light flagged : Bool) :
    (controlLaw i coef (x.monitored light flagged) e).req = (controlLaw i coef x e).req := rfl

namespace State

variable (s : State) (m : Sample)

/-- The monitor range after a reading, and whether the sample is flagged. -/
def ranging : Nat × Bool := rangeStep (s.get SCU_LOOP_STAT.RANGE m.loop) m.frac (s.stepPoint m.loop).dwell

/-- The registers after a reading: PV, the range, and the count of flagged samples. -/
def showReading : State :=
  ((s.put SCU_LOOP_STAT.PV (uint 16 m.pv) m.loop).put SCU_LOOP_STAT.RANGE (s.ranging m).1 m.loop).when (s.ranging m).2 (fun s =>
    s.bump SCU_LOOP_STAT.RANGE_CHG m.loop)

/-- Counting a flagged sample moves RANGE_CHG only. -/
theorem get_when_bump_rangeChg (c : Bool) (f : Fld) (i : Nat) (hr : f.reg = .SCU_LOOP_STAT) (hf : f.lo + f.w ≤ 52) :
    (s.when c (fun s => s.bump SCU_LOOP_STAT.RANGE_CHG i)).get f i 0 = s.get f i 0 := by
  cases c
  · rfl
  · exact get_put_field s SCU_LOOP_STAT.RANGE_CHG f _ i 0 hr (by decide) (Or.inr hf)

theorem get_showReading_pv : (s.showReading m).get SCU_LOOP_STAT.PV m.loop 0 = uint 16 m.pv := by
  simp (disch := decide) only [showReading, get_when_bump_rangeChg, get_put_field, get_put_self]
  exact Nat.mod_eq_of_lt (uint_lt 16 m.pv)

theorem get_showReading_feCount :
    (s.showReading m).get SCU_LOOP_STAT.FE_COUNT m.loop 0 = s.get SCU_LOOP_STAT.FE_COUNT m.loop 0 := by
  simp (disch := decide) only [showReading, get_when_bump_rangeChg, get_put_field]

/-! The sample of a loop in AUTO. -/

section

variable (ha : s.loopSt m.loop = 1)
include ha

/-- Flagged, the loop keeps its output and integrator, and its following error is not judged (R195, R196). -/
theorem sampleLoop_auto_flagged (hf : (s.ranging m).2 = true) :
    s.sampleLoop m = (s.showReading m).setLoop m.loop ((s.stepPoint m.loop).monitored m.light true) := by
  simp only [ranging] at hf
  simp [sampleLoop, ha, hf, showReading, ranging, Loop.monitored]

/-- Not flagged, the loop follows the control law, and its following error is judged (R188, R195). -/
theorem sampleLoop_auto_unflagged (hf : (s.ranging m).2 = false) :
    s.sampleLoop m =
      ((s.showReading m).setLoop m.loop (controlLaw m.loop (s.coefOf m.loop)
        ((s.stepPoint m.loop).monitored m.light false) ((s.stepPoint m.loop).sp - m.pv))).put SCU_LOOP_STAT.FE_COUNT
          (feStep (s.coefOf m.loop) ((s.stepPoint m.loop).sp - m.pv) (s.get SCU_LOOP_STAT.FE_COUNT m.loop)) m.loop := by
  rw [← s.get_showReading_feCount m]
  simp only [ranging] at hf
  simp [sampleLoop, ha, hf, showReading, ranging, Loop.monitored]

/-- A sample shows its reading in PV. -/
theorem get_sampleLoop_auto_pv : (s.sampleLoop m).get SCU_LOOP_STAT.PV m.loop = uint 16 m.pv := by
  cases hf : (s.ranging m).2
  · rw [s.sampleLoop_auto_unflagged m ha hf]
    exact (get_put_field _ SCU_LOOP_STAT.FE_COUNT SCU_LOOP_STAT.PV _ m.loop 0 rfl (by decide) (by decide)).trans (s.get_showReading_pv m)
  · rw [s.sampleLoop_auto_flagged m ha hf, get_setLoop, get_showReading_pv]

/-- A sample leaves the loop the set-point it stepped to. -/
theorem loop_sampleLoop_auto_sp : ((s.sampleLoop m).loop m.loop).sp = (s.stepPoint m.loop).sp := by
  cases hf : (s.ranging m).2
  · rw [s.sampleLoop_auto_unflagged m ha hf, loop_put, loop_setLoop_self]; rfl
  · rw [s.sampleLoop_auto_flagged m ha hf, loop_setLoop_self]; rfl

/-- What the control law requests, and the following-error count, where the reading is not flagged. -/
theorem sampleLoop_auto_law (hf : (s.ranging m).2 = false) :
    ((s.sampleLoop m).loop m.loop).req =
        (controlLaw m.loop (s.coefOf m.loop) (s.stepPoint m.loop) ((s.stepPoint m.loop).sp - m.pv)).req ∧
      (s.sampleLoop m).get SCU_LOOP_STAT.FE_COUNT m.loop =
        feStep (s.coefOf m.loop) ((s.stepPoint m.loop).sp - m.pv) (s.get SCU_LOOP_STAT.FE_COUNT m.loop) := by
  rw [s.sampleLoop_auto_unflagged m ha hf]
  constructor
  · rw [loop_put, loop_setLoop_self, controlLaw_monitored_req]
  · rw [get_put_self _ _ _ _ _ (by decide)]
    exact Nat.mod_eq_of_lt (feStep_lt _ _ _)

/-- A flagged sample leaves the output, the integrator and the following-error count. -/
theorem sampleLoop_auto_holds (hf : (s.ranging m).2 = true) :
    ((s.sampleLoop m).loop m.loop).req = (s.stepPoint m.loop).req ∧
      ((s.sampleLoop m).loop m.loop).integ = (s.stepPoint m.loop).integ ∧
      (s.sampleLoop m).get SCU_LOOP_STAT.FE_COUNT m.loop = s.get SCU_LOOP_STAT.FE_COUNT m.loop := by
  rw [s.sampleLoop_auto_flagged m ha hf, loop_setLoop_self, get_setLoop, get_showReading_feCount]
  exact ⟨rfl, rfl, rfl⟩

end

end State

end Sys2Proof.Machine

/-! A namespace of its own, as `Sys2Proof.Machine.controlLaw` is the model's law. -/

namespace Sys2Proof.SwitchControl

open Machine

/-- Settles O18: the law by what its integrator does in each case, the sample in AUTO by its reading, flagged or not. -/
theorem controlLaw : Obligations.ControlLaw := by
  refine ⟨fun i coef x e => ?law, fun s m _ ha => ?sample⟩
  case law =>
    exact ⟨controlLaw_integ_free i coef x e, controlLaw_integ_frozen i coef x e, controlLaw_integ_preset i coef x e,
      controlLaw_req i coef x e, controlLaw_clamped i coef x e, controlLaw_sp i coef x e⟩
  case sample =>
    exact ⟨s.get_sampleLoop_auto_pv m ha, s.loop_sampleLoop_auto_sp m ha, s.sampleLoop_auto_law m ha, s.sampleLoop_auto_holds m ha⟩

end Sys2Proof.SwitchControl
end

section
/-! SUPPORT. Power, domains, the governor, idle and calibration age (R315–R323, R332): what the other units leave of power
management, the states of domains, the ends of their descriptors, the events that an idle package lets in; then the statement on
them. -/

namespace Sys2Proof.Machine

/-! Registers that an update leaves alone. -/

theorem KeepsRegs.trans {s u v : State} {rs : List RegName} (h : KeepsRegs s u rs) (h' : KeepsRegs u v rs) : KeepsRegs s v rs :=
  fun r i j hr => (h' r i j hr).trans (h r i j hr)

theorem KeepsBut.trans {s u v : State} {r : RegName} {i j : Nat} {rs : List RegName} (h : KeepsBut s u r i j rs)
    (h' : KeepsBut u v r i j rs) : KeepsBut s v r i j rs :=
  fun r' i' j' hk hr => (h' r' i' j' hk hr).trans (h r' i' j' hk hr)

theorem KeepsRegs.keepsBut {s u : State} {rs : List RegName} (h : KeepsRegs s u rs) (r : RegName) (i j : Nat) : KeepsBut s u r i j rs :=
  fun r' i' j' _ hr => h r' i' j' hr

theorem keepsBut_put (s : State) (f : Fld) (v i j : Nat) (rs : List RegName) : KeepsBut s (s.put f v i j) f.reg i j rs :=
  fun r' i' j' hk _ => State.reg_setReg_key s f.reg r' i j i' j' _ hk

/-! What the other units leave of power management (R315, R324, R339). -/

/-- The registers of domains, of lasers and of starts. -/
def powerRegs : List RegName := [.PWR_DOMAIN, .PWR_LASER, .PWR_START]

/-- The sequencer's books, the rails, the pins and the registers of power are as before. -/
structure KeepsPower (s u : State) : Prop where
  doms : u.doms = s.doms
  rails : u.rails = s.rails
  pins : u.pins = s.pins
  regs : ∀ r ∈ powerRegs, ∀ i j, u.reg r i j = s.reg r i j

namespace KeepsPower

variable {s u v : State}

theorem refl (s : State) : KeepsPower s s := ⟨rfl, rfl, rfl, fun _ _ _ _ => rfl⟩

theorem trans (h : KeepsPower s u) (h' : KeepsPower u v) : KeepsPower s v :=
  ⟨h'.doms.trans h.doms, h'.rails.trans h.rails, h'.pins.trans h.pins, fun r hr i j => (h'.regs r hr i j).trans (h.regs r hr i j)⟩

/-- An update of other fields of the state. -/
theorem of_fields (h : (u.doms, u.rails, u.pins, u.regs, u.part) = (s.doms, s.rails, s.pins, s.regs, s.part)) : KeepsPower s u := by
  simp only [Prod.mk.injEq] at h
  obtain ⟨hd, hr, hp, hg, ht⟩ := h
  exact ⟨hd, hr, hp, fun r _ i j => by simp only [State.reg, hg, ht]⟩

/-- What follows an update of other fields of the state. -/
theorem after (h' : KeepsPower u v) (h : (u.doms, u.rails, u.pins, u.regs, u.part) = (s.doms, s.rails, s.pins, s.regs, s.part)) :
    KeepsPower s v := (of_fields h).trans h'

/-- An event. -/
theorem of_event (h : s.Touches u) (hr : KeepsRegs s u [.EVC_PEND]) : KeepsPower s u := by
  obtain ⟨r, q, rfl⟩ := h
  refine ⟨rfl, rfl, rfl, fun n hn i j => hr n i j fun hm => ?_⟩
  rw [List.mem_singleton.mp hm] at hn
  exact absurd hn (by decide)

theorem each {α : Type} {g : State → α → State} (hg : ∀ u x, KeepsPower u (g u x)) (s : State) (xs : List α) :
    KeepsPower s (s.each xs g) :=
  State.each_keeps (KeepsPower s) g (fun u x h => h.trans (hg u x)) xs s (refl s)

theorem when {g : State → State} (hg : ∀ u, KeepsPower u (g u)) (s : State) (c : Bool) : KeepsPower s (s.when c g) :=
  State.when_keeps (KeepsPower s) g s c (refl s) (hg s)

/-- A fold that may stop. -/
theorem foldl_option {α : Type} {g : Option State → α → Option State} (hn : ∀ x, g none x = none)
    (hs : ∀ u x v, g (some u) x = some v → KeepsPower u v) :
    ∀ (xs : List α) (s u : State), xs.foldl g (some s) = some u → KeepsPower s u
  | [], s, _, h => by cases h; exact refl s
  | x :: xs, s, u, h => by
    rw [List.foldl_cons] at h
    cases hx : g (some s) x with
    | none => rw [hx, List.foldl_fixed' hn] at h; cases h
    | some v => rw [hx] at h; exact (hs s x v hx).trans (foldl_option hn hs xs v u h)

theorem get (h : KeepsPower s u) (f : Fld) (hf : f.reg ∈ powerRegs) (i j : Nat) : u.get f i j = s.get f i j := by
  rw [State.get_def, State.get_def, h.regs _ hf]

theorem dom (h : KeepsPower s u) (d : Nat) : u.dom d = s.dom d := by rw [State.dom, h.doms, State.dom]

end KeepsPower

namespace State

variable (s : State)

theorem keepsPower_put (f : Fld) (v i j : Nat) (h : f.reg ∉ powerRegs := by decide) : KeepsPower s (s.put f v i j) :=
  ⟨rfl, rfl, rfl, fun r hr i' j' => reg_put_reg s f r v i j i' j' (fun e => h (e ▸ hr))⟩

theorem keepsPower_bump (f : Fld) (i j n : Nat) (h : f.reg ∉ powerRegs := by decide) : KeepsPower s (s.bump f i j n) :=
  s.keepsPower_put f _ i j h

theorem keepsPower_raise (n : Nat) (d : BitVec 128) : KeepsPower s (s.raise n d) := .of_event (s.raise_frame n d) (s.raise_regs n d)

theorem noteHz_frame (s0 : State) : s.Touches (s0.noteHz s) := by
  unfold noteHz
  refine each_keeps s.Touches _ (fun u _ h => h.trans ?_) _ s (Touches.refl s)
  exact when_keeps u.Touches _ u _ (Touches.refl u) (u.raiseSched_frame _ _)

theorem noteHz_regs (s0 : State) : KeepsRegs s (s0.noteHz s) [.EVC_PEND] := by
  unfold noteHz
  refine each_keeps (fun u => KeepsRegs s u [.EVC_PEND]) _ (fun u _ h => ?_) _ s (fun _ _ _ _ => rfl)
  exact when_keeps (fun u => KeepsRegs s u [.EVC_PEND]) _ u _ h (h.trans (u.raiseSched_regs _ _))

theorem keepsPower_noteHz (s0 : State) : KeepsPower s (s0.noteHz s) := .of_event (s.noteHz_frame s0) (s.noteHz_regs s0)

/-! Descriptors. -/

theorem keepsPower_freeEngine (n : Nat) : KeepsPower s (s.freeEngine n) := by
  unfold freeEngine
  dsimp only
  have h : ∀ x, KeepsPower s (s.setEngine n x) := fun _ => .of_fields rfl
  split
  · exact ((h _).trans (keepsPower_put _ _ _ _ _)).trans (keepsPower_put _ _ _ _ _)
  · exact h _

theorem keepsPower_endDesc (d status det done : Nat) : KeepsPower s (s.endDesc d status det done) := by
  unfold endDesc
  split
  · exact .refl s
  · split
    · exact .refl s
    · exact .after (.each (fun u n => u.keepsPower_freeEngine n) _ _) rfl

/-! Links (R155–R162, R176–R179). -/

theorem keepsPower_setLink (k : Nat) (x : Link) : KeepsPower s (s.setLink k x) := .of_fields rfl

theorem keepsPower_sendMgmt (k : Nat) (m : Mgmt) : KeepsPower s (s.sendMgmt k m) := s.keepsPower_setLink k _

theorem keepsPower_flood (m : Msg) : KeepsPower s (s.flood m) := by
  unfold flood
  exact .after (.each (fun u k => u.keepsPower_sendMgmt k _) _ _) rfl

theorem keepsPower_noRoute (t : Nat) : KeepsPower s (s.noRoute t) := (s.keepsPower_bump _ _ _ _).trans (keepsPower_raise _ _ _)

theorem keepsPower_queuePkt (k vc : Nat) (p : Pkt) : KeepsPower s (s.queuePkt k vc p) := by
  unfold queuePkt
  split <;> exact .of_fields rfl

theorem keepsPower_freeSlots (k vc n : Nat) : KeepsPower s (s.freeSlots k vc n) := by
  unfold freeSlots
  split
  · exact .refl s
  · exact (s.keepsPower_setLink k _).trans (keepsPower_sendMgmt _ _ _)

theorem keepsPower_queueBytes (k vc t : Nat) (tag : BitVec 32) (bytes : List Byte) : KeepsPower s (s.queueBytes k vc t tag bytes) := by
  unfold queueBytes
  split
  · exact .each (fun u _ => u.keepsPower_queuePkt _ _ _) _ _
  · refine .each (fun u b => ?_) _ _
    exact .after (keepsPower_queuePkt _ k vc _) rfl

theorem keepsPower_sendFree (t : Nat) (tag : BitVec 32) (bytes : List Byte) : KeepsPower s (s.sendFree t tag bytes) := by
  unfold sendFree
  split
  · exact s.keepsPower_noRoute t
  · exact s.keepsPower_queueBytes _ _ _ _ _

/-! Frames and tables of a closing polder (R237, R276, R285). -/

theorem keepsPower_setPte (pol a e : Nat) : KeepsPower s (s.setPte pol a e) := by
  unfold setPte
  split <;> exact .of_fields rfl

theorem keepsPower_zeroRun (f n : Nat) : KeepsPower s (s.zeroRun f n) := .of_fields rfl

theorem keepsPower_allocRun {pol n f : Nat} {u : State} (h : s.allocRun pol n = some (f, u)) : KeepsPower s u := by
  unfold allocRun at h
  split at h
  · cases h
  · obtain ⟨g, -, hg⟩ := Option.map_eq_some_iff.mp h
    cases hg
    exact .after (keepsPower_zeroRun _ _ _) rfl

theorem keepsPower_newTable {pol a : Nat} {u : State} (h : s.newTable pol = some (a, u)) : KeepsPower s u := by
  unfold newTable at h
  dsimp only at h
  split at h
  · cases h
  · split at h
    · obtain ⟨g, hg, hu⟩ := Option.map_eq_some_iff.mp h
      cases hu
      exact (s.keepsPower_allocRun hg).trans (.after (keepsPower_put _ MMU_PT_CFG.USED_PT _ _ _) rfl)
    · cases h
      exact .after (keepsPower_put _ MMU_PT_CFG.USED_PT _ _ _) rfl

theorem keepsPower_meetFrame (f : Nat) : KeepsPower s (s.meetFrame f) := by
  unfold meetFrame
  refine .each (fun u k => ?_) s _
  split
  · exact .refl u
  · exact .after (keepsPower_bump _ MMU_HBM_ERR.CE 0 0 1) rfl
  · exact .after (keepsPower_bump _ MMU_HBM_ERR.UE 0 0 1) rfl

theorem keepsPower_moveFrame (f g : Nat) : KeepsPower s (s.moveFrame f g) := by
  have h := s.keepsPower_meetFrame f
  unfold moveFrame
  generalize s.meetFrame f = u at h
  exact h.trans (.of_fields rfl)

theorem keepsPower_splitLeaf (pol goal fuel : Nat) : ∀ (level a e : Nat) (s u : State),
    s.splitLeaf pol goal fuel level a e = some u → KeepsPower s u := by
  induction fuel with
  | zero => intro _ _ _ s _ h; cases h; exact .refl s
  | succ fuel ih =>
    intro level a e s u h
    unfold splitLeaf at h
    split at h
    · cases h; exact .refl s
    · split at h
      · cases h
      · rename_i t s1 ht
        obtain ⟨v, hv, rfl⟩ := Option.map_eq_some_iff.mp h
        have hf := KeepsPower.foldl_option (fun _ => rfl) (fun w i x hx => ih _ _ _ w x hx) _ _ v hv
        refine ((s.keepsPower_newTable ht).trans (.trans ?_ hf)).trans (v.keepsPower_setPte _ _ _)
        exact .each (fun w i => w.keepsPower_setPte _ _ _) _ _

theorem keepsPower_retarget (pol f g fuel : Nat) : ∀ (level table : Nat) (s u : State),
    s.retarget pol f g fuel level table = some u → KeepsPower s u := by
  induction fuel with
  | zero => intro _ _ s _ h; cases h; exact .refl s
  | succ fuel ih =>
    intro level table s u h
    unfold retarget at h
    refine KeepsPower.foldl_option (fun _ => rfl) (fun v i w hw => ?_) _ s u h
    rw [Option.bind_some] at hw
    dsimp only at hw
    split at hw
    · cases hw; exact .refl v
    · split at hw
      · split at hw
        · cases hw; exact .refl v
        · split at hw
          · cases hw; exact v.keepsPower_setPte _ _ _
          · obtain ⟨x, hx, hxw⟩ := Option.bind_eq_some_iff.mp hw
            exact (keepsPower_splitLeaf _ _ _ _ _ _ v x hx).trans (ih _ _ x w hxw)
      · split at hw
        · exact (v.keepsPower_setPte _ _ _).trans (ih _ _ _ w hw)
        · exact ih _ _ v w hw

theorem keepsPower_switchFrame {f g : Nat} {u : State} (h : s.switchFrame f g = some u) : KeepsPower s u := by
  unfold switchFrame at h
  dsimp only at h
  split at h
  · exact Option.some.inj h ▸ s.keepsPower_moveFrame f g
  · split at h
    · exact (s.keepsPower_moveFrame f g).trans (keepsPower_retarget _ _ _ _ _ _ _ u h)
    · exact Option.some.inj h ▸ s.keepsPower_moveFrame f g

theorem keepsPower_retireFrame (f : Nat) : KeepsPower s (s.retireFrame f) := by
  unfold retireFrame
  extract_lets owner gone
  split
  · exact .of_fields rfl
  · split
    · exact .after (keepsPower_bump _ MMU_HBM_SPARE.STUCK 0 0 1) rfl
    · rename_i u hu
      obtain ⟨g, -, hg⟩ := Option.bind_eq_some_iff.mp hu
      exact (s.keepsPower_switchFrame hg).trans (u.keepsPower_bump MMU_HBM_SPARE.RETIRED 0 0 1)

theorem keepsPower_retireWaiting (pol : Nat) : KeepsPower s (s.retireWaiting pol) := by
  unfold retireWaiting
  exact .after (.each (fun u f => u.keepsPower_retireFrame f) _ _) rfl

/-! A polder that closes, and the schedule that is unloaded for it (R237). -/

/-- Clearing registers of other names leaves a register alone, whatever the indices. -/
theorem reg_clearRegs (rs : List RegName) (i n : Nat) (r : RegName) (a b : Nat) (h : r ∉ rs) :
    (s.clearRegs rs i n).reg r a b = s.reg r a b := by
  simp only [reg, clearRegs]
  induction rs generalizing s with
  | nil => rfl
  | cons r' rs ih =>
    rw [List.mem_cons, not_or] at h
    have hne : r.ctorIdx ≠ r'.ctorIdx := fun e => h.1 (RegName.ctorIdx_inj e)
    have hk : (decide (r.key a b < r'.key i 0) || decide (r'.key (i + n) 0 ≤ r.key a b)) = true := by
      rw [Bool.or_eq_true, decide_eq_true_eq, decide_eq_true_eq]
      unfold RegName.key
      omega
    have ih := ih { s with regs := SMap.clear s.regs (r'.key i 0) (r'.key (i + n) 0) } h.2
    rw [List.foldl_cons]
    refine ih.trans ?_
    dsimp only [SMap.clear]
    rw [SMap.get_filter _ _ _ (fun k => decide (k < r'.key i 0) || decide (r'.key (i + n) 0 ≤ k)), if_pos hk]

theorem keepsPower_clearRegs_ring (i n : Nat) : KeepsPower s (s.clearRegs (regsOf .ring) i n) := by
  refine ⟨rfl, rfl, rfl, fun r hr a b => s.reg_clearRegs _ i n r a b fun hm => ?_⟩
  have hs := (List.mem_filter.mp hm).2
  revert r
  decide

theorem keepsPower_dropContext (n : Nat) : KeepsPower s (s.dropContext n) := by
  unfold dropContext
  dsimp only
  refine .trans (.trans ?_ (keepsPower_retireWaiting _ n)) (.each (fun u q => u.keepsPower_sendFree _ _ _) _ _)
  exact .after (((keepsPower_clearRegs_ring _ _ _).trans (keepsPower_put _ _ _ _ _)).trans (keepsPower_put _ _ _ _ _)) rfl

theorem keepsPower_unload : KeepsPower s s.unload := by
  unfold unload settleClosing
  have h : ∀ x, KeepsPower s (({ s with sched := x } : State).put GLB_STEP_STATE.STATE 0) := fun _ => .after (keepsPower_put _ _ _ _ _) rfl
  dsimp only
  split
  · exact (h _).trans (keepsPower_dropContext _ _)
  · exact h _

theorem keepsPower_unloadClosing : KeepsPower s s.unloadClosing := by
  unfold unloadClosing
  split
  · split
    · exact s.keepsPower_unload
    · exact .refl s
  · exact .refl s

/-! Schedule faults (R86, R87, R391). -/

theorem keepsPower_endRun (status det : Nat) : KeepsPower s (s.endRun status det) := by
  unfold endRun
  dsimp only
  split
  · exact .after (keepsPower_endDesc _ _ _ _ _) rfl
  · exact .of_fields rfl

theorem keepsPower_abandonStart (status det : Nat) : KeepsPower s (s.abandonStart status det) := by
  unfold abandonStart
  dsimp only
  refine .trans ?_ (keepsPower_unloadClosing _)
  exact (s.keepsPower_put _ _ _ _).trans (.after (keepsPower_endRun _ _ _) rfl)

theorem keepsPower_abandonEngine (pol n : Nat) : KeepsPower s (s.abandonEngine pol n) := by
  unfold abandonEngine
  split
  · exact .after (keepsPower_freeEngine _ _) rfl
  · exact .refl s

theorem keepsPower_enterRollback : KeepsPower s s.enterRollback := by
  unfold enterRollback
  extract_lets s1 s2 stop _ s3 s4 r
  have h2 : KeepsPower s s2 := ((((KeepsPower.when (fun u => u.keepsPower_bump _ _ _ _) s _).trans (keepsPower_put _ _ _ _ _)).trans
    (keepsPower_put _ _ _ _ _)).trans (keepsPower_put _ _ _ _ _)).trans (keepsPower_put _ _ _ _ _)
  have h3 : KeepsPower s s3 := h2.trans (.of_fields rfl)
  have h4 : KeepsPower s3 s4 := by
    unfold s4
    split
    · exact .each (fun u n => u.keepsPower_abandonEngine _ n) _ _
    · exact .refl _
  exact (h3.trans h4).trans (keepsPower_flood _ _)

theorem keepsPower_onAbort (rank : Nat) : KeepsPower s (s.onAbort rank) := by
  unfold onAbort
  split
  · exact s.keepsPower_abandonStart _ _
  · split
    · exact s.keepsPower_enterRollback
    · split
      · exact s.keepsPower_enterRollback
      · exact .of_fields rfl

theorem keepsPower_schedFault : KeepsPower s s.schedFault := by
  unfold schedFault
  split
  · exact .of_fields rfl
  · split
    · exact (s.keepsPower_flood _).trans (keepsPower_onAbort _ _)
    · exact .refl s

/-! Lanes that go down (R154, R162). -/

theorem keepsPower_requeue (vc : Nat) (p : Pkt) : KeepsPower s (s.requeue vc p) := by
  unfold requeue
  split
  · exact ((s.keepsPower_noRoute _).trans (.when (fun u => u.keepsPower_freeSlots _ _ _) _ _)).trans
      (.when (fun u => u.keepsPower_schedFault) _ _)
  · split
    · exact s.keepsPower_queuePkt _ _ _
    · refine .each (fun u b => ?_) _ _
      exact .after (keepsPower_queuePkt _ _ vc _) rfl

theorem keepsPower_setLinkSt (k st : Nat) : KeepsPower s (s.setLinkSt k st) := by
  unfold setLinkSt
  split
  · exact .refl s
  · exact (s.keepsPower_put _ _ _ _).trans (keepsPower_flood _ _)

theorem keepsPower_recount (k : Nat) : KeepsPower s (s.recount k) := (s.keepsPower_put _ _ _ _).trans (keepsPower_put _ _ _ _ _)

theorem keepsPower_watchReach {g : State → State} (hg : ∀ u, KeepsPower u (g u)) : KeepsPower s (s.watchReach g) := by
  unfold watchReach
  exact ((hg s).trans (.each (fun u r => u.keepsPower_noRoute r) _ _)).trans (.when (fun u => u.keepsPower_schedFault) _ _)

theorem keepsPower_linkDown (k st : Nat) : KeepsPower s (s.linkDown k st) := by
  refine s.keepsPower_watchReach fun u => ?_
  exact (((u.keepsPower_setLink k _).trans (keepsPower_setLinkSt _ _ _)).trans (keepsPower_recount _ _)).trans
    (.each (fun u p => u.keepsPower_requeue _ _) _ _)

theorem keepsPower_relink (k : Nat) : KeepsPower s (s.relink k) := by
  unfold relink
  split
  · exact s.keepsPower_recount k
  · split
    · exact ((s.keepsPower_recount k).trans (keepsPower_setLinkSt _ _ _)).trans
        ((keepsPower_setLink _ k _).trans (keepsPower_sendMgmt _ _ _))
    · exact s.keepsPower_linkDown k 0

theorem keepsPower_dropLane (l st : Nat) : KeepsPower s (s.dropLane l st) := by
  unfold dropLane
  dsimp only
  split
  · exact (s.keepsPower_put _ _ _ _).trans (keepsPower_relink _ _)
  · exact s.keepsPower_put _ _ _ _

/-! Re-cables that end (R150, R167). -/

theorem keepsPower_dropRecable : KeepsPower s (({ s with recable := none } : State).put LSW_STATUS.STATE 0) :=
  .after (keepsPower_put _ _ _ _ _) rfl

theorem keepsPower_abandonRecable (cause index : Nat) : KeepsPower s (s.abandonRecable cause index) := by
  unfold abandonRecable
  split
  · exact .refl s
  · split
    · exact .refl s
    · dsimp only
      split
      · exact s.keepsPower_dropRecable.trans (keepsPower_endDesc _ _ _ _ _)
      · exact s.keepsPower_dropRecable

theorem keepsPower_settleRecable : KeepsPower s s.settleRecable := by
  unfold settleRecable
  split
  · exact .refl s
  · split
    · exact .refl s
    · dsimp only
      split
      · exact s.keepsPower_dropRecable.trans (keepsPower_endDesc _ _ _ _ _)
      · exact s.keepsPower_dropRecable

/-! Units that lose their light or their supply (R197, R315, R341). -/

theorem keepsPower_setLoop (i : Nat) (x : Loop) : KeepsPower s (s.setLoop i x) := .of_fields rfl

theorem keepsPower_lightHold (i : Nat) : KeepsPower s (s.lightHold i) := by
  unfold lightHold
  split
  · exact (s.keepsPower_put _ _ _ _).trans (keepsPower_setLoop _ _ _)
  · exact .refl s

theorem keepsPower_bankOff (e : Nat) : KeepsPower s (s.bankOff e) := by
  unfold bankOff
  exact (KeepsPower.each (fun u l => .when (fun u => u.keepsPower_dropLane l 0) u _) s _).trans
    (.each (fun u l => u.keepsPower_lightHold l) _ _)

theorem keepsPower_hzLasersOff (e : Nat) : KeepsPower s (s.hzLasersOff e) :=
  (s.keepsPower_put _ _ _ _).trans (.each (fun u i => u.keepsPower_lightHold i) _ _)

theorem keepsPower_setTile (n : Nat) (x : Tile) : KeepsPower s (s.setTile n x) := .of_fields rfl

theorem keepsPower_scuGone (n : Nat) : KeepsPower s (s.scuGone n) := by
  unfold scuGone
  dsimp only
  split <;> exact .of_fields rfl

/-- The units of a domain that stop work leave the domains as they are. -/
theorem keepsPower_domainGone (d : Nat) : KeepsPower s (s.domainGone d) := by
  unfold domainGone
  split
  · exact s.keepsPower_scuGone _
  · split
    · exact .each (fun u i => u.keepsPower_setTile _ _) s _
    · split
      · exact (s.keepsPower_hzLasersOff _).trans (keepsPower_noteHz _ _)
      · split
        · exact (s.keepsPower_bankOff _).trans (keepsPower_settleRecable _)
        · exact .refl s

/-- The drivers are off, and but for ARMED the rest of power management is as before. -/
theorem keepsPower_driversOff : KeepsPower (s.put PWR_LASER.ARMED 0) s.driversOff ∨ s.bit PWR_LASER.ARMED = false ∧ s.driversOff = s := by
  unfold driversOff
  split
  · rename_i h
    exact .inr ⟨by simpa using h, rfl⟩
  · have h := (s.put PWR_LASER.ARMED 0).keepsPower_abandonRecable 2 0
    have hb := h.trans (.each (fun u e => u.keepsPower_bankOff e) _ (List.range 4))
    have hz := hb.trans (.each (fun u e => u.keepsPower_hzLasersOff e) _ (if s.part.hz then [0, 1] else []))
    exact .inl (((hz.trans (keepsPower_settleRecable _)).trans (keepsPower_noteHz _ s)).trans (keepsPower_schedFault _))

/-! Units that are calibrated and brought up (R318, R332–R334). -/

theorem keepsPower_calBegin (u : Nat) : KeepsPower s (s.calBegin u) := by
  unfold calBegin
  dsimp only
  split
  · exact .of_fields rfl
  · exact .after (.each (fun u l => u.keepsPower_dropLane l 0) _ _) rfl

theorem keepsPower_keepPoint (i : Nat) : KeepsPower s (s.keepPoint i) := .when (fun u => u.keepsPower_put _ _ _ _) s _

theorem keepsPower_drawPoints (i : Nat) (xs : List Nat) : ∀ a : List Int × State,
    KeepsPower a.2 (xs.foldl (fun (a : List Int × State) _ =>
      let (p, s') := a.2.drawPoint i
      (a.1 ++ [p], s')) a).2 := by
  induction xs with
  | nil => exact fun a => .refl a.2
  | cons _ xs ih => exact fun a => .after (ih _) rfl

theorem keepsPower_calLoop (i : Nat) : KeepsPower s (s.calLoop i) := by
  have h := keepsPower_drawPoints i (List.range (if i < 512 then 4 else 1)) ([], s)
  unfold calLoop
  dsimp only at h ⊢
  generalize List.foldl _ _ _ = a at h ⊢
  exact (h.trans (.when (fun u => u.keepsPower_put _ _ _ _) _ _)).trans (keepsPower_setLoop _ _ _)

theorem keepsPower_relight (e : Nat) : KeepsPower s (s.relight e) := by
  unfold relight
  split
  · exact .each (fun u l => u.keepsPower_put _ _ _ _) _ _
  · exact .refl s

theorem keepsPower_calEnd (u kind : Nat) (ok : Bool) : KeepsPower s (s.calEnd u kind ok) := by
  have h : ∀ v x, KeepsPower v (v.setCalUnit u x) := fun _ _ => .of_fields rfl
  unfold calEnd
  dsimp only
  split
  · exact h s _
  · refine (KeepsPower.trans (.each (fun v i => ?_) s _) (h _ _)).trans (.when (fun v => v.keepsPower_relight _) _ _)
    split
    · exact v.keepsPower_keepPoint i
    · exact v.keepsPower_calLoop i

theorem keepsPower_showCal (kind : Nat) : KeepsPower s (s.showCal kind) :=
  (((s.keepsPower_put CFG_CAL.PASS _ _ _).trans (keepsPower_put _ CFG_CAL.FAIL _ _ _)).trans (keepsPower_put _ CFG_CAL.SOURCE _ _ _)).trans
    (keepsPower_put _ CFG_CAL.AGE_H _ _ _)

theorem keepsPower_calibrate (us : List Nat) (kind : Nat → Nat) (failed : Nat → Bool) : KeepsPower s (s.calibrate us kind failed) := by
  unfold calibrate
  exact ((((KeepsPower.each (fun v u => v.keepsPower_calBegin u) s us).trans (keepsPower_noteHz _ _)).trans
    (.each (fun v u => v.keepsPower_calEnd u _ _) _ _)).trans (keepsPower_showCal _ _)).trans (keepsPower_raise _ _ _)

theorem keepsPower_zeroCluster (c : Nat) : KeepsPower s (s.zeroCluster c) := by
  have h : KeepsPower s (s.each (List.range 12) fun s i => s.setTile (12 * c + i) {}) :=
    .each (fun u i => u.keepsPower_setTile _ _) s _
  unfold zeroCluster
  dsimp only
  generalize s.each _ _ = u at h ⊢
  exact h.trans (.of_fields rfl)

theorem keepsPower_bringUp (d : Nat) (failed reuse : Bool) : KeepsPower s (s.bringUp d failed reuse) := by
  unfold bringUp
  split
  · exact s.keepsPower_zeroCluster _
  · split
    · exact (KeepsPower.when (fun u => u.keepsPower_put _ _ _ _) s _).trans (keepsPower_calibrate _ _ _ _)
    · exact .refl s

end State

/-! Ends of descriptors (R262, R320). -/

namespace State

variable (s : State)

@[simp] theorem desc_put (f : Fld) (v i j k : Nat) : (s.put f v i j).desc k = s.desc k := by rw [desc, put_descs, desc]

theorem desc_onDesc_ne (d k : Nat) (g : Desc → Desc) (hg : ∀ y, (g y).id = y.id) (h : k ≠ d) : (s.onDesc d g).desc k = s.desc k := by
  have hc : ((fun x : Desc => x.id == k) ∘ fun x => if x.id = d then g x else x) = fun x => x.id == k := by
    funext x
    dsimp only [Function.comp_apply]
    split
    · rw [hg]
    · rfl
  simp only [desc, onDesc, List.find?_map, hc]
  cases hx : s.descs.find? (fun x => x.id == k) with
  | none => rfl
  | some x =>
    have hk : x.id = k := by simpa using List.find?_some hx
    rw [Option.map_some, if_neg (by rw [hk]; exact h)]

/-- The end of a descriptor leaves the others alone. -/
theorem desc_endDesc_ne (d k status det done : Nat) (h : k ≠ d) : (s.endDesc d status det done).desc k = s.desc k := by
  unfold endDesc
  split
  · rfl
  · split
    · rfl
    · refine each_keeps (fun u => u.desc k = s.desc k) _ (fun u n hu => ?_) _ _ ?_
      · rw [desc, freeEngine_descs]; exact hu
      · exact desc_onDesc_ne _ d k _ (fun _ => rfl) h

/-- An ended descriptor stays as it ended. -/
theorem ended_endDesc {d status det done : Nat} (k status' det' done' : Nat) (h : s.ended d status det done) :
    (s.endDesc k status' det' done').ended d status det done := by
  obtain ⟨y, hy, hp, hf⟩ := h
  have hd : y.id = d := by simpa using List.find?_some hy
  by_cases hk : d = k
  · subst hk hd
    rw [s.endDesc_again y _ _ _ hy hp]
    exact ⟨y, hy, hp, hf⟩
  · exact ⟨y, (s.desc_endDesc_ne k d _ _ _ hk).trans hy, hp, hf⟩

/-- A DETAIL of fewer than 48 bits is reported whole. -/
theorem ended_small {u : State} {k status det done : Nat} (h : det < 2 ^ 48) (he : u.ended k status (det % 2 ^ 48) done) :
    u.ended k status det done := by rwa [Nat.mod_eq_of_lt h] at he

theorem ended_endDomains {d status det done : Nat} (ds : List Nat) (on : Bool) (h : s.ended d status det done) :
    (s.endDomains ds on).ended d status det done :=
  each_keeps (fun u => u.ended d status det done) _ (fun u k hu => u.ended_endDesc k _ _ _ hu) ds s h

theorem endDomains_cons (d : Nat) (ds : List Nat) (on : Bool) : s.endDomains (d :: ds) on =
    (s.endDesc d stSuccess (b2n on + 2 * ((s.desc d).map (·.arg)).getD 0) 0).endDomains ds on := rfl

/-- A descriptor of those that end reports the state reached, and whether it was queued. -/
theorem endDomains_ended (on : Bool) (y : Desc) (hp : y.phase ≠ .ended) (ds : List Nat) (hy : s.desc y.id = some y) (hm : y.id ∈ ds) :
    (s.endDomains ds on).ended y.id 0 ((b2n on + 2 * y.arg) % 2 ^ 48) 0 := by
  induction ds generalizing s with
  | nil => cases hm
  | cons d ds ih =>
    rw [endDomains_cons]
    by_cases hd : y.id = d
    · subst hd
      rw [hy]
      exact ended_endDomains _ ds on (s.endDesc_ended y stSuccess _ 0 hy hp)
    · exact ih _ ((s.desc_endDesc_ne d y.id _ _ _ hd).trans hy) ((List.mem_cons.mp hm).resolve_left hd)

theorem keepsPower_endDomains (ds : List Nat) (on : Bool) : KeepsPower s (s.endDomains ds on) :=
  .each (fun u d => u.keepsPower_endDesc d _ _ _) s ds

theorem freeEngine_regs (n : Nat) : KeepsRegs s (s.freeEngine n) [.GTH_ASSIGN] := by
  unfold freeEngine
  dsimp only
  split
  · intro r i j hr
    have h : r ≠ .GTH_ASSIGN := by simpa using hr
    exact (reg_put_reg _ GTH_ASSIGN.EN r _ _ _ i j h).trans (reg_put_reg _ GTH_ASSIGN.OWNER r _ _ _ i j h)
  · exact fun _ _ _ _ => rfl

theorem endDesc_regs (d status det done : Nat) : KeepsRegs s (s.endDesc d status det done) [.GTH_ASSIGN] := by
  unfold endDesc
  split
  · exact fun _ _ _ _ => rfl
  · split
    · exact fun _ _ _ _ => rfl
    · exact each_keeps (fun u => KeepsRegs s u [.GTH_ASSIGN]) _ (fun u n hu => hu.trans (u.freeEngine_regs n)) _ _ (fun _ _ _ _ => rfl)

theorem tstore_endDesc (d status det done : Nat) : (s.endDesc d status det done).tstore = s.tstore := by
  unfold endDesc
  split
  · rfl
  · split
    · rfl
    · refine each_keeps (fun u => u.tstore = s.tstore) _ (fun u n hu => ?_) _ _ rfl
      refine Eq.trans ?_ hu
      unfold freeEngine
      dsimp only
      split <;> rfl

theorem tstore_endDomains (ds : List Nat) (on : Bool) : (s.endDomains ds on).tstore = s.tstore :=
  each_keeps (fun u => u.tstore = s.tstore) _ (fun u _ hu => (u.tstore_endDesc _ _ _ _).trans hu) ds s rfl

/-! States of domains (R315). -/

/-- The register of a domain in a new state, before the event of the change. -/
def showDomSt (d st : Nat) : State :=
  ((s.put PWR_DOMAIN.STATE st d).put PWR_DOMAIN.BUSY (b2n (st == 2 || st == 4)) d).when (st == 3) (fun s => s.put PWR_DOMAIN.HELD_BACK 0 d)

theorem setDomSt_eq (d st : Nat) : s.setDomSt d st = s.noteHz ((s.showDomSt d st).raise 41 (detail [(0, d), (8, st)])) := rfl

theorem setDomSt_events (d st : Nat) : KeepsRegs (s.showDomSt d st) (s.setDomSt d st) [.EVC_PEND] := by
  rw [setDomSt_eq]
  exact (raise_regs _ _ _).trans (noteHz_regs _ _)

/-- A change of state touches registers and event sources only. -/
theorem setDomSt_frame (d st : Nat) : s.Touches (s.setDomSt d st) := by
  rw [setDomSt_eq]
  refine Touches.trans ?_ ((raise_frame _ _ _).trans (noteHz_frame _ _))
  exact when_keeps s.Touches _ _ _ ((touches_put _ _ _ _ _).trans (touches_put _ _ _ _ _))
    (((touches_put _ _ _ _ _).trans (touches_put _ _ _ _ _)).trans (touches_put _ _ _ _ _))

/-- Of the registers, that of the domain changes, and pending bits. -/
theorem setDomSt_keepsBut (d st : Nat) : KeepsBut s (s.setDomSt d st) .PWR_DOMAIN d 0 [.EVC_PEND] := by
  have h := (keepsBut_put s PWR_DOMAIN.STATE st d 0 [.EVC_PEND]).trans (keepsBut_put _ PWR_DOMAIN.BUSY (b2n (st == 2 || st == 4)) d 0 _)
  have hw : KeepsBut s (s.showDomSt d st) .PWR_DOMAIN d 0 [.EVC_PEND] :=
    when_keeps (fun u => KeepsBut s u .PWR_DOMAIN d 0 [.EVC_PEND]) _ _ _ h (h.trans (keepsBut_put _ PWR_DOMAIN.HELD_BACK 0 d 0 _))
  exact hw.trans ((s.setDomSt_events d st).keepsBut _ _ _)

/-- What HELD_BACK is leaves the lower fields alone. -/
theorem get_when_heldBack (c : Bool) (f : Fld) (d : Nat) (hr : f.reg = .PWR_DOMAIN) (hf : f.lo + f.w ≤ 5) :
    (s.when c (fun s => s.put PWR_DOMAIN.HELD_BACK 0 d)).get f d = s.get f d := by
  cases c
  · rfl
  · exact get_put_field s PWR_DOMAIN.HELD_BACK f _ d 0 hr (by decide) (Or.inl hf).symm

theorem get_setDomSt (d st : Nat) (f : Fld) (hr : f.reg = .PWR_DOMAIN) : (s.setDomSt d st).get f d = (s.showDomSt d st).get f d := by
  rw [get_def, get_def, s.setDomSt_events d st f.reg d 0 (by rw [hr]; decide)]

theorem get_setDomSt_state (d st : Nat) (h : st < 8) : (s.setDomSt d st).get PWR_DOMAIN.STATE d = st := by
  rw [get_setDomSt _ _ _ _ rfl, showDomSt, get_when_heldBack _ _ _ _ rfl (by decide),
    get_put_field _ PWR_DOMAIN.BUSY PWR_DOMAIN.STATE _ _ _ rfl (by decide) (by decide),
    get_put_self _ _ _ _ _ (by decide)]
  exact Nat.mod_eq_of_lt h

theorem get_setDomSt_busy (d st : Nat) : (s.setDomSt d st).get PWR_DOMAIN.BUSY d = b2n (st == 2 || st == 4) := by
  rw [get_setDomSt _ _ _ _ rfl, showDomSt, get_when_heldBack _ _ _ _ rfl (by decide), get_put_self _ _ _ _ _ (by decide)]
  exact Nat.mod_eq_of_lt (by cases st == 2 || st == 4 <;> decide)

@[simp] theorem dom_setDomSt (d st k : Nat) : (s.setDomSt d st).dom k = s.dom k := by
  obtain ⟨r, q, h⟩ := s.setDomSt_frame d st
  rw [h]; rfl

@[simp] theorem descs_setDomSt (d st : Nat) : (s.setDomSt d st).descs = s.descs := by
  obtain ⟨r, q, h⟩ := s.setDomSt_frame d st
  rw [h]

/-- STATE of another domain. -/
theorem get_setDomSt_ne (d st m : Nat) (f : Fld) (hr : f.reg = .PWR_DOMAIN) (hd : d < 65536) (hm : m < 65536) (h : m ≠ d) :
    (s.setDomSt d st).get f m = s.get f m := by
  rw [get_def, get_def, s.setDomSt_keepsBut d st f.reg m 0 ?_ (by rw [hr]; decide)]
  rw [hr]
  exact RegName.key_ne_idx _ hm (by decide) hd (by decide) (.inl h)

/-! Requests for a domain (R317–R320). -/

theorem dropQueued_desc (d : Nat) : ((s.dropQueued d).dom d).desc = (s.dom d).desc := by
  unfold dropQueued
  split
  · rfl
  · rw [(keepsPower_endDesc _ _ _ _ _).dom, dom_put, dom_setDom_self]

section

variable (d k : Nat)

/-- A request toward the state that a sequence runs toward joins it. -/
theorem domRequest_joins (on : Bool) (h : s.get PWR_DOMAIN.STATE d = if on then 2 else 4) :
    ((s.domRequest d on k).dom d).desc = (s.dom d).desc ++ [k] := by
  unfold domRequest
  cases on <;> simp [h, dropQueued_desc]

/-- A request toward the other state is queued. -/
theorem domRequest_queues (on : Bool) (h : s.get PWR_DOMAIN.STATE d = if on then 4 else 2) :
    ((s.domRequest d on k).dom d).queued = some ⟨on, k⟩ ∧ (s.domRequest d on k).get PWR_DOMAIN.QUEUED d = 1 := by
  have hq : ∀ u : State, (u.put PWR_DOMAIN.QUEUED 1 d).get PWR_DOMAIN.QUEUED d = 1 := fun u => get_put_self u _ 1 d 0 (by decide)
  unfold domRequest
  cases on <;> simp [h, hq]

/-- Where no sequence runs, one begins. -/
theorem domRequest_begins (on : Bool) (h2 : s.get PWR_DOMAIN.STATE d ≠ 2) (h4 : s.get PWR_DOMAIN.STATE d ≠ 4) :
    s.domRequest d on k = if on then s.beginOn d k else s.beginOff d k := by
  unfold domRequest
  exact if_neg (not_or.mpr ⟨h2, h4⟩)

theorem domOn_iff : s.domOn d = true ↔ s.get PWR_DOMAIN.STATE d = 3 := by rw [domOn, beq_iff_eq]

/-- A domain that is on and whose units are brought up: the request waits for them. -/
theorem beginOn_waits (h : s.get PWR_DOMAIN.STATE d = 3) (hb : (s.dom d).bringup = true) :
    ((s.beginOn d k).dom d).desc = (s.dom d).desc ++ [k] := by
  simp [beginOn, (s.domOn_iff d).mpr h, hb]

/-- A turn-on begins. -/
theorem beginOn_turns (h : s.get PWR_DOMAIN.STATE d ≠ 3) (hr : s.railsGood d = true) (ht : ¬ s.tokensFree < s.part.demand d) :
    (s.beginOn d k).get PWR_DOMAIN.STATE d = 2 ∧ (s.beginOn d k).get PWR_DOMAIN.BUSY d = 1 ∧ ((s.beginOn d k).dom d).desc = [k] := by
  have e : s.beginOn d k = (s.setDomSt d 2).setDom d { s.dom d with desc := [k], bringup := !noBringup d } := by
    simp [beginOn, mt (s.domOn_iff d).mp h, hr, ht]
  rw [e, get_setDom, get_setDom, dom_setDom_self]
  exact ⟨s.get_setDomSt_state d 2 (by decide), s.get_setDomSt_busy d 2, rfl⟩

/-- A turn-off begins. -/
theorem beginOff_turns (h : s.get PWR_DOMAIN.STATE d = 3) :
    (s.beginOff d k).get PWR_DOMAIN.STATE d = 4 ∧ (s.beginOff d k).get PWR_DOMAIN.BUSY d = 1 ∧ ((s.beginOff d k).dom d).desc = [k] := by
  have e : s.beginOff d k = ((((s.endDomains (s.dom d).desc false).setDomSt d 4).setDom d
      { (s.endDomains (s.dom d).desc false).dom d with desc := [k], bringup := false }).domainGone d) := by
    simp [beginOff, (s.domOn_iff d).mpr h]
  rw [e]
  have hk := keepsPower_domainGone (((s.endDomains (s.dom d).desc false).setDomSt d 4).setDom d
      { (s.endDomains (s.dom d).desc false).dom d with desc := [k], bringup := false }) d
  rw [hk.get _ (by decide), hk.get _ (by decide), hk.dom, get_setDom, get_setDom, dom_setDom_self]
  exact ⟨get_setDomSt_state _ d 4 (by decide), get_setDomSt_busy _ d 4, rfl⟩

end

section

/-! The request of a descriptor that is with its unit and was not queued. -/

variable (d : Nat) (y : Desc) (hy : s.desc y.id = some y) (hp : y.phase ≠ .ended) (ha : y.arg = 0)
include hy

include hp

/-- A bad rail is reported. -/
theorem beginOn_rail (hd : d < 256) (h : s.get PWR_DOMAIN.STATE d ≠ 3) (hr : s.railsGood d = false) :
    (s.beginOn d y.id).ended y.id 3 (8 + 256 * d) 0 := by
  have e : s.beginOn d y.id = s.endDesc y.id stUnavailable (8 + 256 * d) 0 := by simp [beginOn, mt (s.domOn_iff d).mp h, hr]
  rw [e]
  exact ended_small (by omega) (s.endDesc_ended y _ _ _ hy hp)

include ha

/-- A domain that is on is reported so. -/
theorem beginOn_reports (h : s.get PWR_DOMAIN.STATE d = 3) (hb : (s.dom d).bringup = false) : (s.beginOn d y.id).ended y.id 0 1 0 := by
  have e : s.beginOn d y.id = s.endDesc y.id stSuccess 1 0 := by simp [beginOn, (s.domOn_iff d).mpr h, hb, hy, ha]
  rw [e]
  exact s.endDesc_ended y _ _ _ hy hp

/-- A turn-on that lacks tokens is held back. -/
theorem beginOn_short (h : s.get PWR_DOMAIN.STATE d ≠ 3) (hr : s.railsGood d = true) (ht : s.tokensFree < s.part.demand d) :
    (s.beginOn d y.id).ended y.id 0 0 0 ∧ (s.beginOn d y.id).get PWR_TOKEN.SHORT = 1 := by
  have e : s.beginOn d y.id = (s.put PWR_TOKEN.SHORT 1).endDesc y.id stSuccess 0 0 := by
    simp [beginOn, mt (s.domOn_iff d).mp h, hr, ht, hy, ha]
  rw [e]
  refine ⟨ended_small (by decide) (endDesc_ended _ y stSuccess 0 0 (by rwa [desc_put]) hp), ?_⟩
  rw [get_def, endDesc_regs _ _ _ _ _ _ _ _ (by decide), ← get_def]
  exact get_put_self s PWR_TOKEN.SHORT 1 0 0 (by decide)

/-- A domain that is not on is reported off. -/
theorem beginOff_reports (h : s.get PWR_DOMAIN.STATE d ≠ 3) : (s.beginOff d y.id).ended y.id 0 0 0 := by
  have e : s.beginOff d y.id = s.endDesc y.id stSuccess 0 0 := by simp [beginOff, mt (s.domOn_iff d).mp h, hy, ha]
  rw [e]
  exact s.endDesc_ended y _ _ _ hy hp

end

end State

/-! The rows of DOMAIN (R320). -/

/-- The state in which a DOMAIN acts: its descriptor is with the sequencer, the warden core is free (log 62, DEDUCED). -/
def State.sequencing (s : State) (x : Desc) : State := (s.taken x.id).leaveWarden x.id

namespace State

variable (s : State)

@[simp] theorem get_sequencing (x : Desc) (f : Fld) (i j : Nat) : (s.sequencing x).get f i j = s.get f i j := rfl
@[simp] theorem dom_sequencing (x : Desc) (d : Nat) : (s.sequencing x).dom d = s.dom d := rfl
@[simp] theorem railsGood_sequencing (x : Desc) (d : Nat) : (s.sequencing x).railsGood d = s.railsGood d := rfl
@[simp] theorem tokensFree_sequencing (x : Desc) : (s.sequencing x).tokensFree = s.tokensFree := rfl
@[simp] theorem part_sequencing (x : Desc) : (s.sequencing x).part = s.part := rfl
theorem busyDetail_sequencing (x y : Desc) : busyDetail (s.sequencing x) y = busyDetail s y := rfl

theorem desc_sequencing (x : Desc) (h : s.desc x.id = some x) : (s.sequencing x).desc x.id = some { x with phase := .running } :=
  s.desc_onDesc x _ h (fun _ hy => hy)

theorem ended_of_descs {s u : State} {d status det done : Nat} (h : u.descs = s.descs) (he : s.ended d status det done) :
    u.ended d status det done := by
  unfold ended desc at *
  rwa [h]

@[simp] theorem schedBusy_sequencing (x : Desc) : (s.sequencing x).schedBusy = s.schedBusy := rfl

/-- A refusal for the schedule's state (R263). -/
theorem badState_ended (y : Desc) (hy : s.desc y.id = some y) (hp : y.phase ≠ .ended) :
    (s.badState y).ended y.id 8 (busyDetail s y) 0 := by
  have hs : s.schedSt < 2 ^ 4 := s.get_lt GLB_STEP_STATE.STATE 0 0
  have hb : ∀ b, b2n b ≤ 1 := by decide
  refine ended_small ?_ (s.endDesc_ended y 8 (busyDetail s y) 0 hy hp)
  unfold busyDetail
  exact Nat.lt_of_le_of_lt (Nat.add_le_add hs.le (Nat.mul_le_mul_left 256 (hb _))) (by decide)

theorem takeQueued_none (d : Nat) (h : (s.dom d).queued = none) : s.takeQueued d = s := by
  unfold takeQueued
  rw [h]

end State

section

variable (s : State) (x : Desc)

/-- A DOMAIN of its action acts once, on a descriptor that is with its unit and was not queued. -/
theorem does_domainOp {c : Instr} {a : Nat} {g : Desc → State → State} {P : State → Prop} (h : NamesDomain s x a)
    (hc : exec c s = .next (s.domainOp x.id a g))
    (hg : ∀ y : Desc, y.id = x.id → y.domain = x.domain → y.pol = x.pol → y.phase ≠ .ended → y.arg = 0 →
      (s.sequencing x).desc y.id = some y → P (g y (s.sequencing x))) : Does c s P := by
  obtain ⟨hr, ha, hd, hq, hn⟩ := h
  have he : s.domainOp x.id a g = g { x with phase := .running } (s.sequencing x) := by
    unfold State.domainOp
    rw [hn, if_neg Bool.false_ne_true, s.runDesc_runs x 0x28 _ hr]
    exact if_pos ⟨ha, hd⟩
  exact ⟨_, hc.trans (congrArg _ he), hg { x with phase := .running } rfl rfl rfl Phase.noConfusion hq (s.desc_sequencing x hr.1)⟩

theorem domain_lt : x.domain < 256 := by
  show leNat ((x.raw.drop 0x18).take 1) < 256
  cases x.raw.drop 0x18 with
  | nil => decide
  | cons b bs => simp [leNat]; omega

/-- A report gives the state and BUSY. -/
theorem domainReport_spec (h : NamesDomain s x 0) : Does (.domainReport x.id) s (fun u =>
    u.ended x.id 0 (b2n (decide (s.get PWR_DOMAIN.STATE x.domain = 3)) + 2 * s.get PWR_DOMAIN.BUSY x.domain) 0) := by
  refine does_domainOp s x h rfl fun y hyx hyd _ hp _ hy => ?_
  have hb := s.get_lt PWR_DOMAIN.BUSY x.domain 0
  rw [← s.get_sequencing x PWR_DOMAIN.BUSY, show PWR_DOMAIN.BUSY.w = 1 from rfl] at hb
  rw [← beq_eq_decide, ← s.get_sequencing x PWR_DOMAIN.BUSY, ← s.get_sequencing x PWR_DOMAIN.STATE]
  generalize s.sequencing x = w at hy hb ⊢
  have hs : b2n (w.get PWR_DOMAIN.STATE x.domain == 3) ≤ 1 := by cases w.get PWR_DOMAIN.STATE x.domain == 3 <;> decide
  rw [hyd, ← hyx]
  exact State.ended_small (by omega) (w.endDesc_ended y _ _ 0 hy hp)

/-- A turn-on joins, waits in the queue, is reported, or begins where rails and tokens allow it (R317, R319). -/
theorem domainOn_spec (h : NamesDomain s x 1) : Does (.domainOn x.id) s (fun u =>
    if s.get PWR_DOMAIN.STATE x.domain = 2 then (u.dom x.domain).desc = (s.dom x.domain).desc ++ [x.id]
    else if s.get PWR_DOMAIN.STATE x.domain = 4 then
      (u.dom x.domain).queued = some ⟨true, x.id⟩ ∧ u.get PWR_DOMAIN.QUEUED x.domain = 1
    else if s.get PWR_DOMAIN.STATE x.domain = 3 then
      (if (s.dom x.domain).bringup = true then (u.dom x.domain).desc = (s.dom x.domain).desc ++ [x.id] else u.ended x.id 0 1 0)
    else if s.railsGood x.domain = false then u.ended x.id 0x03 (8 + 256 * x.domain) 0
    else if s.tokensFree < s.part.demand x.domain then u.ended x.id 0 0 0 ∧ u.get PWR_TOKEN.SHORT = 1
    else u.get PWR_DOMAIN.STATE x.domain = 2 ∧ u.get PWR_DOMAIN.BUSY x.domain = 1 ∧ (u.dom x.domain).desc = [x.id]) := by
  refine does_domainOp s x h rfl fun y hyx hyd _ hp ha hy => ?_
  have hd := domain_lt x
  rw [← s.get_sequencing x PWR_DOMAIN.STATE, ← s.dom_sequencing x, ← s.railsGood_sequencing x, ← s.tokensFree_sequencing x,
    ← s.part_sequencing x]
  generalize s.sequencing x = w at hy ⊢
  rw [hyd, ← hyx]
  generalize x.domain = d at hd ⊢
  have hb := fun h2 h4 => w.domRequest_begins d y.id true h2 h4
  rw [if_pos rfl] at hb
  by_cases h2 : w.get PWR_DOMAIN.STATE d = 2
  · rw [if_pos h2]
    exact w.domRequest_joins d y.id true h2
  by_cases h4 : w.get PWR_DOMAIN.STATE d = 4
  · rw [if_neg h2, if_pos h4]
    exact w.domRequest_queues d y.id true h4
  rw [if_neg h2, if_neg h4, hb h2 h4]
  by_cases h3 : w.get PWR_DOMAIN.STATE d = 3
  · rw [if_pos h3]
    by_cases hw : (w.dom d).bringup = true
    · rw [if_pos hw]
      exact w.beginOn_waits d y.id h3 hw
    · rw [if_neg hw]
      exact w.beginOn_reports d y hy hp ha h3 (Bool.eq_false_iff.mpr hw)
  rw [if_neg h3]
  by_cases hr : w.railsGood d = false
  · rw [if_pos hr]
    exact w.beginOn_rail d y hy hp hd h3 hr
  rw [if_neg hr, ite_prop_iff_and]
  exact ⟨w.beginOn_short d y hy hp ha h3 (Bool.of_not_eq_false hr), w.beginOn_turns d y.id h3 (Bool.of_not_eq_false hr)⟩

/-- A turn-off is refused to a schedule that is busy, waits in the queue, joins, begins, or is reported (R319, R320). -/
theorem domainOff_spec (h : NamesDomain s x 2) : Does (.domainOff x.id) s (fun u =>
    if (x.domain < 22 ∨ 32 ≤ x.domain) ∧ s.schedBusy = true then u.ended x.id 0x08 (busyDetail s x) 0
    else if s.get PWR_DOMAIN.STATE x.domain = 2 then
      (u.dom x.domain).queued = some ⟨false, x.id⟩ ∧ u.get PWR_DOMAIN.QUEUED x.domain = 1
    else if s.get PWR_DOMAIN.STATE x.domain = 4 then (u.dom x.domain).desc = (s.dom x.domain).desc ++ [x.id]
    else if s.get PWR_DOMAIN.STATE x.domain = 3 then
      u.get PWR_DOMAIN.STATE x.domain = 4 ∧ u.get PWR_DOMAIN.BUSY x.domain = 1 ∧ (u.dom x.domain).desc = [x.id]
    else u.ended x.id 0 0 0) := by
  refine does_domainOp s x h rfl fun y hyx hyd hyp hp ha hy => ?_
  rw [← s.get_sequencing x PWR_DOMAIN.STATE, ← s.dom_sequencing x, ← s.schedBusy_sequencing x, ← s.busyDetail_sequencing x]
  generalize s.sequencing x = w at hy ⊢
  have hbd : busyDetail w x = busyDetail w y := by rw [busyDetail, busyDetail, hyp]
  rw [hyd, hbd, ← hyx]
  generalize x.domain = d
  have hb := fun h2 h4 => w.domRequest_begins d y.id false h2 h4
  rw [if_neg Bool.false_ne_true] at hb
  by_cases hs : (d < 22 ∨ 32 ≤ d) ∧ w.schedBusy = true
  · rw [if_pos hs, if_pos hs]
    exact w.badState_ended y hy hp
  rw [if_neg hs, if_neg hs]
  split_ifs with h2 h4 h3
  · exact w.domRequest_queues d y.id false h2
  · exact w.domRequest_joins d y.id false h4
  · rw [hb h2 h4]
    exact w.beginOff_turns d y.id h3
  · rw [hb h2 h4]
    exact w.beginOff_reports d y hy hp ha h3

end

/-! Ends of the sequences (R318, R319). -/

namespace State

variable (s : State)

theorem desc_setDomSt (d st k : Nat) : (s.setDomSt d st).desc k = s.desc k := by rw [desc, descs_setDomSt, desc]

/-- An ended descriptor is ended in a state with the same descriptors. -/
theorem ended_setDom {d status det done : Nat} (n : Nat) (x : Dom) (h : s.ended d status det done) :
    (s.setDom n x).ended d status det done := ended_of_descs rfl h

/-- The requests of a domain whose units need no bring-up are done when its rails are stable. -/
def railsStable (d : Nat) : State :=
  if noBringup d then (s.endDomains (s.dom d).desc true).setDom d { s.dom d with desc := [] } else s

theorem get_railsStable (d m : Nat) (f : Fld) (hf : f.reg ∈ powerRegs) : (s.railsStable d).get f m = s.get f m := by
  unfold railsStable
  split
  · rw [get_setDom, (s.keepsPower_endDomains _ _).get f hf]
  · rfl

theorem queued_railsStable (d : Nat) : ((s.railsStable d).dom d).queued = (s.dom d).queued := by
  unfold railsStable
  split
  · rw [dom_setDom_self]
  · rfl

theorem descs_zeroCluster (c : Nat) : (s.zeroCluster c).descs = s.descs := by
  have h : (s.each (List.range 12) fun s i => s.setTile (12 * c + i) {}).descs = s.descs :=
    each_keeps (fun u => u.descs = s.descs) _ (fun u i hu => (u.setTile_descs _ _).trans hu) _ s rfl
  unfold zeroCluster
  dsimp only
  exact h

/-- Bring-up leaves the descriptors alone, but where it calibrates. -/
theorem descs_bringUp (d : Nat) (failed reuse : Bool) (h : d < 22 ∨ 24 ≤ d ∧ d < 32) : (s.bringUp d failed reuse).descs = s.descs := by
  unfold bringUp
  split
  · exact s.descs_zeroCluster _
  · rw [if_neg (by omega)]

/-- Bring-up of a cluster zeroes its stores. -/
theorem tstore_bringUp (d a : Nat) (failed reuse : Bool) (h6 : 6 ≤ d) (h22 : d < 22) (hl : 12 * (d - 6) ≤ a / 4194304)
    (hh : a / 4194304 < 12 * (d - 6) + 12) : (s.bringUp d failed reuse).tstore.byte a = 0 := by
  have hk : (decide (a < 12 * (d - 6) * 4194304) || decide ((12 * (d - 6) + 12) * 4194304 ≤ a)) = false := by
    rw [Bool.or_eq_false_iff, decide_eq_false_iff_not, decide_eq_false_iff_not]
    omega
  unfold bringUp
  rw [if_pos ⟨h6, h22⟩]
  unfold zeroCluster Mem.byte
  dsimp only [SMap.clear]
  rw [SMap.get_filter _ _ _ (fun k => decide (k < 12 * (d - 6) * 4194304) || decide ((12 * (d - 6) + 12) * 4194304 ≤ k)), hk]
  rfl

/-- When the bring-up of a domain's units can end. -/
theorem broughtUp_iff (d : Nat) : (s.domOn d = true ∧ (s.dom d).bringup = true ∧ s.broughtUp d = true) ↔
    s.get PWR_DOMAIN.STATE d = 3 ∧ (s.dom d).bringup = true ∧
    (d = 2 → s.scu.healthyA = true ∧ (s.scu.tracking = true ∨ s.scu.holder = some 0)) ∧
    (d = 3 → s.scu.healthyB = true ∧ (s.scu.tracking = true ∨ s.scu.holder = some 1)) := by
  rw [domOn_iff]
  refine and_congr_right fun _ => and_congr_right fun _ => ?_
  unfold broughtUp
  split_ifs with h2 h3
  · simp [h2]
  · simp [h3]
  · simp [h2, h3]

end State

section

variable (s : State) (d : Fin 36)

/-- A turn-on is done: the domain is ON. -/
theorem domainOnDone_spec (hq : (s.dom d).queued = none) : Does (.domainOnDone d) s (fun u =>
    if s.get PWR_DOMAIN.STATE d = 2 then
      u.get PWR_DOMAIN.STATE d = 3 ∧ u.get PWR_DOMAIN.BUSY d = 0 ∧ (d.val ∈ [0, 1, 4, 5] →
        ∀ y, s.desc y.id = some y → y.phase ≠ .ended → y.id ∈ (s.dom d).desc → u.ended y.id 0 ((1 + 2 * y.arg) % 2 ^ 48) 0)
    else u = s) := by
  by_cases h : s.get PWR_DOMAIN.STATE d = 2
  · have he : exec (.domainOnDone d) s = .next (((s.setDomSt d 3).railsStable d).takeQueued d) :=
      congrArg Host.Outcome.next (if_neg (not_not.mpr h))
    rw [State.takeQueued_none _ _ (by rw [State.queued_railsStable, State.dom_setDomSt, hq])] at he
    refine ⟨_, he, (if_pos h).mpr ⟨?_, ?_, fun hd y hy hp hm => ?_⟩⟩
    · rw [State.get_railsStable _ _ _ _ (by decide), s.get_setDomSt_state d 3 (by decide)]
    · rw [State.get_railsStable _ _ _ _ (by decide), s.get_setDomSt_busy d 3]
      rfl
    · have hn : noBringup d = true := List.contains_iff_mem.mpr hd
      rw [State.railsStable, if_pos hn]
      refine State.ended_setDom _ _ _ (State.endDomains_ended _ true y hp _ ((s.desc_setDomSt d 3 y.id).trans hy) ?_)
      rwa [State.dom_setDomSt]
  · exact ⟨s, congrArg Host.Outcome.next (if_pos h), (if_neg h).mpr rfl⟩

/-- A turn-off is done: the domain is OFF. -/
theorem domainOffDone_spec (hq : (s.dom d).queued = none) : Does (.domainOffDone d) s (fun u =>
    if s.get PWR_DOMAIN.STATE d = 4 then
      u.get PWR_DOMAIN.STATE d = 1 ∧ u.get PWR_DOMAIN.BUSY d = 0 ∧ (u.dom d).desc = [] ∧
        ∀ y, s.desc y.id = some y → y.phase ≠ .ended → y.id ∈ (s.dom d).desc → u.ended y.id 0 ((0 + 2 * y.arg) % 2 ^ 48) 0
    else u = s) := by
  by_cases h : s.get PWR_DOMAIN.STATE d = 4
  · have he : exec (.domainOffDone d) s = .next ((((s.setDomSt d 1).endDomains (s.dom d).desc false).setDom d
        { s.dom d with desc := [] }).takeQueued d) := congrArg Host.Outcome.next (if_neg (not_not.mpr h))
    rw [State.takeQueued_none _ _ (by rw [State.dom_setDom_self, hq])] at he
    have hk := (s.setDomSt d 1).keepsPower_endDomains (s.dom d).desc false
    refine ⟨_, he, (if_pos h).mpr ⟨?_, ?_, by rw [State.dom_setDom_self], fun y hy hp hm => ?_⟩⟩
    · rw [State.get_setDom, hk.get _ (by decide), s.get_setDomSt_state d 1 (by decide)]
    · rw [State.get_setDom, hk.get _ (by decide), s.get_setDomSt_busy d 1]
      rfl
    · exact State.ended_setDom _ _ _ (State.endDomains_ended _ false y hp _ ((s.desc_setDomSt d 1 y.id).trans hy) hm)
  · exact ⟨s, congrArg Host.Outcome.next (if_pos h), (if_neg h).mpr rfl⟩

/-- The bring-up of a domain's units ends. -/
theorem domainBringupDone_spec (calFailed calReuse : Bool) : Does (.domainBringupDone d calFailed calReuse) s (fun u =>
    if s.get PWR_DOMAIN.STATE d = 3 ∧ (s.dom d).bringup = true ∧
        (d.val = 2 → s.scu.healthyA = true ∧ (s.scu.tracking = true ∨ s.scu.holder = some 0)) ∧
        (d.val = 3 → s.scu.healthyB = true ∧ (s.scu.tracking = true ∨ s.scu.holder = some 1)) then
      (u.dom d).desc = [] ∧ (u.dom d).bringup = false ∧ (d.val < 22 ∨ (24 ≤ d.val ∧ d.val < 32) →
        ∀ y, s.desc y.id = some y → y.phase ≠ .ended → y.id ∈ (s.dom d).desc → u.ended y.id 0 ((1 + 2 * y.arg) % 2 ^ 48) 0) ∧
      (∀ a, 6 ≤ d.val → d.val < 22 → 12 * (d.val - 6) ≤ a / 4194304 → a / 4194304 < 12 * (d.val - 6) + 12 → u.tstore.byte a = 0)
    else u = s) := by
  have hc := s.broughtUp_iff d
  by_cases h : s.domOn d = true ∧ (s.dom d).bringup = true ∧ s.broughtUp d = true
  · have hg : ¬ (!(s.domOn d && (s.dom d).bringup && s.broughtUp d)) = true := by
      obtain ⟨ho, hb, hu⟩ := h
      rw [ho, hb, hu]
      decide
    have hd := ((s.setDom d { s.dom d with desc := [], bringup := false }).keepsPower_bringUp d calFailed calReuse).trans
      (State.keepsPower_endDomains _ (s.dom d).desc true)
    refine ⟨_, congrArg Host.Outcome.next (if_neg hg), (if_pos (hc.mp h)).mpr ⟨?_, ?_, fun hu y hy hp hm => ?_, fun a h6 h22 hl hh => ?_⟩⟩
    · rw [hd.dom, State.dom_setDom_self]
    · rw [hd.dom, State.dom_setDom_self]
    · refine State.endDomains_ended _ true y hp _ ?_ hm
      rw [State.desc, State.descs_bringUp _ _ _ _ hu, State.setDom_descs]
      exact hy
    · rw [State.tstore_endDomains]
      exact State.tstore_bringUp _ d a _ _ h6 h22 hl hh
  · have hg : (!(s.domOn d && (s.dom d).bringup && s.broughtUp d)) = true := by
      rw [Bool.not_eq_true', Bool.eq_false_iff, Ne, Bool.and_eq_true, Bool.and_eq_true, and_assoc]
      exact h
    exact ⟨s, congrArg Host.Outcome.next (if_pos hg), (if_neg (mt hc.mpr h)).mpr rfl⟩

end

/-! Domains that fail (R315, R320, R382). -/

/-- What holds before a fold and survives the steps of its list holds after. -/
theorem State.each_keeps_mem {α : Type} {P : State → Prop} {g : State → α → State} :
    ∀ (xs : List α) (s : State), (∀ u, ∀ x ∈ xs, P u → P (g u x)) → P s → P (s.each xs g)
  | [], _, _, hs => hs
  | x :: xs, s, h, hs => each_keeps_mem xs (g s x) (fun u y hy => h u y (List.mem_cons_of_mem x hy)) (h s x List.mem_cons_self hs)

/-- A fold reaches what one of its steps brings about and no step undoes, under what every step keeps. -/
theorem State.each_reaches {α : Type} {J Q : State → Prop} {g : State → α → State} {x : α} (hx : ∀ u, J u → Q (g u x)) :
    ∀ (xs : List α) (s : State), (∀ u, ∀ y ∈ xs, J u → J (g u y)) → (∀ u, ∀ y ∈ xs, J u → Q u → Q (g u y)) → J s →
      x ∈ xs ∨ Q s → Q (s.each xs g)
  | [], _, _, _, _, hm => hm.resolve_left List.not_mem_nil
  | y :: ys, s, hJ, hQ, hs, hm => by
    refine each_reaches (g := g) hx ys (g s y) (fun u z hz => hJ u z (List.mem_cons_of_mem y hz))
      (fun u z hz => hQ u z (List.mem_cons_of_mem y hz)) (hJ s y List.mem_cons_self hs) ?_
    obtain hm | hm := hm
    · obtain rfl | hm := List.mem_cons.mp hm
      · exact .inr (hx s hs)
      · exact .inl hm
    · exact .inr (hQ s y List.mem_cons_self hs hm)

/-- The lasers are off; rails, pins and what a start keeps are as before. -/
structure ShutDown (s u : State) : Prop where
  rails : u.rails = s.rails
  pins : u.pins = s.pins
  start : ∀ f, f.reg = .PWR_START → u.get f = s.get f
  dark : u.get PWR_LASER.ARMED = 0

namespace ShutDown

variable {s u v : State}

theorem keeps (h : ShutDown s u) (k : KeepsPower u v) : ShutDown s v :=
  ⟨k.rails.trans h.rails, k.pins.trans h.pins, fun f hf => (k.get f (by rw [hf]; decide) 0 0).trans (h.start f hf),
    (k.get _ (by decide) 0 0).trans h.dark⟩

/-- A step after which the registers of lasers and of starts, the rails and the pins are as they were. -/
theorem of_same (h : ShutDown s u) (hr : v.rails = u.rails) (hp : v.pins = u.pins)
    (hg : ∀ f, f.reg ≠ .PWR_DOMAIN → f.reg ∈ powerRegs → v.get f = u.get f) : ShutDown s v :=
  ⟨hr.trans h.rails, hp.trans h.pins, fun f hf => (hg f (by rw [hf]; decide) (by rw [hf]; decide)).trans (h.start f hf),
    (hg _ (by decide) (by decide)).trans h.dark⟩

end ShutDown

namespace State

variable (s : State)

theorem shutDown_driversOff : ShutDown s s.driversOff := by
  obtain h | ⟨hb, he⟩ := s.keepsPower_driversOff
  · have hs : ShutDown s (s.put PWR_LASER.ARMED 0) := ⟨rfl, rfl,
      fun f hf => s.get_put_reg PWR_LASER.ARMED f 0 0 0 0 0 (by rw [hf]; decide), s.get_put_self PWR_LASER.ARMED 0 0 0 (by decide)⟩
    exact hs.keeps h
  · rw [he]
    have hl : s.get PWR_LASER.ARMED < 2 := s.get_lt PWR_LASER.ARMED 0 0
    have hn : s.get PWR_LASER.ARMED ≠ 1 := by rwa [bit, beq_eq_false_iff_ne] at hb
    exact ⟨rfl, rfl, fun _ _ => rfl, by omega⟩

/-- A domain that fails: its descriptors end, its units stop, then its state changes. -/
theorem failDomain_steps (d : Nat) : ∃ v w, KeepsPower s v ∧ KeepsPower ((v.setDom d {}).put PWR_DOMAIN.QUEUED 0 d) w ∧
    s.failDomain d = w.setDomSt d 5 :=
  ⟨_, _, .each (fun u i => u.keepsPower_endDesc i stUnavailable (2 + 256 * d) 0) s _, keepsPower_domainGone _ d, rfl⟩

theorem get_failDomain (d m : Nat) (f : Fld) (h : f.reg ≠ .PWR_DOMAIN) (hf : f.reg ∈ powerRegs) :
    (s.failDomain d).get f m = s.get f m := by
  obtain ⟨v, w, hv, hw, he⟩ := s.failDomain_steps d
  have hk : KeepsBut w (w.setDomSt d 5) .PWR_DOMAIN d 0 [.EVC_PEND] := w.setDomSt_keepsBut d 5
  rw [he, get_def, hk _ _ _ (RegName.key_ne h _ _ _ _) (by revert hf; generalize f.reg = r; revert r; decide), ← get_def,
    hw.get f hf, get_put_reg _ PWR_DOMAIN.QUEUED f _ _ _ _ _ h, get_setDom, hv.get f hf]

theorem shutDown_failDomain {u : State} (d : Nat) (h : ShutDown s u) : ShutDown s (u.failDomain d) := by
  obtain ⟨v, w, hv, hw, he⟩ := u.failDomain_steps d
  obtain ⟨r, q, ht⟩ := w.setDomSt_frame d 5
  refine h.of_same ?_ ?_ fun f hf hp => u.get_failDomain d 0 f hf hp
  · rw [he, ht]
    exact hw.rails.trans hv.rails
  · rw [he, ht]
    exact hw.pins.trans hv.pins

/-- STATE of a domain after one has failed. -/
theorem get_state_failDomain (d m : Nat) (hd : d < 65536) (hm : m < 65536) :
    (s.failDomain d).get PWR_DOMAIN.STATE m = if m = d then 5 else s.get PWR_DOMAIN.STATE m := by
  obtain ⟨v, w, hv, hw, he⟩ := s.failDomain_steps d
  rw [he]
  split
  · next h =>
    rw [h]
    exact w.get_setDomSt_state d 5 (by decide)
  · next h =>
    rw [w.get_setDomSt_ne d 5 m _ rfl hd hm h, hw.get _ (by decide), get_put_idx _ _ _ _ _ _ _ _ hd (by decide) hm (by decide) (.inl h),
      get_setDom, hv.get _ (by decide)]

/-- Domains that fail together: the lasers are off and each is FAILED. -/
theorem failDomains_spec (ds : List Nat) (hds : ∀ m ∈ ds, m < 65536) :
    ShutDown s (s.failDomains ds) ∧ ∀ m ∈ ds, (s.failDomains ds).get PWR_DOMAIN.STATE m = 5 := by
  have hJ : ShutDown s (s.driversOff.each ds fun s d => s.failDomain d) :=
    each_keeps (ShutDown s) _ (fun _ d h => s.shutDown_failDomain d h) ds _ s.shutDown_driversOff
  have hF : ∀ u c, KeepsPower u (u.when c fun s => s.schedFault) := fun u c => .when (fun u => u.keepsPower_schedFault) u c
  refine ⟨hJ.keeps (hF _ _), fun m hm => ((hF _ _).get _ (by decide) m 0).trans ?_⟩
  refine each_reaches (J := fun _ => True) (Q := fun u => u.get PWR_DOMAIN.STATE m = 5) (x := m) (fun u _ => ?_) ds _
    (fun _ _ _ _ => trivial) (fun u d hd _ hu => ?_) trivial (.inl hm)
  · rw [u.get_state_failDomain m m (hds m hm) (hds m hm), if_pos rfl]
  · rw [u.get_state_failDomain d m (hds d hd) (hds m hm), hu]
    split <;> rfl

theorem mem_domsLive (ds : List Nat) (m : Nat) : m ∈ s.domsLive ds ↔ m ∈ ds ∧ s.get PWR_DOMAIN.STATE m ∈ [2, 3, 4] := by
  rw [domsLive, List.mem_filter, List.contains_iff_mem]

/-- A rail out of range. -/
def railLow (r : Nat) : State := { s with rails := s.rails.set r false }
/-- A rail in range again, or not. -/
def railSettled (r : Nat) (back : Bool) : State := if back then { s with rails := s.rails.set r true } else s

theorem get_railSettled (r m : Nat) (back : Bool) (f : Fld) : (s.railSettled r back).get f m = s.get f m := by
  cases back <;> rfl

theorem rails_railSettled {s u : State} (r : Nat) (back : Bool) (h : u.rails = (s.railLow r).rails) :
    (u.railSettled r back).rails = s.rails.set r back := by
  cases back
  · exact h
  · show u.rails.set r true = s.rails.set r true
    rw [h]
    exact List.set_set ..

/-- A trip shows on its pin and makes the next start cold. -/
def tripped : State := ({ s with pins := { s.pins with thermTrip := true } } : State).put PWR_START.FORCE_COLD 1

theorem get_state_tripped (m : Nat) : s.tripped.get PWR_DOMAIN.STATE m = s.get PWR_DOMAIN.STATE m :=
  get_put_reg _ PWR_START.FORCE_COLD PWR_DOMAIN.STATE 1 0 0 m 0 (by decide)

theorem get_forceCold_tripped : s.tripped.get PWR_START.FORCE_COLD = 1 := get_put_self _ PWR_START.FORCE_COLD 1 0 0 (by decide)

theorem thermTrip_tripped : s.tripped.pins.thermTrip = true := rfl

/-- The domains that a rail feeds. -/
def fedBy (r : Nat) : List Nat := (List.range 36).filter (fun m => (railsOf m).contains r)

end State

section

variable (s : State)

/-- A rail out of range is out until it is back, and the domains that it feeds fail. -/
theorem railFault_spec (r : Fin 7) (back : Bool) (hp : s.mainPower = true) (hs : s.starting = false) :
    Does (.railFault r back) s (fun u =>
      u.rails = s.rails.set r back ∧
      ((∃ m < 36, (railsOf m).contains r.val = true ∧ s.get PWR_DOMAIN.STATE m ∈ [2, 3, 4]) →
        u.get PWR_LASER.ARMED = 0 ∧ ∀ m ∈ (List.range 36).filter (fun m => (railsOf m).contains r.val),
          s.get PWR_DOMAIN.STATE m ∈ [2, 3, 4] → u.get PWR_DOMAIN.STATE m = 5)) := by
  have he : exec (.railFault r back) s = .next (State.railSettled
      (if (s.domsLive (State.fedBy r)).isEmpty || !s.mainPower then s.railLow r
       else if s.starting then (s.railLow r).failStart 5 else (s.railLow r).failDomains (s.domsLive (State.fedBy r))) r back) := by
    cases back <;> rfl
  refine ⟨_, he, ?_⟩
  rw [hp, hs, Bool.not_true, Bool.or_false, if_neg Bool.false_ne_true]
  by_cases hd : (s.domsLive (State.fedBy r)).isEmpty = true
  · rw [if_pos hd]
    refine ⟨State.rails_railSettled r back rfl, fun ⟨m, hm, hr, hl⟩ => ?_⟩
    have hmem : m ∈ s.domsLive (State.fedBy r) :=
      (s.mem_domsLive _ m).mpr ⟨List.mem_filter.mpr ⟨List.mem_range.mpr hm, hr⟩, hl⟩
    rw [List.isEmpty_iff.mp hd] at hmem
    cases hmem
  · rw [if_neg hd]
    obtain ⟨hsd, hf⟩ := (s.railLow r).failDomains_spec (s.domsLive (State.fedBy r)) fun m hm =>
      (List.mem_range.mp (List.mem_filter.mp ((s.mem_domsLive _ m).mp hm).1).1).trans (by decide)
    refine ⟨State.rails_railSettled r back hsd.rails, fun _ => ⟨(State.get_railSettled _ _ _ _ _).trans hsd.dark, fun m hm hl => ?_⟩⟩
    exact (State.get_railSettled _ _ _ _ _).trans (hf m ((s.mem_domsLive _ m).mpr ⟨hm, hl⟩))

/-- A thermal trip shows on its pin, makes the next start cold and fails every domain but D00. -/
theorem thermalTrip_spec : Does .thermalTrip s (fun u =>
    if s.mainPower = false then u = s
    else s.starting = false → u.pins.thermTrip = true ∧ u.get PWR_START.FORCE_COLD = 1 ∧ u.get PWR_LASER.ARMED = 0 ∧
      ∀ m ∈ (List.range 35).map (1 + ·), s.get PWR_DOMAIN.STATE m ∈ [2, 3, 4] → u.get PWR_DOMAIN.STATE m = 5) := by
  have hlt : ∀ m ∈ (List.range 35).map (1 + ·), m < 65536 := by decide
  have he : exec .thermalTrip s = .next (if !s.mainPower then s else if s.starting then s.tripped.failStart 5
      else s.tripped.failDomains (s.tripped.domsLive ((List.range 35).map (1 + ·)))) := rfl
  generalize (List.range 35).map (1 + ·) = ds at hlt he ⊢
  by_cases hp : s.mainPower = false
  · refine ⟨_, he, (if_pos hp).mpr ?_⟩
    rw [hp]
    rfl
  · refine ⟨_, he, (if_neg hp).mpr fun hs => ?_⟩
    rw [Bool.of_not_eq_false hp, hs, Bool.not_true, if_neg Bool.false_ne_true, if_neg Bool.false_ne_true]
    obtain ⟨hsd, hf⟩ := s.tripped.failDomains_spec (s.tripped.domsLive ds) fun m hm => hlt m ((State.mem_domsLive _ _ m).mp hm).1
    refine ⟨?_, (hsd.start _ rfl).trans s.get_forceCold_tripped, hsd.dark, fun m hm hl => hf m ((State.mem_domsLive _ _ m).mpr ⟨hm, ?_⟩)⟩
    · rw [hsd.pins, s.thermTrip_tripped]
    · rwa [s.get_state_tripped]

end

/-! Edges of events (R302, R308, R309, R323). -/

namespace State

variable (s : State)

theorem srcBit_eq (k : Nat) : s.srcBit EVC_PEND.PEND k = (bitsOf (s.get EVC_PEND.PEND (k / 512) (k % 512 / 64)) (k % 64) 1 == 1) := rfl

theorem srcBit_setSrc (k n : Nat) (x : Src) : (s.setSrc n x).srcBit EVC_PEND.PEND k = s.srcBit EVC_PEND.PEND k := rfl

theorem get_setSrcBit (k : Nat) (b : Bool) : (s.setSrcBit EVC_PEND.PEND k b).get EVC_PEND.PEND (k / 512) (k % 512 / 64) =
    setBits (s.get EVC_PEND.PEND (k / 512) (k % 512 / 64)) (k % 64) 1 (b2n b) := by
  have hl : s.get EVC_PEND.PEND (k / 512) (k % 512 / 64) < 2 ^ 64 := s.get_lt EVC_PEND.PEND _ _
  rw [setSrcBit, get_put_self _ _ _ _ _ (by decide)]
  exact Nat.mod_eq_of_lt (setBits_lt _ _ _ _ 64 hl (by omega))

theorem srcBit_setSrcBit_self (k : Nat) : (s.setSrcBit EVC_PEND.PEND k true).srcBit EVC_PEND.PEND k = true := by
  rw [srcBit_eq, get_setSrcBit, setBits_get]
  rfl

/-- The pending bit of another source. -/
theorem srcBit_setSrcBit_ne (k n : Nat) (b : Bool) (hk : k < 4096) (hn : n < 4096) (h : k ≠ n) :
    (s.setSrcBit EVC_PEND.PEND n b).srcBit EVC_PEND.PEND k = s.srcBit EVC_PEND.PEND k := by
  rw [srcBit_eq, srcBit_eq]
  by_cases hw : k / 512 = n / 512 ∧ k % 512 / 64 = n % 512 / 64
  · obtain ⟨hi, hj⟩ := hw
    rw [hi, hj, get_setSrcBit]
    have hd : k % 64 < n % 64 ∨ n % 64 < k % 64 := by omega
    obtain hd | hd := hd
    · rw [setBits_get_below _ _ _ _ _ _ hd]
    · rw [setBits_get_above _ _ _ _ _ _ hd]
  · rw [setSrcBit, get_put_idx _ _ _ _ _ _ _ _ (by omega) (by omega) (by omega) (by omega) (by omega)]

/-- An edge that enters the pending bits sets its own. -/
theorem srcBit_pendEdge_self (k : Nat) (d : BitVec 128) : (s.pendEdge k d).srcBit EVC_PEND.PEND k = true := by
  unfold pendEdge
  split
  · next h => rwa [srcBit_setSrc]
  · rw [srcBit_setSrc, srcBit_setSrcBit_self]

theorem srcBit_pendEdge_ne (k n : Nat) (d : BitVec 128) (hk : k < 4096) (hn : n < 4096) (h : k ≠ n) :
    (s.pendEdge n d).srcBit EVC_PEND.PEND k = s.srcBit EVC_PEND.PEND k := by
  unfold pendEdge
  split
  · rw [srcBit_setSrc]
  · rw [srcBit_setSrc, srcBit_setSrcBit_ne _ _ _ _ hk hn h]

theorem src_pendEdge_ne (k n : Nat) (d : BitVec 128) (h : k ≠ n) : (s.pendEdge n d).src k = s.src k := by
  unfold pendEdge
  split
  · rw [src_setSrc_ne _ _ _ _ h]
  · rw [src_setSrc_ne _ _ _ _ h, setSrcBit, src_put]

theorem latch_pendEdge (k : Nat) (d : BitVec 128) : ((s.pendEdge k d).src k).latch = (s.src k).latch := by
  unfold pendEdge
  split <;> rw [src_setSrc_self]

/-- A source that rises is pending, or its edge is latched. -/
theorem raise_pending (k : Nat) (d : BitVec 128) :
    (s.raise k d).srcBit EVC_PEND.PEND k = true ∨ ((s.raise k d).src k).latch = true := by
  unfold raise
  split
  · exact .inr (by rw [src_setSrc_self])
  · exact .inl (s.srcBit_pendEdge_self k d)

/-- The latched edge of a source enters the pending bits. -/
def letIn (k : Nat) : State := (s.setSrc k { s.src k with latch := false, held := 0 }).pendEdge k (s.src k).held

theorem letIn_regs (k : Nat) : KeepsRegs s (s.letIn k) [.EVC_PEND] := pendEdge_regs _ k _

/-- The sources below `hi` from `lo` on whose edge is latched. -/
def latched (lo hi : Nat) : List Nat :=
  (s.srcs.filter (fun p => decide (lo ≤ p.1) && decide (p.1 < hi) && p.2.latch)).map (·.1)

theorem latched_range {lo hi k : Nat} (h : k ∈ s.latched lo hi) : lo ≤ k ∧ k < hi := by
  obtain ⟨p, hp, rfl⟩ := List.mem_map.mp h
  have hp := (List.mem_filter.mp hp).2
  simp only [Bool.and_eq_true, decide_eq_true_eq] at hp
  exact hp.1

/-- A value other than the default is listed. -/
theorem mem_of_get {α : Type} {d : α} : ∀ (m : SMap α) (k : Nat), SMap.get d m k ≠ d → (k, SMap.get d m k) ∈ m
  | [], _, h => absurd rfl h
  | (k', x) :: m, k, h => by
    unfold SMap.get at h ⊢
    split
    · next e => rw [e]; exact List.mem_cons_self
    · next e =>
      rw [if_neg e] at h
      exact List.mem_cons_of_mem _ (mem_of_get m k h)

theorem mem_latched {lo hi k : Nat} (hl : lo ≤ k) (hh : k < hi) (h : (s.src k).latch = true) : k ∈ s.latched lo hi := by
  have hm : (k, s.src k) ∈ s.srcs := mem_of_get (d := ({} : Src)) s.srcs k fun e => by rw [src, e] at h; cases h
  refine List.mem_map.mpr ⟨_, List.mem_filter.mpr ⟨hm, ?_⟩, rfl⟩
  rw [decide_eq_true hl, decide_eq_true hh, h]
  rfl

/-- The edge of a source is still in its latch, or its pending bit is set. -/
def Noted (k : Nat) (u : State) : Prop := (u.src k).latch = true ∨ u.srcBit EVC_PEND.PEND k = true
/-- The edge of a source has entered the pending bits. -/
def In (k : Nat) (u : State) : Prop := u.srcBit EVC_PEND.PEND k = true ∧ (u.src k).latch = false

theorem letIn_self (k : Nat) : In k (s.letIn k) := by
  refine ⟨srcBit_pendEdge_self _ k _, ?_⟩
  rw [letIn, latch_pendEdge, src_setSrc_self]

theorem letIn_ne (k n : Nat) (hk : k < 4096) (hn : n < 4096) (h : k ≠ n) :
    (s.letIn n).src k = s.src k ∧ (s.letIn n).srcBit EVC_PEND.PEND k = s.srcBit EVC_PEND.PEND k := by
  unfold letIn
  rw [src_pendEdge_ne _ _ _ _ h, src_setSrc_ne _ _ _ _ h, srcBit_pendEdge_ne _ _ _ _ hk hn h, srcBit_setSrc]
  exact ⟨rfl, rfl⟩

theorem letIn_noted (k n : Nat) (hk : k < 4096) (hn : n < 4096) (h : Noted k s) : Noted k (s.letIn n) := by
  by_cases e : k = n
  · subst e
    exact .inr (s.letIn_self k).1
  · obtain ⟨hs, hb⟩ := s.letIn_ne k n hk hn e
    rwa [Noted, hs, hb]

theorem letIn_in (k n : Nat) (hk : k < 4096) (hn : n < 4096) (h : In k s) : In k (s.letIn n) := by
  by_cases e : k = n
  · subst e
    exact s.letIn_self k
  · obtain ⟨hs, hb⟩ := s.letIn_ne k n hk hn e
    rwa [In, hs, hb]

end State

/-! The governor (R321, R322). -/

namespace State

variable (s : State)

/-- Power, temperature or a die is over its limit. -/
abbrev hot (w tj a b : Nat) : Prop :=
  s.get PWR_WEIR.ENVELOPE_W < w ∨ s.get PWR_WEIR.TJ_LIMIT < tj ∨ (s.part = .lhn1H ∧ (164 < a ∨ 164 < b))

theorem weirOver_ne_zero (w tj a b : Nat) : s.weirOver w tj a b ≠ 0 ↔ s.hot w tj a b := by
  have h : ∀ c : Bool, b2n c ≠ 0 ↔ c = true := by decide
  have hs : ∀ x y z : Nat, x + 2 * y + 4 * z ≠ 0 ↔ x ≠ 0 ∨ y ≠ 0 ∨ z ≠ 0 := by omega
  rw [weirOver, hs, h, h, h, hot]
  simp only [Bool.and_eq_true, Bool.or_eq_true, decide_eq_true_eq, beq_iff_eq]

/-- The next target, with the limits told apart by `p`. -/
theorem weirStep_decide (w tj : Nat) (p : Prop) [Decidable p] : s.weirStep w tj (decide p) =
    if p then max (s.get PWR_WEIR.VNOW_MV - 5) 650
    else if s.get PWR_WEIR.VSET_MV < s.get PWR_WEIR.VNOW_MV then max (s.get PWR_WEIR.VNOW_MV - 5) (s.get PWR_WEIR.VSET_MV)
    else if 100 * w < 98 * s.get PWR_WEIR.ENVELOPE_W ∧ tj + 2 < s.get PWR_WEIR.TJ_LIMIT ∧
        s.get PWR_WEIR.VNOW_MV < s.get PWR_WEIR.VSET_MV then min (s.get PWR_WEIR.VNOW_MV + 5) (s.get PWR_WEIR.VSET_MV)
    else s.get PWR_WEIR.VNOW_MV := by
  simp only [weirStep, decide_eq_true_eq]

/-- What the weir keeps outside the registers. -/
def weirKept (tj : Nat) (why : BitVec 3) (n : Nat) (x : Sched) : State := { s with tj := tj, overWhy := why, overT := n, sched := x }

theorem reg_weirKept (tj : Nat) (why : BitVec 3) (n : Nat) (x : Sched) (r : RegName) (i j : Nat) :
    (s.weirKept tj why n x).reg r i j = s.reg r i j := rfl

theorem overT_weirKept (tj : Nat) (why : BitVec 3) (n : Nat) (x : Sched) : (s.weirKept tj why n x).overT = n := rfl

/-- The target and the power are shown. -/
def weirShown (w v : Nat) : State := (s.put PWR_WEIR.VNOW_MV v).put PWR_WEIR.P_W (min 2047 w)

/-- What the weir has noted, before AT_FLOOR clears. -/
def weirNoted (w tj why v : Nat) : State :=
  (s.weirShown w v).weirKept tj (BitVec.ofNat 3 why) (if why ≠ 0 ∧ v = 650 then s.overT + 1 else 0)
    { (s.weirShown w v).sched with maxTj := max (s.weirShown w v).sched.maxTj tj }

/-- The weir after its round. -/
def weirDone (w tj why v : Nat) : State := (s.weirNoted w tj why v).when (why == 0) (fun s => s.put PWR_WEIR.AT_FLOOR 0)

theorem overT_weirDone (w tj why v : Nat) : (s.weirDone w tj why v).overT = if why ≠ 0 ∧ v = 650 then s.overT + 1 else 0 := by
  have h : (s.weirNoted w tj why v).overT = if why ≠ 0 ∧ v = 650 then s.overT + 1 else 0 := overT_weirKept ..
  exact when_keeps (fun u => u.overT = _) _ _ _ h ((put_overT _ PWR_WEIR.AT_FLOOR 0 0 0).trans h)

theorem weirShown_keepsBut (w v : Nat) : KeepsBut s (s.weirShown w v) .PWR_WEIR 0 0 [] :=
  (keepsBut_put s PWR_WEIR.VNOW_MV v 0 0 []).trans (keepsBut_put _ PWR_WEIR.P_W (min 2047 w) 0 0 [])

theorem weirDone_keepsBut (w tj why v : Nat) : KeepsBut s (s.weirDone w tj why v) .PWR_WEIR 0 0 [] := by
  have h : KeepsBut s (s.weirNoted w tj why v) .PWR_WEIR 0 0 [] := fun r i j hk hr =>
    (reg_weirKept ..).trans (s.weirShown_keepsBut w v r i j hk hr)
  exact when_keeps (fun u => KeepsBut s u .PWR_WEIR 0 0 []) _ _ _ h (h.trans (keepsBut_put _ PWR_WEIR.AT_FLOOR 0 0 0 []))

theorem get_weirNoted (w tj why v : Nat) (f : Fld) : (s.weirNoted w tj why v).get f = (s.weirShown w v).get f := by
  rw [get_def, weirNoted, reg_weirKept, ← get_def]

/-- Of the fields of PWR_WEIR, the two noted and AT_FLOOR. -/
theorem get_weirDone (w tj why v : Nat) (f : Fld) (hr : f.reg = .PWR_WEIR) (hf : f.lo + f.w ≤ 50 ∨ 51 ≤ f.lo) :
    (s.weirDone w tj why v).get f = (s.weirShown w v).get f :=
  when_keeps (fun u => u.get f = (s.weirShown w v).get f) _ _ _ (s.get_weirNoted w tj why v f)
    ((get_put_field _ PWR_WEIR.AT_FLOOR f 0 0 0 hr (by decide) hf.symm).trans (s.get_weirNoted w tj why v f))

theorem get_weirDone_atFloor (w tj why v : Nat) : (s.weirDone w tj why v).get PWR_WEIR.AT_FLOOR =
    if why = 0 then 0 else s.get PWR_WEIR.AT_FLOOR := by
  have h : (s.weirNoted w tj why v).get PWR_WEIR.AT_FLOOR = s.get PWR_WEIR.AT_FLOOR := by
    rw [get_weirNoted, weirShown, get_put_field _ PWR_WEIR.P_W PWR_WEIR.AT_FLOOR _ _ _ rfl (by decide) (by decide),
      get_put_field _ PWR_WEIR.VNOW_MV PWR_WEIR.AT_FLOOR _ _ _ rfl (by decide) (by decide)]
  unfold weirDone when
  generalize s.weirNoted w tj why v = u at h ⊢
  by_cases h0 : why = 0
  · rw [if_pos h0, if_pos (beq_iff_eq.mpr h0)]
    exact get_put_self u PWR_WEIR.AT_FLOOR 0 0 0 (by decide)
  · rw [if_neg h0, if_neg (mt beq_iff_eq.mp h0), h]

theorem weirStep_lt (w tj : Nat) (high : Bool) : s.weirStep w tj high < 1024 := by
  have hv : s.get PWR_WEIR.VNOW_MV < 1024 := s.get_lt PWR_WEIR.VNOW_MV 0 0
  have hs : s.get PWR_WEIR.VSET_MV < 1024 := s.get_lt PWR_WEIR.VSET_MV 0 0
  unfold weirStep
  dsimp only
  split_ifs <;> omega

end State

section

variable (s : State)

/-- A round of the weir (R321). -/
theorem weirUpdate_spec (w tj a b : Nat) : Does (.weirUpdate w tj a b) s (fun u =>
    u.get PWR_WEIR.VNOW_MV = s.weirStep w tj (decide (s.hot w tj a b)) ∧ u.get PWR_WEIR.P_W = min 2047 w ∧
    u.get PWR_WEIR.AT_FLOOR = (if s.hot w tj a b then s.get PWR_WEIR.AT_FLOOR else 0) ∧
    u.overT = (if s.hot w tj a b ∧ s.weirStep w tj (decide (s.hot w tj a b)) = 650 then s.overT + 1 else 0) ∧
    KeepsBut s u .PWR_WEIR 0 0 []) := by
  have he : exec (.weirUpdate w tj a b) s = .next (s.weirDone w tj (s.weirOver w tj a b)
    (s.weirStep w tj (s.weirOver w tj a b != 0))) := rfl
  have hh := s.weirOver_ne_zero w tj a b
  have hb : (s.weirOver w tj a b != 0) = decide (s.hot w tj a b) := by
    rw [Bool.eq_iff_iff, bne_iff_ne, decide_eq_true_iff]
    exact hh
  rw [hb] at he
  have hv := s.weirStep_lt w tj (decide (s.hot w tj a b))
  generalize s.weirStep w tj (decide (s.hot w tj a b)) = v at he hv ⊢
  generalize s.weirOver w tj a b = why at he hh
  refine ⟨_, he, ?_, ?_, ?_, ?_, s.weirDone_keepsBut w tj why v⟩
  · rw [s.get_weirDone _ _ _ _ _ rfl (by decide), State.weirShown,
      State.get_put_field _ PWR_WEIR.P_W PWR_WEIR.VNOW_MV _ _ _ rfl (by decide) (by decide),
      State.get_put_self _ _ _ _ _ (by decide)]
    exact Nat.mod_eq_of_lt hv
  · rw [s.get_weirDone _ _ _ _ _ rfl (by decide), State.weirShown, State.get_put_self _ _ _ _ _ (by decide)]
    exact Nat.mod_eq_of_lt (show min 2047 w < 2048 by omega)
  · rw [s.get_weirDone_atFloor]
    by_cases h0 : s.hot w tj a b
    · rw [if_pos h0, if_neg (hh.mpr h0)]
    · rw [if_neg h0, if_pos (not_not.mp (mt hh.mp h0))]
  · rw [s.overT_weirDone]
    simp only [hh]

/-- A millisecond at the floor raises POWER_LIMIT once. -/
theorem powerLimit_spec : Does .powerLimit s (fun u =>
    if s.overT < 101 ∨ s.get PWR_WEIR.AT_FLOOR = 1 then u = s
    else u.get PWR_WEIR.AT_FLOOR = 1 ∧ (u.srcBit EVC_PEND.PEND 40 = true ∨ (u.src 40).latch = true) ∧
      KeepsBut s u .PWR_WEIR 0 0 [.EVC_PEND]) := by
  have hb : s.bit PWR_WEIR.AT_FLOOR = true ↔ s.get PWR_WEIR.AT_FLOOR = 1 := beq_iff_eq
  by_cases h : s.overT < 101 ∨ s.get PWR_WEIR.AT_FLOOR = 1
  · exact ⟨s, congrArg Host.Outcome.next (if_pos (h.imp_right hb.mpr)), (if_pos h).mpr rfl⟩
  · refine ⟨_, congrArg Host.Outcome.next (if_neg (mt (Or.imp_right hb.mp) h)), (if_neg h).mpr ⟨?_, State.raise_pending _ 40 _, ?_⟩⟩
    · rw [State.raise0, State.get_def, State.raise_regs _ _ _ _ _ _ (by decide), ← State.get_def]
      exact s.get_put_self PWR_WEIR.AT_FLOOR 1 0 0 (by decide)
    · exact (keepsBut_put s PWR_WEIR.AT_FLOOR 1 0 0 _).trans ((State.raise_regs _ _ _).keepsBut _ _ _)

end

/-! Idle, the age of calibrations, and the lasers of Hjelzo engines (R137, R323, R332). -/

namespace State

variable (s : State)

theorem unlatch_regs (lo hi : Nat) : KeepsRegs s (s.unlatch lo hi) [.EVC_PEND] :=
  each_keeps (fun u => KeepsRegs s u [.EVC_PEND]) _ (fun u k h => h.trans (u.letIn_regs k)) (s.latched lo hi) s (fun _ _ _ _ => rfl)

/-- Polders that do not hold their edges. -/
def freePolders : List Nat := (List.range 8).filter (fun n => !s.bit EVC_CTRL.HOLD n)

theorem wakeXd_stopped (h : s.get PWR_IDLE.IDLE = 1) :
    s.wakeXd = (s.put PWR_IDLE.IDLE 0).each s.freePolders (fun s n => s.unlatch (512 * n) (512 * n + 512)) := by
  have hb : s.bit PWR_IDLE.IDLE = true := beq_iff_eq.mpr h
  unfold wakeXd
  rw [hb]
  rfl

theorem wakeXd_runs (h : s.get PWR_IDLE.IDLE ≠ 1) : s.wakeXd = s := by
  have hb : s.bit PWR_IDLE.IDLE = false := beq_eq_false_iff_ne.mpr h
  unfold wakeXd
  rw [hb]
  rfl

section

variable (n k : Nat) (hk : k < 4096) (hn : n < 8)
include hk hn

theorem unlatch_noted (h : Noted k s) : Noted k (s.unlatch (512 * n) (512 * n + 512)) :=
  each_keeps_mem _ s (fun u y hy hu => u.letIn_noted k y hk (by have := (s.latched_range hy).2; omega) hu) h

theorem unlatch_in (h : In k s) : In k (s.unlatch (512 * n) (512 * n + 512)) :=
  each_keeps_mem _ s (fun u y hy hu => u.letIn_in k y hk (by have := (s.latched_range hy).2; omega) hu) h

/-- The latched edges of a polder enter the pending bits. -/
theorem unlatch_reaches (hl : 512 * n ≤ k) (hh : k < 512 * n + 512) (h : Noted k s) : In k (s.unlatch (512 * n) (512 * n + 512)) := by
  by_cases hx : (s.src k).latch = true
  · refine each_reaches (J := fun _ => True) (x := k) (fun u _ => u.letIn_self k) _ s (fun _ _ _ _ => trivial) (fun u y hy _ hu => ?_)
      trivial (.inl (s.mem_latched hl hh hx))
    exact u.letIn_in k y hk (by have := (s.latched_range hy).2; omega) hu
  · exact s.unlatch_in n k hk hn ⟨h.resolve_left hx, Bool.eq_false_iff.mpr hx⟩

end

/-- A package that goes on lets the latched edges of the polders that do not hold theirs in. -/
theorem wakeXd_in (h : s.get PWR_IDLE.IDLE = 1) (n i : Nat) (hn : n < 8) (hf : s.get EVC_CTRL.HOLD n = 0) (hi : i < 512)
    (hl : (s.src (512 * n + i)).latch = true) : In (512 * n + i) s.wakeXd := by
  have hm : n ∈ s.freePolders := List.mem_filter.mpr ⟨List.mem_range.mpr hn, by rw [bit, hf]; rfl⟩
  have hlt : ∀ m ∈ s.freePolders, m < 8 := fun m h => List.mem_range.mp (List.mem_filter.mp h).1
  rw [s.wakeXd_stopped h]
  refine each_reaches (J := Noted (512 * n + i)) (x := n) (fun u hu => ?_) _ _ (fun u m hm hu => ?_) (fun u m hm _ hu => ?_) ?_ (.inl hm)
  · exact u.unlatch_reaches n _ (by omega) hn (by omega) (by omega) hu
  · exact u.unlatch_noted m _ (by omega) (hlt m hm) hu
  · exact u.unlatch_in m _ (by omega) (hlt m hm) hu
  · exact .inl (by rwa [src_put])

theorem wakeXd_regs (h : s.get PWR_IDLE.IDLE = 1) : KeepsRegs (s.put PWR_IDLE.IDLE 0) s.wakeXd [.EVC_PEND] := by
  rw [s.wakeXd_stopped h]
  exact each_keeps (fun u => KeepsRegs (s.put PWR_IDLE.IDLE 0) u [.EVC_PEND]) _ (fun u n hu => hu.trans (u.unlatch_regs _ _)) _ _
    (fun _ _ _ _ => rfl)

/-! The age of calibrations. -/

/-- An hour has passed for the calibration of a unit. -/
def ageUnit (u : Nat) : State := s.setCalUnit u { s.calUnit u with ageH := (s.calUnit u).ageH + 1 }

theorem calUnit_ageUnits (xs : List Nat) (h : xs.Nodup) (i : Nat) : (s.each xs ageUnit).calUnit i =
    if i ∈ xs then { s.calUnit i with ageH := (s.calUnit i).ageH + 1 } else s.calUnit i := by
  induction xs generalizing s with
  | nil => exact (if_neg List.not_mem_nil).symm
  | cons x xs ih =>
    obtain ⟨hx, hn⟩ := List.nodup_cons.mp h
    have e := ih (s.ageUnit x) hn
    by_cases hi : i = x
    · subst hi
      rw [if_neg hx] at e
      rw [if_pos List.mem_cons_self]
      exact e.trans (calUnit_setCalUnit_self ..)
    · have hc : (s.ageUnit x).calUnit i = s.calUnit i := calUnit_setCalUnit_ne _ _ _ _ hi
      rw [hc] at e
      simp only [List.mem_cons, hi, false_or]
      exact e

/-- Registers and calibrations only. -/
def CalOnly (u : State) : Prop := ∃ r c, u = { s with regs := r, cal := c }

theorem CalOnly.eq {s u : State} (h : s.CalOnly u) : u = { s with regs := u.regs, cal := u.cal } := by
  obtain ⟨r, c, rfl⟩ := h
  rfl

theorem CalOnly.put {s u : State} (h : s.CalOnly u) (f : Fld) (v i j : Nat) : s.CalOnly (u.put f v i j) := by
  obtain ⟨r, c, rfl⟩ := h
  exact ⟨_, c, rfl⟩

theorem CalOnly.ageUnit {s u : State} (h : s.CalOnly u) (n : Nat) : s.CalOnly (u.ageUnit n) := by
  obtain ⟨r, c, rfl⟩ := h
  exact ⟨r, _, rfl⟩

theorem calOnly_ageUnits (xs : List Nat) : s.CalOnly (s.each xs State.ageUnit) :=
  each_keeps s.CalOnly _ (fun _ n h => h.ageUnit n) xs s ⟨s.regs, s.cal, rfl⟩

theorem CalOnly.showCal {s u : State} (h : s.CalOnly u) (kind : Nat) : s.CalOnly (u.showCal kind) :=
  (((h.put CFG_CAL.PASS _ _ _).put CFG_CAL.FAIL _ _ _).put CFG_CAL.SOURCE _ _ _).put CFG_CAL.AGE_H _ _ _

theorem reg_ageUnits (xs : List Nat) (r : RegName) (i j : Nat) : (s.each xs ageUnit).reg r i j = s.reg r i j :=
  each_keeps (fun u => u.reg r i j = s.reg r i j) _ (fun u n h => (u.reg_setCalUnit n _ r i j).trans h) xs s rfl

theorem showCal_regs (kind : Nat) : KeepsRegs s (s.showCal kind) [.CFG_CAL] := by
  intro r i j hr
  have h : r ≠ .CFG_CAL := fun e => hr (e ▸ List.mem_singleton_self _)
  rw [showCal, reg_put_reg _ CFG_CAL.AGE_H r _ _ _ _ _ h, reg_put_reg _ CFG_CAL.SOURCE r _ _ _ _ _ h,
    reg_put_reg _ CFG_CAL.FAIL r _ _ _ _ _ h, reg_put_reg _ CFG_CAL.PASS r _ _ _ _ _ h]

theorem calUnit_showCal (kind i : Nat) : (s.showCal kind).calUnit i = s.calUnit i := by
  rw [showCal, calUnit_put, calUnit_put, calUnit_put, calUnit_put]

end State

section

variable (s : State)

/-- An idle package stops its clock. -/
theorem idleEnter_spec : Does .idleEnter s (fun u =>
    if s.get PWR_IDLE.DELAY_US ≠ 0 ∧ s.quiet = true then
      u.get PWR_IDLE.IDLE = 1 ∧ KeepsBut s u .PWR_IDLE 0 0 [] ∧ u = { s with regs := u.regs }
    else u = s) := by
  by_cases h : s.get PWR_IDLE.DELAY_US ≠ 0 ∧ s.quiet = true
  · exact ⟨_, congrArg Host.Outcome.next (if_pos h), (if_pos h).mpr
      ⟨s.get_put_self PWR_IDLE.IDLE 1 0 0 (by decide), keepsBut_put s PWR_IDLE.IDLE 1 0 0 [], rfl⟩⟩
  · exact ⟨s, congrArg Host.Outcome.next (if_neg h), (if_neg h).mpr rfl⟩

/-- It goes on, and lets latched edges in. -/
theorem idleExit_spec : Does .idleExit s (fun u =>
    if s.get PWR_IDLE.IDLE = 1 then
      u.get PWR_IDLE.IDLE = 0 ∧ KeepsBut s u .PWR_IDLE 0 0 [.EVC_PEND] ∧
      ∀ n < 8, s.get EVC_CTRL.HOLD n = 0 → ∀ i < 512, (s.src (512 * n + i)).latch = true →
        u.srcBit EVC_PEND.PEND (512 * n + i) = true ∧ (u.src (512 * n + i)).latch = false
    else u = s) := by
  refine ⟨s.wakeXd, rfl, ?_⟩
  by_cases h : s.get PWR_IDLE.IDLE = 1
  · have hr := s.wakeXd_regs h
    refine (if_pos h).mpr ⟨?_, (keepsBut_put s PWR_IDLE.IDLE 0 0 0 _).trans (hr.keepsBut _ _ _),
      fun n hn hf i hi hl => s.wakeXd_in h n i hn hf hi hl⟩
    rw [State.get_def, hr _ _ _ (by decide), ← State.get_def]
    exact s.get_put_self PWR_IDLE.IDLE 0 0 0 (by decide)
  · exact (if_neg h).mpr (s.wakeXd_runs h)

/-- A calibration ages by the hour. -/
theorem calibrationAge_spec : Does .calibrationAge s (fun u =>
    (∀ i < 6, u.calUnit i = if (s.calUnit i).gen = 0 then s.calUnit i else { s.calUnit i with ageH := (s.calUnit i).ageH + 1 }) ∧
    KeepsRegs s u [.CFG_CAL] ∧ u = { s with regs := u.regs, cal := u.cal }) := by
  have he : exec .calibrationAge s =
    .next ((s.each ((List.range 6).filter (fun u => (s.calUnit u).gen != 0)) State.ageUnit).showCal (s.get CFG_CAL.SOURCE)) := rfl
  refine ⟨_, he, fun i hi => ?_, fun r i j hr => (State.showCal_regs _ _ r i j hr).trans (s.reg_ageUnits _ r i j),
    ((s.calOnly_ageUnits _).showCal _).eq⟩
  rw [State.calUnit_showCal, s.calUnit_ageUnits _ (List.nodup_range.filter _)]
  have hm : i ∈ (List.range 6).filter (fun u => (s.calUnit u).gen != 0) ↔ (s.calUnit i).gen ≠ 0 := by
    rw [List.mem_filter, List.mem_range, bne_iff_ne, and_iff_right hi]
  by_cases h : (s.calUnit i).gen = 0
  · rw [if_pos h, if_neg (mt hm.mp (not_not.mpr h))]
  · rw [if_neg h, if_pos (hm.mpr h)]

/-- An engine has light where its domain is on and the lasers are armed. -/
theorem hzLaserOkChange_spec (e : Fin 2) (ok : Bool) : Does (.hzLaserOkChange e ok) s (fun u =>
    if s.part.hz = true then
      u.get HZE_STATUS.LASER_OK e = b2n (ok && decide (s.get PWR_DOMAIN.STATE (22 + e.val) = 3) && decide (s.get PWR_LASER.ARMED = 1)) ∧
      KeepsBut s u .HZE_STATUS e 0 [.EVC_PEND]
    else u = s) := by
  rw [← beq_eq_decide, ← beq_eq_decide]
  by_cases h : s.part.hz = true
  · have hg : ¬ (!s.part.hz) = true := by rw [h]; decide
    refine ⟨_, congrArg Host.Outcome.next (if_neg hg), (if_pos h).mpr ⟨?_, ?_⟩⟩
    · rw [State.get_def, State.noteHz_regs _ _ _ _ _ (by decide), ← State.get_def, State.get_put_self _ _ _ _ _ (by decide)]
      exact Nat.mod_eq_of_lt (show b2n _ < 2 by generalize (_ && _ : Bool) = c; cases c <;> decide)
    · exact (keepsBut_put s HZE_STATUS.LASER_OK _ e 0 _).trans ((State.noteHz_regs _ _).keepsBut _ _ _)
  · have hg : (!s.part.hz) = true := by rw [Bool.eq_false_iff.mpr h]; rfl
    exact ⟨s, congrArg Host.Outcome.next (if_pos hg), (if_neg h).mpr rfl⟩

end

/-! The statement. -/

/-- The domains, case by case. -/
theorem domainsSwitch : Claims.DomainsSwitch := by
  intro s x d
  refine ⟨domainReport_spec s x, domainOn_spec s x, domainOff_spec s x, fun hq => ⟨domainOnDone_spec s d hq, domainOffDone_spec s d hq,
    domainBringupDone_spec s d⟩, fun r back _ hp hs => railFault_spec s r back hp hs, thermalTrip_spec s⟩

/-- The governor, idle and the ages of calibrations. -/
theorem powerIsGoverned : Claims.PowerIsGoverned := by
  intro s w tj a b e ok
  have hw := weirUpdate_spec s w tj a b
  simp only [State.weirStep_decide] at hw
  exact ⟨hw, powerLimit_spec s, idleEnter_spec s, idleExit_spec s, calibrationAge_spec s, hzLaserOkChange_spec s e ok⟩

/-- Settles O58: each clause is a lemma about its row. DOMAIN acts once and leaves the warden core (log 62, DEDUCED);
that rails and trips fail all their domains rests on what the other units leave of power management; the edges that an idle package
latched are followed through the fold that lets them in. The rows stand on logs 64 and 66 to 69 too, all DEDUCED. -/
theorem domainsAndGovernor : Obligations.DomainsAndGovernor := ⟨domainsSwitch, powerIsGoverned⟩

end Sys2Proof.Machine
end
